-- ==== Sys2Proof/Word.lean ====
section
/-! DEFINITION. The word types of the Lanop LN7-1536 (00 R2, 01 R4, R6): 8-bit bytes, 32-bit registers,
64-bit addresses and pairs, 128-bit quads, 128-byte lines. -/

namespace Sys2Proof

/-- A byte of memory. -/
abbrev Byte := BitVec 8
/-- A vector or uniform register, an instruction word (01 R4, 04 R67). -/
abbrev Word := BitVec 32
/-- A pair of registers, an address, a mask (01 R4, R6). -/
abbrev DWord := BitVec 64
/-- A quad of registers, a brand, a gate word (01 R6, 08 R191). -/
abbrev Quad := BitVec 128
/-- The 128 bytes of a line, byte 0 in bits [7:0] (11 R237). -/
abbrev Line := BitVec 1024
/-- A register field of an instruction word, 7 bits (04 R69). -/
abbrev Field := BitVec 7

end Sys2Proof
end

