-- ==== Sys2Proof/Config.lean ====
section
/-! DEFINITION. What the spec leaves open or to the implementation: constants without a body, so that no proof can see
what they are (log entries 3, 4, 9, 10, 11, 18). Each is a free value of the model. -/

namespace Sys2Proof

/-- A free number for each draw: the delays of variable-latency results, drains, fills, acknowledgements and engine
stages, which the spec bounds at most (04 R85, 11 R239, 10 R228). Drawn with the counter `State.fresh` (log entry 3). -/
opaque Config.freeNat : Nat → Nat

/-- The choice an implementation makes among the results within the bound of a special function that is not correctly
rounded, from the opcode, the input as read and the snapshot: the same on every core and in every cycle (06 R150; log
entry 4). -/
opaque Config.special : Nat → Word → Word → Word

/-- The set of a home slice's ways that a line falls in (11 R249; the spec gives no set function; log entry 9). -/
opaque Config.l2Set : Nat → Nat

/-- How far slice i of a die, 0 to 31, lies from a point of its mesh, given by twice its row and twice its column (11 R243,
R244; the spec gives no positions of slices; log entry 9). -/
opaque Config.sliceDist : Nat → Nat → Nat → Nat

/-- The number of this module in the fabric (08 R188, 23 R365; log entry 18). -/
opaque Config.moduleNumber : BitVec 13

/-- The SHA-384 digests of the ROM (0), the firmware image of a number (1) and the fuse state of the part (2) (28 R411; log entry
10). -/
opaque Config.partDigest : Nat → Nat → BitVec 384

/-- The die's identity key, and the random number of each signature, from the counter of free values (28 R411; neither is in the
spec; log entry 10). -/
opaque Config.identityKey : Nat
opaque Config.signNonce : Nat → Nat

end Sys2Proof
end

