-- ==== Sys2Proof/Syntax.lean ====
section
/-! DEFINITION. The syntax of the Lanop LN7-1536: one constructor of `Instr` for every row of the opcode
table. A row with bits is an instruction word and carries its bundle's X and W words beside the fields of its
format (04 R68, R69). A row without bits is another of the machine's indivisible steps (95_what_each_step_holds):
an event under way inside the module, a command, or an input from outside. What such a step acts on (a thread, a line,
a command's argument, the bytes of an answer) is its `EvArg`; the agenda of the state holds the two together. -/

namespace Sys2Proof

/-- The fields of an X word (04 R72). -/
structure XPfx where
  k : BitVec 3
  z : Bool
  rm : BitVec 3
  c : Field
  sat : Bool
  ro : Bool
  nt : Bool
  /-- bits [4:0], which must be zero (04 R73) -/
  low : BitVec 5
  deriving DecidableEq, Repr

/-- The words of a bundle before its instruction word: an optional X word, then an optional W word with its imm22
(04 R68, R75). -/
structure Pfx where
  x : Option XPfx
  w : Option (BitVec 22)
  deriving DecidableEq, Repr

/-- Format T (04 R69). -/
structure TF where
  p : Pfx
  d : Field
  a : Field
  b : Field
  u : Bool
  deriving DecidableEq, Repr

/-- Format I (04 R69). -/
structure IF where
  p : Pfx
  d : Field
  a : Field
  imm : BitVec 8
  deriving DecidableEq, Repr

/-- Format L (04 R69). -/
structure LF where
  p : Pfx
  d : Field
  imm : BitVec 15
  deriving DecidableEq, Repr

/-- Format J (04 R69). -/
structure JF where
  p : Pfx
  disp : BitVec 22
  deriving DecidableEq, Repr

/-- Format K (04 R69). -/
structure KF where
  p : Pfx
  kd : BitVec 3
  cond : BitVec 4
  a : Field
  b : Field
  u : Bool
  deriving DecidableEq, Repr

/-- Format C (04 R69). -/
structure CF where
  p : Pfx
  k : BitVec 3
  sense : Bool
  disp : BitVec 18
  deriving DecidableEq, Repr

/-- Format Z (04 R69). -/
structure ZF where
  p : Pfx
  a : Field
  disp : BitVec 15
  deriving DecidableEq, Repr

/-- A PACE word's stall counts, c0 first (04 R79). -/
structure PaceF where
  c0 : BitVec 3
  c1 : BitVec 3
  c2 : BitVec 3
  c3 : BitVec 3
  c4 : BitVec 3
  c5 : BitVec 3
  c6 : BitVec 3
  deriving DecidableEq, Repr

/-- A thread: its team, its group in the team, its index in the group (09 R208). -/
structure Tid where
  team : Nat
  grp : Nat
  thr : Nat
  deriving DecidableEq, Repr

/-- How a host request was completed (23 R359): with data, Unsupported Request, Completer Abort, or poisoned. -/
inductive Completion where
  | success (data : Line)
  | unsupported
  | abort
  | poisoned
  deriving DecidableEq, Repr

/-- The AtomicOps of the host port (23 R357). -/
inductive HostOp where
  | fetchAdd
  | swap
  | cas
  deriving DecidableEq, Repr

/-- The classes of storage of the error table (27 R399). -/
inductive Storage where
  | coreSram
  | l1
  | storeBuffer
  | writeCombining
  | l2
  | dram
  | flit
  deriving DecidableEq, Repr

/-- What a step that is no word acts on. A step uses the fields its description names; the others stay at 0. -/
structure EvArg where
  /-- a team, group and thread of the model -/
  team : Nat := 0
  grp : Nat := 0
  thr : Nat := 0
  /-- a core number -/
  core : Nat := 0
  /-- a context identifier -/
  ctx : Nat := 0
  /-- a number of the step's own kind: an engine, a slot, a transaction, a port, a node, a module -/
  id : Nat := 0
  /-- a line, a granule, a physical address or an offset -/
  addr : Nat := 0
  /-- a length, a sequence number, a time -/
  len : Nat := 0
  /-- ARG of a command (18 R311) -/
  arg : BitVec 48 := 0
  /-- a yes or no of the step: a fetch that succeeded, Relaxed Ordering, a core whose state survived -/
  ok : Bool := false
  /-- 64-bit operands of the step -/
  x : DWord := 0
  y : DWord := 0
  /-- bytes that come from outside -/
  bytes : List Byte := []
  /-- bytes at offsets that come from outside -/
  image : List (Nat × Byte) := []
  /-- lines that come from outside, by line number -/
  lines : List (Nat × Line) := []
  /-- numbers that come from outside -/
  nums : List Nat := []
  result : Completion := .abort
  op : HostOp := .fetchAdd
  storage : Storage := .coreSram
  deriving DecidableEq, Repr

/-- One constructor for every row of spec/opcode_table.json. -/
inductive Instr where
  /-- ADD (R97): Adds two 32-bit operands per thread, wrapping or saturating. -/
  | add (f : TF)
  /-- SUB (R97): Subtracts B from A per thread. -/
  | sub (f : TF)
  /-- ADDI (R103): Adds a signed immediate to A per thread. -/
  | addi (f : IF)
  /-- MUL (R97): Writes the low 32 bits of A times B. -/
  | mul (f : TF)
  /-- MULHS (R97): Writes the high 32 bits of the signed product. -/
  | mulhs (f : TF)
  /-- MULHN (R97): Writes the high 32 bits of the unsigned product. -/
  | mulhn (f : TF)
  /-- MAD (R97): Writes the low 32 bits of A times B plus D. -/
  | mad (f : TF)
  /-- DIVS (R99): Writes the signed quotient, with defined results for zero and overflow. -/
  | divs (f : TF)
  /-- DIVN (R99): Writes the unsigned quotient. -/
  | divn (f : TF)
  /-- REMS (R99): Writes the signed remainder. -/
  | rems (f : TF)
  /-- REMN (R99): Writes the unsigned remainder. -/
  | remn (f : TF)
  /-- MINS (R97): Writes the signed lesser of A and B. -/
  | mins (f : TF)
  /-- MINN (R97): Writes the unsigned lesser of A and B. -/
  | minn (f : TF)
  /-- MAXS (R97): Writes the signed greater of A and B. -/
  | maxs (f : TF)
  /-- MAXN (R97): Writes the unsigned greater of A and B. -/
  | maxn (f : TF)
  /-- ABS (R97): Writes the absolute value of signed B. -/
  | abs (f : TF)
  /-- NEG (R97): Writes 0 minus B. -/
  | neg (f : TF)
  /-- AND (R97): Writes the bitwise and of A and B. -/
  | and (f : TF)
  /-- OR (R97): Writes the bitwise or of A and B. -/
  | or (f : TF)
  /-- XOR (R97): Writes the bitwise exclusive or of A and B. -/
  | xor (f : TF)
  /-- ANDN (R97): Writes A and not B. -/
  | andn (f : TF)
  /-- NOT (R97): Writes the complement of B. -/
  | not (f : TF)
  /-- SHL (R100): Shifts A left by B. -/
  | shl (f : TF)
  /-- SHR (R100): Shifts A right by B with zero fill. -/
  | shr (f : TF)
  /-- SRA (R100): Shifts A right by B with sign fill. -/
  | sra (f : TF)
  /-- ROL (R100): Rotates A left by B modulo 32. -/
  | rol (f : TF)
  /-- SHLI (R100): Shifts A left by an unsigned immediate. -/
  | shli (f : IF)
  /-- SHRI (R100): Shifts A right by an immediate with zero fill. -/
  | shri (f : IF)
  /-- SRAI (R100): Shifts A right by an immediate with sign fill. -/
  | srai (f : IF)
  /-- CLZ (R97): Counts leading zero bits of B. -/
  | clz (f : TF)
  /-- CTZ (R97): Counts trailing zero bits of B. -/
  | ctz (f : TF)
  /-- POPC (R97): Counts the 1 bits of B. -/
  | popc (f : TF)
  /-- BREV (R97): Reverses the bits of B. -/
  | brev (f : TF)
  /-- BFX (R101): Extracts a bit field of A under control word B. -/
  | bfx (f : TF)
  /-- BFI (R101): Inserts a field of A into D under control word B. -/
  | bfi (f : TF)
  /-- PRMB (R102): Builds each result byte from bytes of B:A chosen by D. -/
  | prmb (f : TF)
  /-- SEL (R97): Selects A where D is nonzero, else B. -/
  | sel (f : TF)
  /-- ADDW (R97): Adds 64-bit register pairs. -/
  | addw (f : TF)
  /-- SUBW (R97): Subtracts 64-bit register pairs. -/
  | subw (f : TF)
  /-- MULWS (R97): Writes the exact signed 64-bit product to a pair. -/
  | mulws (f : TF)
  /-- MULWN (R97): Writes the exact unsigned 64-bit product to a pair. -/
  | mulwn (f : TF)
  /-- MOVL (R103): Loads a signed immediate into a vector register. -/
  | movl (f : LF)
  /-- MOV (R97): Copies B into d. -/
  | mov (f : TF)
  /-- SADD (R108): Convergently adds two uniform registers. -/
  | sadd (f : TF)
  /-- SSUB (R108): Convergently subtracts uniform registers. -/
  | ssub (f : TF)
  /-- SADDI (R108): Convergently adds an immediate to a uniform register. -/
  | saddi (f : IF)
  /-- SMUL (R108): Convergently multiplies uniform registers. -/
  | smul (f : TF)
  /-- SMAD (R108): Convergently computes A times B plus D in uniform registers. -/
  | smad (f : TF)
  /-- SAND (R108): Uniform bitwise and. -/
  | sand (f : TF)
  /-- SOR (R108): Uniform bitwise or. -/
  | sor (f : TF)
  /-- SXOR (R108): Uniform bitwise exclusive or. -/
  | sxor (f : TF)
  /-- SSHL (R108): Uniform shift left. -/
  | sshl (f : TF)
  /-- SSHR (R108): Uniform logical shift right. -/
  | sshr (f : TF)
  /-- SSRA (R108): Uniform arithmetic shift right. -/
  | ssra (f : TF)
  /-- SSHLI (R108): Uniform shift left by an immediate. -/
  | sshli (f : IF)
  /-- SSHRI (R108): Uniform logical shift right by an immediate. -/
  | sshri (f : IF)
  /-- SMINS (R108): Uniform signed minimum. -/
  | smins (f : TF)
  /-- SMAXS (R108): Uniform signed maximum. -/
  | smaxs (f : TF)
  /-- SMOV (R108): Copies a uniform register. -/
  | smov (f : TF)
  /-- SMOVL (R108): Loads an immediate into a uniform register. -/
  | smovl (f : LF)
  /-- SSEL (R108): Uniform select of A or B by D. -/
  | ssel (f : TF)
  /-- RFL (R109): Reads the vector register of the lowest participating thread into a uniform register. -/
  | rfl (f : TF)
  /-- RDL (R110): Reads the vector register of the thread indexed by a uniform register. -/
  | rdl (f : TF)
  /-- CMP (R125): Writes the thread's bit of kd with an integer comparison. -/
  | cmp (f : KF)
  /-- CMPI (R125): Writes the thread's mask bit with a comparison against a 7-bit immediate. -/
  | cmpi (f : KF)
  /-- FCMP (R127): Writes the thread's mask bit with an FP32 comparison. -/
  | fcmp (f : KF)
  /-- SCMP (R128): Convergently writes governed mask positions with a uniform comparison. -/
  | scmp (f : KF)
  /-- KAND (R129): Writes governed positions of kd with ka and kb. -/
  | kand (f : KF)
  /-- KOR (R129): Writes governed positions of kd with ka or kb. -/
  | kor (f : KF)
  /-- KXOR (R129): Writes governed positions of kd with ka xor kb. -/
  | kxor (f : KF)
  /-- KANDN (R129): Writes governed positions of kd with ka and not kb. -/
  | kandn (f : KF)
  /-- KNOT (R129): Writes governed positions of kd with not ka. -/
  | knot (f : KF)
  /-- KMOV (R129): Copies governed positions of ka into kd. -/
  | kmov (f : KF)
  /-- KPOP (R128): Writes the population count of ka and G to a uniform register. -/
  | kpop (f : TF)
  /-- BALLOT (R129): Writes the mask of participants with nonzero v[a] to a uniform pair. -/
  | ballot (f : TF)
  /-- KFROM (R125): Writes the thread's mask bit from v[a] being nonzero. -/
  | kfrom (f : KF)
  /-- KTOV (R128): Writes all ones or zero to v[d] from the thread's bit of ka. -/
  | ktov (f : TF)
  /-- KFIRST (R128): Isolates the lowest set bit of ka and G into kd. -/
  | kfirst (f : KF)
  /-- KALL (R128): Writes 1 into governed positions when ka covers G. -/
  | kall (f : KF)
  /-- BRA (R114): Branches unconditionally by a 22-bit displacement. -/
  | bra (f : JF)
  /-- BRK (R114): Branches per thread when its bit of mask k equals sense. -/
  | brk (f : CF)
  /-- BRZ (R114): Branches per thread when v[a] is zero. -/
  | brz (f : ZF)
  /-- BRNZ (R114): Branches per thread when v[a] is nonzero. -/
  | brnz (f : ZF)
  /-- CALL (R115): Branches by displacement and writes the return address to a15. -/
  | call (f : JF)
  /-- CALLA (R115): Jumps to the value of an a register and writes the return address to a15. -/
  | calla (f : TF)
  /-- JMPA (R115): Jumps to the value of an a register. -/
  | jmpa (f : TF)
  /-- RET (R115): Jumps to the value of a15. -/
  | ret (f : TF)
  /-- EXIT (R116): Ends the issuing thread, and the group and team when it is the last. -/
  | exit (f : TF)
  /-- YIELD (R117): Makes the thread not ready until another entry issues or 8 cycles pass. -/
  | yield (f : TF)
  /-- NOP (R117): Does nothing. -/
  | nop (f : TF)
  /-- WBASE (R119): Sets the thread's vector window base or traps WINDOW_RANGE. -/
  | wbase (f : IF)
  /-- RGN (R121): Begins an idempotent region and increments RGNCNT. -/
  | rgn (f : IF)
  /-- PHINT (R122): Stops the thread for a liveness-record save when a pre-emption request is pending. -/
  | phint (f : LF)
  /-- SLEEP (R118): Makes the thread not ready for 16 times imm8 cycles. -/
  | sleep (f : IF)
  /-- SHFLI (R132): Gives each participant v[a] of the thread indexed by B. -/
  | shfli (f : TF)
  /-- SHFLU (R132): Gives each participant v[a] of the thread B below it. -/
  | shflu (f : TF)
  /-- SHFLD (R132): Gives each participant v[a] of the thread B above it. -/
  | shfld (f : TF)
  /-- SHFLX (R132): Gives each participant v[a] of the thread at its index xor B. -/
  | shflx (f : TF)
  /-- MATCH (R132): Writes the mask of participants whose v[a] equals the thread's. -/
  | matchOp (f : TF)
  /-- REDADD (R133): Writes the integer sum of v[a] over participants. -/
  | redadd (f : TF)
  /-- REDMIN (R132): Writes the signed minimum over participants. -/
  | redmin (f : TF)
  /-- REDMAX (R132): Writes the signed maximum over participants. -/
  | redmax (f : TF)
  /-- REDAND (R132): Writes the bitwise and over participants. -/
  | redand (f : TF)
  /-- REDOR (R132): Writes the bitwise or over participants. -/
  | redor (f : TF)
  /-- FREDADD (R135): Writes the FP32 fixed-tree sum over participants. -/
  | fredadd (f : TF)
  /-- SCANADD (R133): Writes the inclusive prefix sum over participants. -/
  | scanadd (f : TF)
  /-- SCANADDX (R133): Writes the exclusive prefix sum over participants. -/
  | scanaddx (f : TF)
  /-- FADD (R137): FP32 addition rounded once. -/
  | fadd (f : TF)
  /-- FSUB (R137): FP32 subtraction rounded once. -/
  | fsub (f : TF)
  /-- FMUL (R137): FP32 multiplication rounded once. -/
  | fmul (f : TF)
  /-- FFMA (R137): FP32 fused multiply-add with one rounding. -/
  | ffma (f : TF)
  /-- FMIN (R138): IEEE minimumNumber of A and B. -/
  | fmin (f : TF)
  /-- FMAX (R138): IEEE maximumNumber of A and B. -/
  | fmax (f : TF)
  /-- FABS (R139): Clears the sign bit of B. -/
  | fabs (f : TF)
  /-- FNEG (R139): Inverts the sign bit of B. -/
  | fneg (f : TF)
  /-- FCLASS (R140): Writes a one-hot class of B. -/
  | fclass (f : TF)
  /-- FRND (R141): Rounds B to an integral FP32 value. -/
  | frnd (f : TF)
  /-- FSCALE (R141): Computes A times 2 to the power B. -/
  | fscale (f : TF)
  /-- FCVT (R142): Converts one element between floating formats. -/
  | fcvt (f : IF)
  /-- ICVT (R142): Converts one integer element to a floating format. -/
  | icvt (f : IF)
  /-- FICVT (R142): Converts one floating element to a saturated integer. -/
  | ficvt (f : IF)
  /-- HADD2 (R144): Packed FP16 addition. -/
  | hadd2 (f : TF)
  /-- HSUB2 (R144): Packed FP16 subtraction. -/
  | hsub2 (f : TF)
  /-- HMUL2 (R144): Packed FP16 multiplication. -/
  | hmul2 (f : TF)
  /-- HFMA2 (R144): Packed FP16 fused multiply-add. -/
  | hfma2 (f : TF)
  /-- BADD2 (R144): Packed BF16 addition. -/
  | badd2 (f : TF)
  /-- BMUL2 (R144): Packed BF16 multiplication. -/
  | bmul2 (f : TF)
  /-- BFMA2 (R144): Packed BF16 fused multiply-add. -/
  | bfma2 (f : TF)
  /-- FPK (R143): Converts A from FP32 and inserts it as one element of D. -/
  | fpk (f : IF)
  /-- FUPK (R143): Widens one packed element of A to FP32. -/
  | fupk (f : IF)
  /-- QENC (R145): Convergently encodes per-thread FP32 values into bfp blocks across the group. -/
  | qenc (f : IF)
  /-- QDEC (R146): Convergently decodes bfp mantissas and block exponents to FP32. -/
  | qdec (f : IF)
  /-- SFRCP (R150): Queues a correctly rounded reciprocal under a token. -/
  | sfrcp (f : IF)
  /-- SFRSQ (R150): Queues a reciprocal square root under a token. -/
  | sfrsq (f : IF)
  /-- SFSQRT (R150): Queues a correctly rounded square root under a token. -/
  | sfsqrt (f : IF)
  /-- SFEXP2 (R150): Queues 2 to the power A under a token. -/
  | sfexp2 (f : IF)
  /-- SFLOG2 (R150): Queues log2 A under a token. -/
  | sflog2 (f : IF)
  /-- SFSIN (R150): Queues sin A under a token. -/
  | sfsin (f : IF)
  /-- SFCOS (R150): Queues cos A under a token. -/
  | sfcos (f : IF)
  /-- SFTANH (R150): Queues tanh A under a token. -/
  | sftanh (f : IF)
  /-- SFSIGM (R150): Queues the logistic sigmoid of A under a token. -/
  | sfsigm (f : IF)
  /-- SFERF (R150): Queues erf A under a token. -/
  | sferf (f : IF)
  /-- SFDIV (R150): Queues a correctly rounded division D by A under a token. -/
  | sfdiv (f : IF)
  /-- SFWAIT (R151): Waits until the named tokens have landed and frees them. -/
  | sfwait (f : IF)
  /-- SFTEST (R152): Convergently reports which named tokens are free or landed. -/
  | sftest (f : IF)
  /-- LD_S8 (R160): Loads a byte through an a register, sign-extended. -/
  | ldS8 (f : IF)
  /-- LD_B8 (R160): Loads a byte through an a register, zero-extended. -/
  | ldB8 (f : IF)
  /-- LD_S16 (R160): Loads a halfword, sign-extended. -/
  | ldS16 (f : IF)
  /-- LD_B16 (R160): Loads a halfword, zero-extended. -/
  | ldB16 (f : IF)
  /-- LD_B32 (R160): Loads a word through an a register. -/
  | ldB32 (f : IF)
  /-- LD_B64 (R160): Loads 8 bytes into a register pair. -/
  | ldB64 (f : IF)
  /-- LD_B128 (R160): Loads 16 bytes into a register quad. -/
  | ldB128 (f : IF)
  /-- ST_B8 (R160): Stores a byte through an a register. -/
  | stB8 (f : IF)
  /-- ST_B16 (R160): Stores a halfword. -/
  | stB16 (f : IF)
  /-- ST_B32 (R160): Stores a word. -/
  | stB32 (f : IF)
  /-- ST_B64 (R160): Stores a register pair. -/
  | stB64 (f : IF)
  /-- ST_B128 (R160): Stores a register quad. -/
  | stB128 (f : IF)
  /-- LDS_B32 (R160): Loads a word from the team scratchpad at a vector offset. -/
  | ldsB32 (f : IF)
  /-- LDS_B64 (R160): Loads a pair from the scratchpad. -/
  | ldsB64 (f : IF)
  /-- LDS_B128 (R160): Loads a quad from the scratchpad. -/
  | ldsB128 (f : IF)
  /-- STS_B32 (R160): Stores a word to the scratchpad. -/
  | stsB32 (f : IF)
  /-- STS_B64 (R160): Stores a pair to the scratchpad. -/
  | stsB64 (f : IF)
  /-- STS_B128 (R160): Stores a quad to the scratchpad. -/
  | stsB128 (f : IF)
  /-- LDO_B16 (R160): Loads a halfword at a uniform base pair plus a vector offset. -/
  | ldoB16 (f : TF)
  /-- LDO_B32 (R160): Loads a word at a uniform base pair plus a vector offset. -/
  | ldoB32 (f : TF)
  /-- STO_B16 (R160): Stores a halfword at a uniform base pair plus a vector offset. -/
  | stoB16 (f : TF)
  /-- STO_B32 (R160): Stores a word at a uniform base pair plus a vector offset. -/
  | stoB32 (f : TF)
  /-- LDU (R162): Convergently loads one word into a uniform register. -/
  | ldu (f : IF)
  /-- LDP (R164): Loads a 16-byte pointer and tethers a brand, fetching its object if absent. -/
  | ldp (f : IF)
  /-- STP (R165): Stores an a register as a brand or raw pointer. -/
  | stp (f : IF)
  /-- ADDA (R166): Adds a signed offset to an a register's value, keeping the shadow. -/
  | adda (f : TF)
  /-- ADDAI (R166): Adds an immediate to an a register's value, keeping the shadow. -/
  | addai (f : IF)
  /-- MOVA (R166): Copies an a register's value and shadow. -/
  | mova (f : TF)
  /-- MOVAV (R166): Copies an a register's value into a v pair. -/
  | movav (f : TF)
  /-- MOVVA (R166): Sets an a register's value from a v or s pair with a clear shadow. -/
  | movva (f : TF)
  /-- CMPA (R167): Compares two pointers by key and writes the thread's mask bit. -/
  | cmpa (f : KF)
  /-- SUBA (R168): Writes the signed difference of two pointers to a v pair. -/
  | suba (f : TF)
  /-- IDA (R166): Writes the 16 bytes STP would store into a v quad. -/
  | ida (f : TF)
  /-- PREF (R163): Prefetches a line into L1 or the home slice without faulting. -/
  | pref (f : IF)
  /-- STDL_B32 (R169): Stores a word at home and delivers the updated line to destination cores. -/
  | stdlB32 (f : TF)
  /-- STDL_B64 (R169): Delivering store of a pair. -/
  | stdlB64 (f : TF)
  /-- STDL_B128 (R169): Delivering store of a quad. -/
  | stdlB128 (f : TF)
  /-- AADD (R174): Atomically adds B to a 32-bit word and returns the old value. -/
  | aadd (f : TF)
  /-- AADD_B64 (R174): Atomically adds to a 64-bit word. -/
  | aaddB64 (f : TF)
  /-- AMINS (R174): Atomic signed minimum on a 32-bit word. -/
  | amins (f : TF)
  /-- AMINS_B64 (R174): Atomic signed minimum on a 64-bit word. -/
  | aminsB64 (f : TF)
  /-- AMINN (R174): Atomic unsigned minimum on a 32-bit word. -/
  | aminn (f : TF)
  /-- AMINN_B64 (R174): Atomic unsigned minimum on a 64-bit word. -/
  | aminnB64 (f : TF)
  /-- AMAXS (R174): Atomic signed maximum on a 32-bit word. -/
  | amaxs (f : TF)
  /-- AMAXS_B64 (R174): Atomic signed maximum on a 64-bit word. -/
  | amaxsB64 (f : TF)
  /-- AMAXN (R174): Atomic unsigned maximum on a 32-bit word. -/
  | amaxn (f : TF)
  /-- AMAXN_B64 (R174): Atomic unsigned maximum on a 64-bit word. -/
  | amaxnB64 (f : TF)
  /-- AAND (R174): Atomic and on a 32-bit word. -/
  | aand (f : TF)
  /-- AAND_B64 (R174): Atomic and on a 64-bit word. -/
  | aandB64 (f : TF)
  /-- AOR (R174): Atomic or on a 32-bit word. -/
  | aor (f : TF)
  /-- AOR_B64 (R174): Atomic or on a 64-bit word. -/
  | aorB64 (f : TF)
  /-- AXOR (R174): Atomic exclusive or on a 32-bit word. -/
  | axor (f : TF)
  /-- AXOR_B64 (R174): Atomic exclusive or on a 64-bit word. -/
  | axorB64 (f : TF)
  /-- AXCHG (R174): Atomic exchange of a 32-bit word. -/
  | axchg (f : TF)
  /-- AXCHG_B64 (R174): Atomic exchange of a 64-bit word. -/
  | axchgB64 (f : TF)
  /-- ACAS (R174): Atomic compare and swap of a 32-bit word. -/
  | acas (f : TF)
  /-- ACAS_B64 (R174): Atomic compare and swap of a 64-bit word. -/
  | acasB64 (f : TF)
  /-- AFADD (R174): Atomic FP32 add rounded to nearest even. -/
  | afadd (f : TF)
  /-- AINCW (R174): Atomic wrapping increment bounded by B. -/
  | aincw (f : TF)
  /-- FENCE (R177): Performs a release then an acquire of its scope. -/
  | fence (f : TF)
  /-- ACQ (R177): Acquire of its scope, dropping loose lines and clean private copies as scoped. -/
  | acq (f : TF)
  /-- REL (R177): Release of its scope, waiting for prior writes and deliveries. -/
  | rel (f : TF)
  /-- ACQR (R178): Crook acquire: asks a victim core to promote its team-scope releases, then ACQ.DEV. -/
  | acqr (f : TF)
  /-- CCTL (R179): Writes back, drops, zeroes or discards a line as imm8 selects. -/
  | cctl (f : IF)
  /-- FOLD (R183): Declares a fold descriptor in a team slot. -/
  | fold (f : IF)
  /-- UNFOLD (R183): Clears an untouched fold slot. -/
  | unfold (f : IF)
  /-- TASKEND (R186): Arrives at task end; the last arrival commits folds and releases claims. -/
  | taskend (f : TF)
  /-- AGE (R188): Writes the team's 64-bit age stamp to a uniform pair. -/
  | age (f : TF)
  /-- BARA (R190): Arrives at a named barrier and continues. -/
  | bara (f : IF)
  /-- BARW (R190): Arrives at a named barrier and waits for its phase to complete. -/
  | barw (f : IF)
  /-- BARS (R190): Convergently sets a barrier's expected arrivals. -/
  | bars (f : IF)
  /-- GINIT (R192): Initialises a scratchpad gate with expected arrivals. -/
  | ginit (f : TF)
  /-- GEXP (R192): Adds expected bytes to a gate. -/
  | gexp (f : TF)
  /-- GARR (R192): Releases at team scope and arrives at a gate with bytes. -/
  | garr (f : TF)
  /-- GWAIT (R192): Waits until a gate's phase differs from B, then acquires. -/
  | gwait (f : TF)
  /-- GTEST (R192): Tests a gate's phase without waiting. -/
  | gtest (f : TF)
  /-- CPY (R194): Issues a plain copy described by a descriptor to the copy queue. -/
  | cpy (f : TF)
  /-- CPYG (R194): Issues a gathering copy with source indices from INDEX. -/
  | cpyg (f : TF)
  /-- CPYS (R194): Issues a scattering copy with destination indices from INDEX. -/
  | cpys (f : TF)
  /-- CPYR (R194): Issues a copy that adds into the destination. -/
  | cpyr (f : TF)
  /-- TRES (R198): Installs a reservation record in a trough slot. -/
  | tres (f : IF)
  /-- TREL (R198): Frees a trough slot once no issued job names it. -/
  | trel (f : IF)
  /-- JDECL (R201): Binds a job card and signer count to a convergence register. -/
  | jdecl (f : TF)
  /-- SIGN (R201): Signs a job; the last signature issues it to the matrix unit. -/
  | sign (f : IF)
  /-- JWAIT (R201): Waits until a job is done, then acquires at team scope. -/
  | jwait (f : IF)
  /-- ACCRD (R203): Reads and converts one accumulator element. -/
  | accrd (f : IF)
  /-- ACCWR (R203): Writes one accumulator element. -/
  | accwr (f : IF)
  /-- ACCZ (R203): Zeroes every accumulator element of a role-C slot. -/
  | accz (f : IF)
  /-- TQSET (R198): Sets a slot's NZX and NZXEN for later jobs. -/
  | tqset (f : IF)
  /-- TRAP (R205): Sets the region entry after itself and traps SOFTWARE with a code. -/
  | trap (f : LF)
  /-- EBRK (R205): Sets the region entry after itself and traps BREAKPOINT. -/
  | ebrk (f : TF)
  /-- RTE (R205): Returns from the handler to user mode at TRAPRGN. -/
  | rte (f : TF)
  /-- GETSR (R206): Reads a special register into a v register. -/
  | getsr (f : LF)
  /-- SETSR (R206): Writes a special register from a v register. -/
  | setsr (f : LF)
  /-- EMIT (R207): Emits a record to a work-graph node's bin, held until commit. -/
  | emit (f : TF)
  /-- PACE (R80): Sets the stall counts of the next seven bundles. -/
  | pace (f : PaceF)
  /-- MAPPED_OPCODE (R90): A word in the mapped space executes as its target, traps EMULATE or ILLEGAL_OPCODE per the decode table. -/
  | mappedOpcode (p : Pfx) (w : Word)
  /-- ILLEGAL_OPCODE_WORD (R89): A fetched word with opcode 0x000, an unassigned base opcode, or a reserved opcode traps ILLEGAL_OPCODE. -/
  | illegalOpcodeWord (p : Pfx) (w : Word)
  /-- PERMIT_BACKOFF_EXPIRY (R228): After its back-off a thread without a permit issues the trapping bundle again. -/
  | permitBackoffExpiry
  /-- PAGE_REQUEST_ARRIVAL (R229): The page-request queue accepts, merges or refuses a request and returns the permit. -/
  | pageRequestArrival
  /-- ENGINE_REQUEST_RETRY (R229): An engine whose page request was refused retries after its back-off. -/
  | engineRequestRetry
  /-- VARIABLE_LATENCY_RESULT (R85): A load, atomic, cross-lane or other variable-latency result lands and releases its interlock. -/
  | variableLatencyResult
  /-- SF_RESULT (R148): A special-function result lands and frees its queue entry. -/
  | sfResult
  /-- SLEEP_EXPIRY (R118): A sleeping thread becomes ready again. -/
  | sleepExpiry
  /-- YIELD_EXPIRY (R117): A yielding thread becomes ready after 8 cycles. -/
  | yieldExpiry
  /-- WOUND (R189): A younger holder is stopped, its tentative work discarded, and it restarts with its original age. -/
  | wound
  /-- CLAIM_GRANT (R184): A released granule is granted to the oldest waiting task, which acquires and proceeds. -/
  | claimGrant
  /-- GIVEN_FILL (R171): A delivered line arrives at a destination L1 and is installed or refused. -/
  | givenFill
  /-- DROP_NOTICE (R238): A core's drop notice for a given line reaches its home directory. -/
  | dropNotice
  /-- LINE_INVALIDATION (R241): An invalidation from a home removes a line copy on a core. -/
  | lineInvalidation
  /-- WRITE_ACK (R177): A home or cluster slice acknowledges a write, letting waiting releases proceed. -/
  | writeAck
  /-- STORE_BUFFER_DRAIN (R239): A store-buffer entry drains toward home when full, needed, displaced or 64 cycles old. -/
  | storeBufferDrain
  /-- HOME_RETRY (R247): A refused requester retries after its back-off. -/
  | homeRetry
  /-- REGION_MERGE (R246): Sibling directory regions quiet for 2^20 cycles merge. -/
  | regionMerge
  /-- ACQR_REQUEST (R178): A victim core promotes its completed team-scope releases and answers. -/
  | acqrRequest
  /-- COPY_START (R276): A free copy engine takes the head copy of the queue. -/
  | copyStart
  /-- COPY_COMPLETION (R196): A copy ends, normally or by fault, and updates its gate. -/
  | copyCompletion
  /-- TROUGH_ENTRY (R279): An entry converter finishes entering one A or B tile into the trough. -/
  | troughEntry
  /-- KSTEP (R280): The matrix unit performs one K-step into a C tile once its tiles are entered. -/
  | kstep
  /-- JOB_COMPLETION (R201): A job writes its output, updates its gate and becomes done. -/
  | jobCompletion
  /-- JOB_START (R283): The next queued job begins once the previous one completes. -/
  | jobStart
  /-- CLUSTER_PLACEMENT (R300): A waiting cluster is placed whole on the first fitting rectangle and its teams start. -/
  | clusterPlacement
  /-- DRAIN_DECISION (R301): A cluster that waited a quantum without fitting causes a rectangle to be drained. -/
  | drainDecision
  /-- QUANTUM_EXPIRY (R328): A team resident past its quantum while another waits receives a pre-emption request. -/
  | quantumExpiry
  /-- FULL_STOP_TIMEOUT (R329): 20 µs after a request, unstopped threads stop at their next bundle boundary. -/
  | fullStopTimeout
  /-- TEAM_SAVE (R330): Once every thread has stopped, the team is released, drained and written to its image. -/
  | teamSave
  /-- TEAM_RESUME (R333): A saved team is placed, restored from its image and acquires. -/
  | teamResume
  /-- NODE_TIMER_EXPIRY (R306): A node's bin timer expires and makes it eligible. -/
  | nodeTimerExpiry
  /-- NODE_DISPATCH (R307): The graph engine launches a team for the highest-ranked eligible node with a batch. -/
  | nodeDispatch
  /-- LAUNCH_ENTRY (R296): A ring entry of type launch is checked and its grid accepted or rejected. -/
  | launchEntry
  /-- GRAPH_LOAD (R303): A ring entry loads a work graph and computes path values. -/
  | graphLoad
  /-- GRAPH_UNLOAD (R304): A ring entry unloads the graph and frees bins. -/
  | graphUnload
  /-- ENABLE (R311): Checks a context record and enables the context. -/
  | enable
  /-- RING (R295): Re-reads RINGTAIL and takes submission entries, detecting overrun. -/
  | ringCommand
  /-- INVALIDATE_ALL (R317): Invalidates every translation of the context and clears the UR list. -/
  | invalidateAll
  /-- INVALIDATE_PAGE (R317): Invalidates the translations of one page. -/
  | invalidatePage
  /-- REQUEST_DONE (R230): Completes a page request as done; waiters resume at their region entry. -/
  | requestDone
  /-- REQUEST_FAILED (R230): Completes a page request as failed; waiters take their cause. -/
  | requestFailed
  /-- WATCHDOG_RESTART (R324): Restarts the context's watchdog count. -/
  | watchdogRestart
  /-- DISABLE (R323): Ends the context's teams, drains and invalidates its state and clears EN. -/
  | disable
  /-- RESUME_TEAM (R414): Resumes a team halted by a system report. -/
  | resumeTeam
  /-- END_TEAM (R414): Ends a team halted by a system report as a wounded team without restart. -/
  | endTeam
  /-- CTXCMD_INVALID (R311): An undefined command op adds 1 to the management error count. -/
  | ctxcmdInvalid
  /-- WATCHDOG_EXPIRY (R324): The context watchdog reaches its limit and every resident thread takes WATCHDOG. -/
  | watchdogExpiry
  /-- OBJECT_FETCH_COMPLETE (R347): A pool or peer object fetch completes or fails, and waiters proceed or trap. -/
  | objectFetchComplete
  /-- EVICTION_COMPLETE (R347): An object's write-back finishes and the entry becomes absent. -/
  | evictionComplete
  /-- HOST_COMPLETION (R359): A completion for a host-window request arrives, returning data or an error. -/
  | hostCompletion
  /-- HOST_COMPLETION_TIMEOUT (R359): A host request without completion for 50 ms traps LINK_LOST. -/
  | hostCompletionTimeout
  /-- HOST_BAR2_READ (R361): A host read of BAR2 returns the home's value. -/
  | hostBar2Read
  /-- HOST_BAR2_WRITE (R361): A host posted write to BAR2 is applied at home. -/
  | hostBar2Write
  /-- HOST_ATOMICOP (R361): A host AtomicOp is performed at home as a device-scope atomic. -/
  | hostAtomicop
  /-- PORT_FAILOVER (R362): The standby host port takes over after the active link stays down 1 ms. -/
  | portFailover
  /-- BACK_INVALIDATE (R364): A pool shelf snoop writes back and invalidates every copy of a line before answering. -/
  | backInvalidate
  /-- POOL_TIMEOUT (R364): A pool request without response for 50 ms traps LINK_LOST. -/
  | poolTimeout
  /-- FLIT_RECEIVE (R366): A link flit is received and resequenced. -/
  | flitReceive
  /-- LINK_ACK (R366): A link acknowledgement frees and selectively resends flits. -/
  | linkAck
  /-- REPLAY_TIMEOUT (R366): With no acknowledgement for 1 µs the oldest flit is resent. -/
  | replayTimeout
  /-- FABRIC_RESPONSE (R368): A peer response or acknowledgement frees an outstanding-transaction entry. -/
  | fabricResponse
  /-- WC_DRAIN (R369): A write-combining entry drains as one write when full, needed or 2 µs old. -/
  | wcDrain
  /-- TRANSACTION_EXPIRY (R370): An outstanding-transaction entry without response for 100 µs expires. -/
  | transactionExpiry
  /-- TIME_MESSAGE (R391): A fabric time message updates OFFSET, SYNC and GTIME. -/
  | timeMessage
  /-- SYNC_TIMEOUT (R391): No time message for 100 µs clears SYNC. -/
  | syncTimeout
  /-- LEASE_RENEWAL (R383): Every 20 µs the holder renews each lease of its tasks. -/
  | leaseRenewal
  /-- RENEWAL_RECEIVE (R394): A home accepts, clamps or refuses a lease renewal. -/
  | renewalReceive
  /-- HOLDER_LEASE_LAPSE (R393): The holder's clock reaches E minus 250 ns and it wounds the task. -/
  | holderLeaseLapse
  /-- HOME_LEASE_EXPIRY (R393): The home's clock reaches E plus 250 ns and it releases the claim. -/
  | homeLeaseExpiry
  /-- COMMIT_PREPARE (R384): A peer home receives remote shadow lines, marks the claim committing and acknowledges. -/
  | commitPrepare
  /-- PREPARE_ACK (R384): The holder receives a prepare acknowledgement; the last decides the commit. -/
  | prepareAck
  /-- PREPARE_TIMEOUT (R384): A missing prepare acknowledgement after 100 µs wounds the task. -/
  | prepareTimeout
  /-- COMMIT_APPLY (R384): A home applies a decided fold's lines and acknowledges. -/
  | commitApply
  /-- APPLY_QUERY (R384): A peer holding committing lines without apply asks the holder every 20 µs. -/
  | applyQuery
  /-- EXTENT_RENEWAL (R396): The pool agent renews each held extent every 2 s. -/
  | extentRenewal
  /-- EXTENT_LEASE_LAPSE (R396): A lapsed extent lease drops its lines and makes accesses trap LEASE_LAPSED. -/
  | extentLeaseLapse
  /-- PUBLISH (R387): A publish record replaces an object's version at its home by compare. -/
  | publish
  /-- DIGEST (R390): Computes the SHA-384 digest of a virtual range. -/
  | digest
  /-- ATTEST (R411): Fills and signs an attestation record. -/
  | attest
  /-- PWRCAP_WRITE (R408): Sets the power cap, clamped to 1,200 to 4,800 W. -/
  | pwrcapWrite
  /-- REGISTER_WRITE (R412): A store to a management register without its own row, discarded when protected and a context is enabled. -/
  | registerWrite
  /-- ECC_CORRECTION (R399): A correctable storage error is corrected in place and counted. -/
  | eccCorrection
  /-- UNCORRECTABLE_ERROR (R399): An uncorrectable error drops, poisons or loses state by class. -/
  | uncorrectableError
  /-- SCRUB (R399): Periodic scrubbing of SRAM and L2 every 2^24 cycles. -/
  | scrub
  /-- CORE_FAILURE (R403): A failed core is replaced by a spare and its teams resume or relaunch. -/
  | coreFailure
  /-- SLICE_FAILURE (R404): A failed L2 slice is substituted and its state dropped, poisoned or wounded. -/
  | sliceFailure
  /-- CHANNEL_FAILURE (R405): A failing DRAM channel is copied into a spare or poisons its lines. -/
  | channelFailure
  /-- LANE_DEGRADE (R405): A port that loses lanes runs at 4 lanes until retraining. -/
  | laneDegrade
  /-- PORT_DOWN (R405): A fabric port that is down hands its plane's traffic to the next plane. -/
  | portDown
  /-- THERMAL_THROTTLE (R409): Inlet or die temperature above limits lowers frequency. -/
  | thermalThrottle
  /-- THERMAL_SHUTDOWN (R409): A die above 115 °C disables every context and removes compute power. -/
  | thermalShutdown
  /-- MODULE_RESET (R410): Reset runs secure boot, tests, training and time acquisition to ready. -/
  | moduleReset
  /-- ISLAND_RESET (R322): Resetting an island zeroes its pastures and troughs before its clamps open. -/
  | islandReset
  /-- FIXED_LATENCY_RESULT (R82): A fixed-latency result lands in its register at issue plus its latency, so later reads see the new value. -/
  | fixedLatencyResult
  /-- LINK_RETRAIN_COMPLETE (R366): A Hokuek link finishes retraining and resumes sending its held flits at full lanes. -/
  | linkRetrainComplete
  /-- LIVE_FIELD_TAKES_EFFECT (R310): A device-scope store to a live context field such as HALT, CHKSB, WDLIM or QUANT takes effect for each team within 1 us, holding or releasing halted teams. -/
  | liveFieldTakesEffect
  /-- HOLDER_MODULE_REMOVED (R384): When a holder's module is removed from the fabric, a peer's committing lines for its fold become poisoned. -/
  | holderModuleRemoved
  deriving DecidableEq, Repr

end Sys2Proof
end

