-- ==== Sys2Proof/Machine/Operands.lean ====
section
/-! DEFINITION. The operand table: for every instruction word its format, its opcode, the class of each register
field, the X-prefix fields and W prefix it accepts, whether it is convergent, its fixed latency and whether it begins
a region. Decoding, interlocks (04 R85), the checking scoreboard (R86) and masked-off zeroing (R74) all read this one
table. -/

namespace Sys2Proof

/-- The fields of an instruction word by format (04 R69); `raw` is a word whose fields its opcode does not decide,
`event` a step that is no word. -/
inductive Fmt where
  | t (f : TF)
  | i (f : IF)
  | l (f : LF)
  | j (f : JF)
  | k (f : KF)
  | c (f : CF)
  | z (f : ZF)
  | pace (f : PaceF)
  | raw (p : Pfx) (w : Word)
  | event
  deriving DecidableEq, Repr

/-- What a register field holds: `zero` a field the description leaves unused (04 R70), a register of a class with
its width in registers, `raw` a field that is no register, `atom` the address field of an atomic (07 R173). -/
inductive Role where
  | zero
  | raw
  | v
  | v2
  | v4
  | s
  | s2
  | k
  | a
  | atom
  deriving DecidableEq, Repr

/-- The u bit (04 R70): must be 0, must be 1, or free (1 makes b name a uniform register). -/
inductive URule where
  | zero
  | one
  | free
  deriving DecidableEq, Repr

/-- How rm is read (04 R72, R73): not accepted, a rounding mode, a scope, or the scope of ACQR (07 R155). -/
inductive RmRule where
  | none
  | rounding
  | scope
  | device
  deriving DecidableEq, Repr

/-- A row of the operand table. -/
structure Info where
  /-- class of field d, and whether it is read, written -/
  d : Role := .zero
  dr : Bool := false
  dw : Bool := false
  a : Role := .zero
  aw : Bool := false
  b : Role := .zero
  u : URule := .zero
  /-- writes mask kd (K format) -/
  kw : Bool := false
  xk : Bool := true
  xz : Bool := false
  rm : RmRule := .none
  sat : Bool := false
  c : Bool := false
  ro : Bool := false
  nt : Bool := false
  w : Bool := false
  conv : Bool := false
  /-- fixed latency in cycles (04 R82); 0 where there is none -/
  lat : Nat := 0
  region : Bool := false
  deriving DecidableEq, Repr

/-- The format and fields of an instruction (04 R69, R88). -/
def Instr.fmt : Instr → Fmt
  | .add f | .sub f | .mul f | .mulhs f | .mulhn f | .mad f | .divs f | .divn f | .rems f | .remn f | .mins f
  | .minn f | .maxs f | .maxn f | .abs f | .neg f | .and f | .or f | .xor f | .andn f | .not f | .shl f
  | .shr f | .sra f | .rol f | .clz f | .ctz f | .popc f | .brev f | .bfx f | .bfi f | .prmb f | .sel f
  | .addw f | .subw f | .mulws f | .mulwn f | .mov f | .sadd f | .ssub f | .smul f | .smad f | .sand f
  | .sor f | .sxor f | .sshl f | .sshr f | .ssra f | .smins f | .smaxs f | .smov f | .ssel f | .rfl f
  | .rdl f | .kpop f | .ballot f | .ktov f | .calla f | .jmpa f | .ret f | .exit f | .yield f | .nop f
  | .shfli f | .shflu f | .shfld f | .shflx f | .matchOp f | .redadd f | .redmin f | .redmax f | .redand f
  | .redor f | .fredadd f | .scanadd f | .scanaddx f | .fadd f | .fsub f | .fmul f | .ffma f | .fmin f
  | .fmax f | .fabs f | .fneg f | .fclass f | .frnd f | .fscale f | .hadd2 f | .hsub2 f | .hmul2 f | .hfma2 f
  | .badd2 f | .bmul2 f | .bfma2 f | .ldoB16 f | .ldoB32 f | .stoB16 f | .stoB32 f | .adda f | .mova f
  | .movav f | .movva f | .suba f | .ida f | .stdlB32 f | .stdlB64 f | .stdlB128 f | .aadd f | .aaddB64 f
  | .amins f | .aminsB64 f | .aminn f | .aminnB64 f | .amaxs f | .amaxsB64 f | .amaxn f | .amaxnB64 f
  | .aand f | .aandB64 f | .aor f | .aorB64 f | .axor f | .axorB64 f | .axchg f | .axchgB64 f | .acas f
  | .acasB64 f | .afadd f | .aincw f | .fence f | .acq f | .rel f | .acqr f | .taskend f | .age f | .ginit f
  | .gexp f | .garr f | .gwait f | .gtest f | .cpy f | .cpyg f | .cpys f | .cpyr f | .jdecl f | .ebrk f
  | .rte f | .emit f => .t f
  | .addi f | .shli f | .shri f | .srai f | .saddi f | .sshli f | .sshri f | .wbase f | .rgn f | .sleep f
  | .fcvt f | .icvt f | .ficvt f | .fpk f | .fupk f | .qenc f | .qdec f | .sfrcp f | .sfrsq f | .sfsqrt f
  | .sfexp2 f | .sflog2 f | .sfsin f | .sfcos f | .sftanh f | .sfsigm f | .sferf f | .sfdiv f | .sfwait f
  | .sftest f | .ldS8 f | .ldB8 f | .ldS16 f | .ldB16 f | .ldB32 f | .ldB64 f | .ldB128 f | .stB8 f
  | .stB16 f | .stB32 f | .stB64 f | .stB128 f | .ldsB32 f | .ldsB64 f | .ldsB128 f | .stsB32 f | .stsB64 f
  | .stsB128 f | .ldu f | .ldp f | .stp f | .addai f | .pref f | .cctl f | .fold f | .unfold f | .bara f
  | .barw f | .bars f | .tres f | .trel f | .sign f | .jwait f | .accrd f | .accwr f | .accz f | .tqset f => .i f
  | .movl f | .smovl f | .phint f | .trap f | .getsr f | .setsr f => .l f
  | .bra f | .call f => .j f
  | .cmp f | .cmpi f | .fcmp f | .scmp f | .kand f | .kor f | .kxor f | .kandn f | .knot f | .kmov f
  | .kfrom f | .kfirst f | .kall f | .cmpa f => .k f
  | .brk f => .c f
  | .brz f | .brnz f => .z f
  | .pace f => .pace f
  | .mappedOpcode p w => .raw p w
  | .illegalOpcodeWord p w => .raw p w
  | _ => .event

/-- The opcode of an instruction word, bits [31:22] (04 R88); 0 for a step that is no base word. -/
def Instr.opcode : Instr → Nat
  | .add _ => 0x001
  | .sub _ => 0x002
  | .addi _ => 0x003
  | .mul _ => 0x004
  | .mulhs _ => 0x005
  | .mulhn _ => 0x006
  | .mad _ => 0x007
  | .divs _ => 0x008
  | .divn _ => 0x009
  | .rems _ => 0x00A
  | .remn _ => 0x00B
  | .mins _ => 0x00C
  | .minn _ => 0x00D
  | .maxs _ => 0x00E
  | .maxn _ => 0x00F
  | .abs _ => 0x010
  | .neg _ => 0x011
  | .and _ => 0x012
  | .or _ => 0x013
  | .xor _ => 0x014
  | .andn _ => 0x015
  | .not _ => 0x016
  | .shl _ => 0x017
  | .shr _ => 0x018
  | .sra _ => 0x019
  | .rol _ => 0x01A
  | .shli _ => 0x01B
  | .shri _ => 0x01C
  | .srai _ => 0x01D
  | .clz _ => 0x01E
  | .ctz _ => 0x01F
  | .popc _ => 0x020
  | .brev _ => 0x021
  | .bfx _ => 0x022
  | .bfi _ => 0x023
  | .prmb _ => 0x024
  | .sel _ => 0x025
  | .addw _ => 0x026
  | .subw _ => 0x027
  | .mulws _ => 0x028
  | .mulwn _ => 0x029
  | .movl _ => 0x02A
  | .mov _ => 0x02B
  | .sadd _ => 0x040
  | .ssub _ => 0x041
  | .saddi _ => 0x042
  | .smul _ => 0x043
  | .smad _ => 0x044
  | .sand _ => 0x045
  | .sor _ => 0x046
  | .sxor _ => 0x047
  | .sshl _ => 0x048
  | .sshr _ => 0x049
  | .ssra _ => 0x04A
  | .sshli _ => 0x04B
  | .sshri _ => 0x04C
  | .smins _ => 0x04D
  | .smaxs _ => 0x04E
  | .smov _ => 0x04F
  | .smovl _ => 0x050
  | .ssel _ => 0x051
  | .rfl _ => 0x052
  | .rdl _ => 0x053
  | .cmp _ => 0x060
  | .cmpi _ => 0x061
  | .fcmp _ => 0x062
  | .scmp _ => 0x063
  | .kand _ => 0x064
  | .kor _ => 0x065
  | .kxor _ => 0x066
  | .kandn _ => 0x067
  | .knot _ => 0x068
  | .kmov _ => 0x069
  | .kpop _ => 0x06A
  | .ballot _ => 0x06B
  | .kfrom _ => 0x06C
  | .ktov _ => 0x06D
  | .kfirst _ => 0x06E
  | .kall _ => 0x06F
  | .bra _ => 0x080
  | .brk _ => 0x081
  | .brz _ => 0x082
  | .brnz _ => 0x083
  | .call _ => 0x084
  | .calla _ => 0x085
  | .jmpa _ => 0x086
  | .ret _ => 0x087
  | .exit _ => 0x088
  | .yield _ => 0x089
  | .nop _ => 0x08A
  | .wbase _ => 0x08B
  | .rgn _ => 0x08C
  | .phint _ => 0x08D
  | .sleep _ => 0x08E
  | .shfli _ => 0x0C0
  | .shflu _ => 0x0C1
  | .shfld _ => 0x0C2
  | .shflx _ => 0x0C3
  | .matchOp _ => 0x0C4
  | .redadd _ => 0x0C5
  | .redmin _ => 0x0C6
  | .redmax _ => 0x0C7
  | .redand _ => 0x0C8
  | .redor _ => 0x0C9
  | .fredadd _ => 0x0CA
  | .scanadd _ => 0x0CB
  | .scanaddx _ => 0x0CC
  | .fadd _ => 0x0E0
  | .fsub _ => 0x0E1
  | .fmul _ => 0x0E2
  | .ffma _ => 0x0E3
  | .fmin _ => 0x0E4
  | .fmax _ => 0x0E5
  | .fabs _ => 0x0E6
  | .fneg _ => 0x0E7
  | .fclass _ => 0x0E8
  | .frnd _ => 0x0E9
  | .fscale _ => 0x0EA
  | .fcvt _ => 0x0EB
  | .icvt _ => 0x0EC
  | .ficvt _ => 0x0ED
  | .hadd2 _ => 0x0EE
  | .hsub2 _ => 0x0EF
  | .hmul2 _ => 0x0F0
  | .hfma2 _ => 0x0F1
  | .badd2 _ => 0x0F2
  | .bmul2 _ => 0x0F3
  | .bfma2 _ => 0x0F4
  | .fpk _ => 0x0F5
  | .fupk _ => 0x0F6
  | .qenc _ => 0x0F7
  | .qdec _ => 0x0F8
  | .sfrcp _ => 0x120
  | .sfrsq _ => 0x121
  | .sfsqrt _ => 0x122
  | .sfexp2 _ => 0x123
  | .sflog2 _ => 0x124
  | .sfsin _ => 0x125
  | .sfcos _ => 0x126
  | .sftanh _ => 0x127
  | .sfsigm _ => 0x128
  | .sferf _ => 0x129
  | .sfdiv _ => 0x12A
  | .sfwait _ => 0x12B
  | .sftest _ => 0x12C
  | .ldS8 _ => 0x140
  | .ldB8 _ => 0x141
  | .ldS16 _ => 0x142
  | .ldB16 _ => 0x143
  | .ldB32 _ => 0x144
  | .ldB64 _ => 0x145
  | .ldB128 _ => 0x146
  | .stB8 _ => 0x147
  | .stB16 _ => 0x148
  | .stB32 _ => 0x149
  | .stB64 _ => 0x14A
  | .stB128 _ => 0x14B
  | .ldsB32 _ => 0x14C
  | .ldsB64 _ => 0x14D
  | .ldsB128 _ => 0x14E
  | .stsB32 _ => 0x14F
  | .stsB64 _ => 0x150
  | .stsB128 _ => 0x151
  | .ldoB16 _ => 0x152
  | .ldoB32 _ => 0x153
  | .stoB16 _ => 0x154
  | .stoB32 _ => 0x155
  | .ldu _ => 0x156
  | .ldp _ => 0x157
  | .stp _ => 0x158
  | .adda _ => 0x159
  | .addai _ => 0x15A
  | .mova _ => 0x15B
  | .movav _ => 0x15C
  | .movva _ => 0x15D
  | .cmpa _ => 0x15E
  | .suba _ => 0x15F
  | .ida _ => 0x160
  | .pref _ => 0x161
  | .stdlB32 _ => 0x162
  | .stdlB64 _ => 0x163
  | .stdlB128 _ => 0x164
  | .aadd _ | .aaddB64 _ => 0x180
  | .amins _ | .aminsB64 _ => 0x181
  | .aminn _ | .aminnB64 _ => 0x182
  | .amaxs _ | .amaxsB64 _ => 0x183
  | .amaxn _ | .amaxnB64 _ => 0x184
  | .aand _ | .aandB64 _ => 0x185
  | .aor _ | .aorB64 _ => 0x186
  | .axor _ | .axorB64 _ => 0x187
  | .axchg _ | .axchgB64 _ => 0x188
  | .acas _ | .acasB64 _ => 0x189
  | .afadd _ => 0x18A
  | .aincw _ => 0x18B
  | .fence _ => 0x18C
  | .acq _ => 0x18D
  | .rel _ => 0x18E
  | .acqr _ => 0x18F
  | .cctl _ => 0x190
  | .fold _ => 0x1A0
  | .unfold _ => 0x1A1
  | .taskend _ => 0x1A2
  | .age _ => 0x1A3
  | .bara _ => 0x1A4
  | .barw _ => 0x1A5
  | .bars _ => 0x1A6
  | .ginit _ => 0x1A7
  | .gexp _ => 0x1A8
  | .garr _ => 0x1A9
  | .gwait _ => 0x1AA
  | .gtest _ => 0x1AB
  | .cpy _ => 0x1C0
  | .cpyg _ => 0x1C1
  | .cpys _ => 0x1C2
  | .cpyr _ => 0x1C3
  | .tres _ => 0x1C4
  | .trel _ => 0x1C5
  | .jdecl _ => 0x1C6
  | .sign _ => 0x1C7
  | .jwait _ => 0x1C8
  | .accrd _ => 0x1C9
  | .accwr _ => 0x1CA
  | .accz _ => 0x1CB
  | .tqset _ => 0x1CC
  | .trap _ => 0x1E0
  | .ebrk _ => 0x1E1
  | .rte _ => 0x1E2
  | .getsr _ => 0x1E3
  | .setsr _ => 0x1E4
  | .emit _ => 0x1E5
  | .pace _ => 0x3F2
  | _ => 0

/-! ### Special-register numbers (01 R15 to R17) -/

/-- The 64-bit special registers: CLOCK, GTIME, AGE, TRAPPC, TRAPRGN, TRAPADDR. -/
def Sr.wide (n : BitVec 15) : Bool :=
  n == 0x1000 || n == 0x1001 || n == 0x2001 || n == 0x3001 || n == 0x3002 || n == 0x3003

/-- Readable in any mode and never written (access R). -/
def Sr.readOnly (n : BitVec 15) : Bool :=
  n.toNat ≤ 4 || (0x10 ≤ n.toNat && n.toNat ≤ 0x13) || (0x20 ≤ n.toNat && n.toNat ≤ 0x22) ||
  n == 0x1000 || n == 0x1001 || n == 0x2001 || n == 0x2002 || (0x4000 ≤ n.toNat && n.toNat ≤ 0x4003)

/-- System mode only, for reading and writing (access S): the trap registers. -/
def Sr.system (n : BitVec 15) : Bool := 0x3000 ≤ n.toNat && n.toNat ≤ 0x3003

/-- Written only in system mode (access RS): RGNCNT. -/
def Sr.systemWrite (n : BitVec 15) : Bool := n == 0x2003

/-- Not read-only: FPCR, RGNCNT, DLVREF and the trap registers. -/
def Sr.writable (n : BitVec 15) : Bool := n == 0x2000 || n == 0x2003 || n == 0x2004 || Sr.system n

/-- A number the table of R17 lists. -/
def Sr.listed (n : BitVec 15) : Bool := Sr.readOnly n || Sr.writable n

/-- A T-format integer instruction: vd, va, vb or sb (05 R94 to R97). -/
def Info.int3 : Info := { d := .v, dw := true, a := .v, b := .v, u := .free, xz := true, lat := 4 }
/-- A unary integer instruction takes its source in b (05 R96). -/
def Info.int2 : Info := { Info.int3 with a := .zero }
/-- An I-format integer instruction (05 R96). -/
def Info.intI : Info := { d := .v, dw := true, a := .v, b := .raw, xz := true, lat := 4 }
/-- A T-format uniform instruction (05 R107). -/
def Info.uni3 : Info := { d := .s, dw := true, a := .s, b := .s, conv := true, lat := 4 }
/-- An I-format uniform instruction (05 R107). -/
def Info.uniI : Info := { d := .s, dw := true, a := .s, b := .raw, conv := true, lat := 4 }
/-- A per-thread compare into a mask bit (06 R125). -/
def Info.cmp3 : Info := { kw := true, a := .v, b := .v, u := .free, xz := true, lat := 2 }
/-- A convergent mask instruction of two masks (06 R128). -/
def Info.mask3 : Info := { kw := true, a := .k, b := .k, conv := true, lat := 2 }
/-- A convergent mask instruction of one mask (06 R128). -/
def Info.mask2 : Info := { Info.mask3 with b := .zero }
/-- A shuffle (06 R131, R132). -/
def Info.shuffle : Info := { d := .v, dw := true, a := .v, b := .v, u := .free, conv := true }
/-- A reduction, scan or match (06 R131, R132). -/
def Info.reduce : Info := { d := .v, dw := true, a := .v, conv := true }
/-- A floating-point instruction of two operands (06 R136, R137). -/
def Info.fp3 : Info :=
  { d := .v, dw := true, a := .v, b := .v, u := .free, xz := true, rm := .rounding, sat := true, lat := 6 }
/-- A floating-point instruction without rounding (06 R137). -/
def Info.fpPlain : Info := { Info.fp3 with rm := .none, sat := false }
/-- A conversion (06 R142). -/
def Info.fpI : Info :=
  { d := .v, dw := true, a := .v, b := .raw, xz := true, rm := .rounding, sat := true, lat := 6 }
/-- A special function (06 R148). -/
def Info.sf : Info := { d := .v, dw := true, a := .v, b := .raw, xz := true, region := true }
/-- A load through an a register (07 R155, R160). -/
def Info.ld (d : Role) : Info := { d, dw := true, a := .a, b := .raw, xz := true, ro := true, nt := true, w := true }
/-- A store through an a register (07 R155, R160). -/
def Info.st (d : Role) : Info := { d, dr := true, a := .a, b := .raw, nt := true, w := true }
/-- A scratchpad load, a names the offset register (07 R160). -/
def Info.lds (d : Role) : Info := { Info.ld d with a := .v }
/-- A scratchpad store (07 R160). -/
def Info.sts (d : Role) : Info := { Info.st d with a := .v }
/-- A load from a uniform base pair (07 R160). -/
def Info.ldo : Info := { d := .v, dw := true, a := .s2, b := .v, xz := true, ro := true, nt := true }
/-- A store to a uniform base pair (07 R160). -/
def Info.sto : Info := { d := .v, dr := true, a := .s2, b := .v, nt := true }
/-- A delivering store (07 R169). -/
def Info.stdl (d : Role) : Info := { d, dr := true, a := .a, b := .s, u := .one, region := true }
/-- An atomic of one or two registers (07 R173). -/
def Info.atom (d : Role) : Info :=
  { d, dw := true, a := .atom, b := d, u := .free, rm := .scope, region := true }
/-- A gate instruction (08 R192). -/
def Info.gate : Info := { a := .v, b := .v, u := .free }
/-- A copy instruction (08 R194). -/
def Info.copy : Info := { a := .a, b := .v, u := .free, region := true }

/-- The operand table (05 R95 to R113, 06 R124 to R152, 07 R155 to R179, 08 R180 to R207). -/
def Instr.info : Instr → Info
  | .add _ | .sub _ | .mul _ => { Info.int3 with sat := true }
  | .mulhs _ | .mulhn _ | .divs _ | .divn _ | .rems _ | .remn _ | .mins _ | .minn _ | .maxs _ | .maxn _ => Info.int3
  | .and _ | .or _ | .xor _ | .andn _ | .shl _ | .shr _ | .sra _ | .rol _ | .bfx _ => Info.int3
  | .mad _ => { Info.int3 with sat := true, c := true, dr := true }
  | .bfi _ | .prmb _ | .sel _ => { Info.int3 with c := true, dr := true }
  | .addi _ => { Info.intI with sat := true, w := true }
  | .shli _ | .shri _ | .srai _ => Info.intI
  | .abs _ | .neg _ => { Info.int2 with sat := true }
  | .not _ | .clz _ | .ctz _ | .popc _ | .brev _ | .mov _ => Info.int2
  | .addw _ | .subw _ => { Info.int3 with d := .v2, a := .v2, b := .v2, sat := true }
  | .mulws _ | .mulwn _ => { Info.int3 with d := .v2 }
  | .movl _ => { d := .v, dw := true, a := .raw, b := .raw, xz := true, w := true, lat := 4 }
  | .sadd _ | .ssub _ | .smul _ => { Info.uni3 with sat := true }
  | .saddi _ => { Info.uniI with sat := true, w := true }
  | .smad _ => { Info.uni3 with sat := true, dr := true }
  | .sand _ | .sor _ | .sxor _ | .sshl _ | .sshr _ | .ssra _ | .smins _ | .smaxs _ => Info.uni3
  | .sshli _ | .sshri _ => Info.uniI
  | .smov _ => { Info.uni3 with b := .zero }
  | .smovl _ => { d := .s, dw := true, a := .raw, b := .raw, w := true, conv := true, lat := 4 }
  | .ssel _ => { Info.uni3 with dr := true }
  | .rfl _ => { Info.uni3 with a := .v, b := .zero }
  | .rdl _ => { Info.uni3 with a := .v, u := .one }
  | .cmp _ | .fcmp _ => Info.cmp3
  | .cmpi _ => { Info.cmp3 with b := .raw, u := .zero }
  | .scmp _ => { kw := true, a := .s, b := .s, u := .one, conv := true, lat := 2 }
  | .kand _ | .kor _ | .kxor _ | .kandn _ => Info.mask3
  | .knot _ | .kmov _ | .kfirst _ | .kall _ => Info.mask2
  | .kpop _ => { d := .s, dw := true, a := .k, conv := true, lat := 2 }
  | .ballot _ => { d := .s2, dw := true, a := .v, conv := true, lat := 2 }
  | .kfrom _ => { Info.cmp3 with b := .zero, u := .zero }
  | .ktov _ => { d := .v, dw := true, a := .k, xz := true, lat := 2 }
  | .bra _ | .brk _ => {}
  | .call _ => { lat := 4 }
  | .brz _ | .brnz _ => { a := .v }
  | .calla _ => { a := .a, lat := 4 }
  | .jmpa _ => { a := .a }
  | .ret _ | .exit _ | .yield _ | .nop _ | .rgn _ => {}
  | .wbase _ | .sleep _ => { b := .raw }
  | .phint _ => { a := .raw, b := .raw }
  | .shfli _ | .shflu _ | .shfld _ | .shflx _ => Info.shuffle
  | .matchOp _ => { Info.reduce with d := .v2 }
  | .redadd _ | .scanadd _ | .scanaddx _ => { Info.reduce with sat := true }
  | .redmin _ | .redmax _ | .redand _ | .redor _ => Info.reduce
  | .fredadd _ => { Info.reduce with rm := .rounding }
  | .fadd _ | .fsub _ | .fmul _ | .fscale _ => Info.fp3
  | .hadd2 _ | .hsub2 _ | .hmul2 _ | .badd2 _ | .bmul2 _ => Info.fp3
  | .ffma _ | .hfma2 _ | .bfma2 _ => { Info.fp3 with c := true, dr := true }
  | .fmin _ | .fmax _ => Info.fpPlain
  | .fabs _ | .fneg _ | .fclass _ => { Info.fpPlain with a := .zero }
  | .frnd _ => { Info.fp3 with a := .zero, sat := false }
  | .fcvt _ | .icvt _ | .ficvt _ => Info.fpI
  | .fpk _ => { Info.fpI with c := true, dr := true }
  | .fupk _ => { Info.fpI with rm := .none, sat := false }
  | .qenc _ => { d := .s, dw := true, a := .v, aw := true, b := .raw, rm := .rounding, conv := true }
  | .qdec _ => { d := .v, dr := true, dw := true, a := .s, b := .raw, c := true, conv := true }
  | .sfrcp _ | .sfsqrt _ => { Info.sf with rm := .rounding }
  | .sfdiv _ => { Info.sf with rm := .rounding, c := true, dr := true }
  | .sfrsq _ | .sfexp2 _ | .sflog2 _ | .sfsin _ | .sfcos _ | .sftanh _ | .sfsigm _ | .sferf _ => Info.sf
  | .sfwait _ => { b := .raw }
  | .sftest _ => { d := .s, dw := true, b := .raw, conv := true, lat := 4 }
  | .ldS8 _ | .ldB8 _ | .ldS16 _ | .ldB16 _ | .ldB32 _ => Info.ld .v
  | .ldB64 _ => Info.ld .v2
  | .ldB128 _ => Info.ld .v4
  | .stB8 _ | .stB16 _ | .stB32 _ => Info.st .v
  | .stB64 _ => Info.st .v2
  | .stB128 _ => Info.st .v4
  | .ldsB32 _ => Info.lds .v
  | .ldsB64 _ => Info.lds .v2
  | .ldsB128 _ => Info.lds .v4
  | .stsB32 _ => Info.sts .v
  | .stsB64 _ => Info.sts .v2
  | .stsB128 _ => Info.sts .v4
  | .ldoB16 _ | .ldoB32 _ => Info.ldo
  | .stoB16 _ | .stoB32 _ => Info.sto
  | .ldu _ => { d := .s, dw := true, a := .s2, b := .raw, ro := true, nt := true, w := true, conv := true }
  | .ldp _ => Info.ld .a
  | .stp _ => Info.st .a
  | .adda _ => { d := .a, dw := true, a := .a, b := .v, u := .free, xz := true, lat := 4 }
  | .addai _ => { d := .a, dw := true, a := .a, b := .raw, xz := true, w := true, lat := 4 }
  | .mova _ => { d := .a, dw := true, a := .a, xz := true, lat := 4 }
  | .movav _ => { d := .v2, dw := true, a := .a, xz := true, lat := 4 }
  | .movva _ => { d := .a, dw := true, b := .v2, u := .free, xz := true, lat := 4 }
  | .cmpa _ => { kw := true, a := .a, b := .a, xz := true, lat := 2 }
  | .suba _ => { d := .v2, dw := true, a := .a, b := .a, xz := true, lat := 4 }
  | .ida _ => { d := .v4, dw := true, a := .a, xz := true, lat := 4 }
  | .pref _ => { d := .raw, a := .a, b := .raw, w := true }
  | .stdlB32 _ => Info.stdl .v
  | .stdlB64 _ => Info.stdl .v2
  | .stdlB128 _ => Info.stdl .v4
  | .aadd _ | .amins _ | .aminn _ | .amaxs _ | .amaxn _ | .aand _ | .aor _ | .axor _ | .axchg _ => Info.atom .v
  | .afadd _ | .aincw _ => Info.atom .v
  | .aaddB64 _ | .aminsB64 _ | .aminnB64 _ | .amaxsB64 _ | .amaxnB64 _ | .aandB64 _ => Info.atom .v2
  | .aorB64 _ | .axorB64 _ | .axchgB64 _ => Info.atom .v2
  | .acas _ => { Info.atom .v with c := true, dr := true }
  | .acasB64 _ => { Info.atom .v2 with c := true, dr := true }
  | .fence _ | .acq _ | .rel _ => { rm := .scope }
  | .acqr _ => { b := .v, u := .free, rm := .device }
  | .cctl _ => { a := .a, b := .raw }
  | .fold _ => { a := .a, b := .raw, region := true }
  | .unfold _ => { b := .raw }
  | .taskend _ => { xk := false, region := true }
  | .age _ => { d := .s2, dw := true, conv := true, lat := 4 }
  | .bara _ | .barw _ => { b := .raw, region := true }
  | .bars _ => { a := .s, b := .raw, conv := true }
  | .ginit _ | .gexp _ | .garr _ => { Info.gate with region := true }
  | .gwait _ => Info.gate
  | .gtest _ => { Info.gate with d := .v, dw := true, xz := true }
  | .cpy _ | .cpyg _ | .cpys _ | .cpyr _ => Info.copy
  | .tres _ => { a := .a, b := .raw }
  | .trel _ => { b := .raw }
  | .tqset _ => { a := .s, b := .raw }
  | .jdecl _ => { d := .raw, a := .a, b := .v, u := .free }
  | .sign _ => { b := .raw, region := true }
  | .jwait _ => { b := .raw }
  | .accrd _ => { d := .v, dw := true, a := .v, b := .raw, xz := true, rm := .rounding, sat := true }
  | .accwr _ => { d := .v, dr := true, a := .v, b := .raw }
  | .accz _ => { b := .raw }
  | .trap _ => { a := .raw, b := .raw }
  | .ebrk _ => {}
  | .rte _ => { xk := false }
  | .getsr f => { d := if Sr.wide f.imm then .v2 else .v, dw := true, a := .raw, b := .raw, xz := true, lat := 4 }
  | .setsr f => { d := if Sr.wide f.imm then .v2 else .v, dr := true, a := .raw, b := .raw }
  | .emit _ => { a := .a, b := .v, u := .free, region := true }
  | _ => {}

/-! ### Which words are well formed -/

/-- The register number `n` names a register of the class, aligned for its width (01 R4, R6, R7). -/
def Role.fits : Role → Field → Bool
  | .zero, n => n == 0
  | .raw, _ => true
  | .v, _ => true
  | .v2, n => n.toNat % 2 == 0
  | .v4, n => n.toNat % 4 == 0
  | .s, n => n.toNat < 64
  | .s2, n => n.toNat < 64 && n.toNat % 2 == 0
  | .k, n => n.toNat < 8
  | .a, n => n.toNat < 16
  | .atom, n => n.extractLsb' 4 2 == 0

/-- The class that field b has when u = 1 (04 R70, 05 R96). -/
def Role.uniform : Role → Role
  | .v => .s
  | .v2 => .s2
  | r => r

/-- Field b under its u bit (04 R70). -/
def Info.bFits (i : Info) (b : Field) (u : Bool) : Bool :=
  match i.u with
  | .zero => !u && i.b.fits b
  | .one => u && i.b.fits b
  | .free => if u then i.b.uniform.fits b else i.b.fits b

/-- The fields of a word fit the classes of its row. -/
def Info.fieldsFit (i : Info) : Fmt → Bool
  | .t f => i.d.fits f.d && i.a.fits f.a && i.bFits f.b f.u
  | .i f => i.d.fits f.d && i.a.fits f.a && (i.b != .zero || f.imm == 0)
  | .l f => i.d.fits f.d
  | .k f => i.a.fits f.a && i.bFits f.b f.u && (!i.kw || f.kd != 0)
  | .z f => i.a.fits f.a
  | _ => true

/-- The format codes a conversion pair may hold (06 R142). -/
def isFloatCode (n : Nat) : Bool := n ≤ 5
/-- Integer format codes (02 R26). -/
def isIntCode (n : Nat) : Bool := 7 ≤ n && n ≤ 12

/-- The selector of FPK and FUPK (06 R143). -/
def selOk (imm : BitVec 8) : Bool :=
  let pos := (imm.extractLsb' 0 4).toNat
  match (imm.extractLsb' 4 4).toNat with
  | 1 | 2 => pos ≤ 1
  | 3 | 4 => pos ≤ 3
  | 5 => pos ≤ 7
  | _ => false

/-- The block code of QENC and QDEC (06 R145). -/
def blkOk (imm : BitVec 8) : Bool :=
  let m := (imm.extractLsb' 4 4).toNat
  2 ≤ m && m ≤ 8 && imm.extractLsb' 1 3 == 0

/-- The assigned opcodes of the base map (04 R88). -/
def assigned (op : Nat) : Bool :=
  (0x001 ≤ op && op ≤ 0x02B) || (0x040 ≤ op && op ≤ 0x053) || (0x060 ≤ op && op ≤ 0x06F) ||
  (0x080 ≤ op && op ≤ 0x08E) || (0x0C0 ≤ op && op ≤ 0x0CC) || (0x0E0 ≤ op && op ≤ 0x0F8) ||
  (0x120 ≤ op && op ≤ 0x12C) || (0x140 ≤ op && op ≤ 0x164) || (0x180 ≤ op && op ≤ 0x190) ||
  (0x1A0 ≤ op && op ≤ 0x1AB) || (0x1C0 ≤ op && op ≤ 0x1CC) || (0x1E0 ≤ op && op ≤ 0x1E5)

/-- The mapped opcode space (04 R89). -/
def mappedSpace (op : Nat) : Bool := 0x380 ≤ op && op ≤ 0x3EF

/-- The opcode bits of a word (04 R67). -/
def opcodeOf (w : Word) : Nat := (w.extractLsb' 22 10).toNat

/-- The checks a description adds to the classes of its fields. -/
def Instr.extraOk : Instr → Bool
  | .cmp f | .cmpi f | .scmp f => f.cond.toNat ≤ 9
  | .fcmp _ => true
  | .kand f | .kor f | .kxor f | .kandn f | .knot f | .kmov f | .kfrom f | .kfirst f | .kall f => f.cond == 0
  | .cmpa f => f.cond.toNat ≤ 3
  | .phint f => f.imm.toNat ≤ 255
  | .fcvt f => isFloatCode (f.imm.extractLsb' 4 4).toNat && isFloatCode (f.imm.extractLsb' 0 4).toNat
  | .icvt f => isFloatCode (f.imm.extractLsb' 4 4).toNat && isIntCode (f.imm.extractLsb' 0 4).toNat
  | .ficvt f => isIntCode (f.imm.extractLsb' 4 4).toNat && isFloatCode (f.imm.extractLsb' 0 4).toNat
  | .fpk f | .fupk f => selOk f.imm
  | .qenc f | .qdec f => blkOk f.imm
  | .sfrcp f | .sfrsq f | .sfsqrt f | .sfexp2 f | .sflog2 f | .sfsin f | .sfcos f | .sftanh f => f.imm.toNat ≤ 7
  | .sfsigm f | .sferf f | .sfdiv f => f.imm.toNat ≤ 7
  | .pref f => f.d.toNat ≤ 1
  | .aadd f | .amins f | .aminn f | .amaxs f | .amaxn f | .aand f | .aor f | .axor f | .axchg f => !f.a.getLsbD 6
  | .acas f | .afadd f | .aincw f => !f.a.getLsbD 6
  | .aaddB64 f | .aminsB64 f | .aminnB64 f | .amaxsB64 f | .amaxnB64 f | .aandB64 f => f.a.getLsbD 6
  | .aorB64 f | .axorB64 f | .axchgB64 f | .acasB64 f => f.a.getLsbD 6
  | .cctl f => f.imm.toNat ≤ 3
  | .fold f | .unfold f => f.imm.toNat ≤ 7
  | .bara f | .barw f | .bars f | .tres f | .trel f | .tqset f => f.imm.toNat ≤ 15
  | .jdecl f => f.d.toNat ≤ 7
  | .sign f | .jwait f => f.imm.toNat ≤ 7
  | .accrd f => (f.imm.extractLsb' 4 4).toNat ≤ 4
  | .accwr f | .accz f => f.imm.extractLsb' 4 4 == 0
  | .getsr f => Sr.listed f.imm
  | .setsr f => Sr.listed f.imm && Sr.writable f.imm
  | .mappedOpcode _ w => mappedSpace (opcodeOf w)
  | .illegalOpcodeWord _ w =>
    let op := opcodeOf w
    !assigned op && !mappedSpace op && !(0x3F0 ≤ op && op ≤ 0x3F2)
  | _ => true

/-- The prefix words of a bundle. -/
def Instr.pfx (i : Instr) : Pfx :=
  match i.fmt with
  | .t f => f.p
  | .i f => f.p
  | .l f => f.p
  | .j f => f.p
  | .k f => f.p
  | .c f => f.p
  | .z f => f.p
  | .raw p _ => p
  | .pace _ | .event => ⟨none, none⟩

/-- An X word that the following instruction accepts (04 R73). -/
def Info.acceptsX (i : Info) (x : XPfx) : Bool :=
  (x.k == 0 || i.xk) && (!x.z || (i.xz && x.k != 0)) &&
  (x.rm == 0 || (match i.rm with
    | .none => false
    | .rounding => x.rm.toNat ≤ 5
    | .scope => x.rm.toNat ≤ 5
    | .device => x.rm == 4)) &&
  (x.c == 0 || i.c) && (!x.sat || i.sat) && (!x.ro || i.ro) && (!x.nt || i.nt) && x.low == 0

/-- A fourth operand obeys the alignment of d (01 R6). -/
def Info.fourthFits (i : Info) (x : XPfx) : Bool := x.c == 0 || i.d.fits x.c

/-- The X word of the bundle, if any, is accepted. -/
def Instr.xOk (i : Instr) : Bool :=
  match i.pfx.x, i.fmt with
  | some _, .raw _ _ => true
  | some x, _ => i.info.acceptsX x && i.info.fourthFits x
  | none, _ => true

/-- MOVL and SMOVL keep 32 bits of the widened immediate: bits [36:32] must all equal bit 31 (04 R75). -/
def movlWideOk (imm22 : BitVec 22) : Bool :=
  let hi := imm22.extractLsb' 16 6
  hi == 0 || hi == BitVec.allOnes 6

/-- The W word of the bundle, if any, is accepted (04 R75). -/
def Instr.wOk (i : Instr) : Bool :=
  match i.pfx.w, i with
  | none, _ => true
  | some _, .mappedOpcode _ _ => true
  | some _, .illegalOpcodeWord _ _ => true
  | some w, .movl _ => movlWideOk w
  | some w, .smovl _ => movlWideOk w
  | some _, i => i.info.w

/-- Every field of the instruction word itself is one its description allows. -/
def Instr.wordOk (i : Instr) : Bool := i.info.fieldsFit i.fmt && i.extraOk

/-! ### Registers a word names -/

/-- A register by the name a bundle gives it. -/
inductive Reg where
  | v (n : Nat)
  | s (n : Nat)
  | k (n : Nat)
  | a (n : Nat)
  deriving DecidableEq, Repr

/-- A vector register. -/
def Reg.isVector : Reg → Bool
  | .v _ => true
  | _ => false

/-- The registers of a field of a class, lowest first (01 R6). -/
def Role.regs : Role → Field → List Reg
  | .zero, _ | .raw, _ => []
  | .v, n => [.v n.toNat]
  | .v2, n => [.v n.toNat, .v (n.toNat + 1)]
  | .v4, n => [.v n.toNat, .v (n.toNat + 1), .v (n.toNat + 2), .v (n.toNat + 3)]
  | .s, n => [.s n.toNat]
  | .s2, n => [.s n.toNat, .s (n.toNat + 1)]
  | .k, n => [.k n.toNat]
  | .a, n => [.a n.toNat]
  | .atom, n => [.a (n.toNat % 16)]

/-- The class field b really has, given u. -/
def Info.bRole (i : Info) (u : Bool) : Role :=
  if i.u == .free && u then i.b.uniform else i.b

/-- The fourth operand of the bundle, 0 for none (04 R72). -/
def Pfx.c (p : Pfx) : Field := match p.x with
  | some x => x.c
  | none => 0

/-- The register field that d's input is read from: c where it is given (04 R72). -/
def Pfx.dSource (p : Pfx) (d : Field) : Field := if p.c == 0 then d else p.c

/-- The governing mask's number (04 R72). -/
def Pfx.k (p : Pfx) : Nat := match p.x with
  | some x => x.k.toNat
  | none => 0

/-- The zeroing bit. -/
def Pfx.z (p : Pfx) : Bool := match p.x with
  | some x => x.z
  | none => false

/-- The rm field, 0 for none. -/
def Pfx.rm (p : Pfx) : Nat := match p.x with
  | some x => x.rm.toNat
  | none => 0

/-- The saturate bit. -/
def Pfx.sat (p : Pfx) : Bool := match p.x with
  | some x => x.sat
  | none => false

/-- The read-only hint. -/
def Pfx.ro (p : Pfx) : Bool := match p.x with
  | some x => x.ro
  | none => false

/-- The non-temporal hint. -/
def Pfx.nt (p : Pfx) : Bool := match p.x with
  | some x => x.nt
  | none => false

/-- The registers a bundle reads, its governing mask last (04 R83, R85, R86). -/
def Instr.reads (i : Instr) : List Reg :=
  let n := i.info
  (match i.fmt with
    | .t f => n.a.regs f.a ++ (n.bRole f.u).regs f.b ++ (if n.dr then n.d.regs (f.p.dSource f.d) else [])
    | .i f => n.a.regs f.a ++ (if n.dr then n.d.regs (f.p.dSource f.d) else [])
    | .l f => if n.dr then n.d.regs f.d else []
    | .k f => n.a.regs f.a ++ (n.bRole f.u).regs f.b
    | .c f => [.k f.k.toNat]
    | .z f => n.a.regs f.a
    | _ => []) ++
  (match i with
    | .ret _ => [.a 15]
    | _ => []) ++
  (if i.pfx.k == 0 then [] else [.k i.pfx.k])

/-- The registers a bundle writes. -/
def Instr.writes (i : Instr) : List Reg :=
  let n := i.info
  (match i.fmt with
    | .t f => (if n.dw then n.d.regs f.d else []) ++ (if n.aw then n.a.regs f.a else [])
    | .i f => (if n.dw then n.d.regs f.d else []) ++ (if n.aw then n.a.regs f.a else [])
    | .l f => if n.dw then n.d.regs f.d else []
    | .k f => if n.kw then [.k f.kd.toNat] else []
    | _ => []) ++
  (match i with
    | .call _ | .calla _ => [.a 15]
    | _ => [])

end Sys2Proof
end

