-- ==== Sys2Proof/WellFormed.lean ====
section
/-! DEFINITION. Which instructions are well formed: the ones whose prefix words, W word and fields their description
accepts (04 R70, R73, R75). A step that is no word is always well formed. The three checks are functions of the operand
table (Machine/Operands.lean), so that the decoder and this predicate cannot drift apart. -/

namespace Sys2Proof

/-- Every check of the instruction's bundle holds. -/
def Instr.wf (i : Instr) : Bool := i.xOk && i.wOk && i.wordOk

/-- A well-formed instruction. -/
abbrev Instr.WellFormed (i : Instr) : Prop := i.wf = true

/-- The instruction is one the machine fetches as words. -/
def Instr.isWord (i : Instr) : Bool := i.fmt != .event

end Sys2Proof
end

