-- ==== Sys2Proof/Decode.lean ====
section
/-! DEFINITION. Instruction words read and written (04 R67 to R80, R88 to R90): the fields of the seven formats, the
opcode map, the X, W and PACE words, the assembly of a bundle, and the encoder of a well-formed instruction. -/

namespace Sys2Proof

/-! ### Fields of the seven formats (04 R69) -/

/-- Format T. -/
def readT (p : Pfx) (w : Word) : TF :=
  ⟨p, w.extractLsb' 15 7, w.extractLsb' 8 7, w.extractLsb' 1 7, w.getLsbD 0⟩
/-- Format I. -/
def readI (p : Pfx) (w : Word) : IF := ⟨p, w.extractLsb' 15 7, w.extractLsb' 8 7, w.extractLsb' 0 8⟩
/-- Format L. -/
def readL (p : Pfx) (w : Word) : LF := ⟨p, w.extractLsb' 15 7, w.extractLsb' 0 15⟩
/-- Format J. -/
def readJ (p : Pfx) (w : Word) : JF := ⟨p, w.extractLsb' 0 22⟩
/-- Format K. -/
def readK (p : Pfx) (w : Word) : KF :=
  ⟨p, w.extractLsb' 19 3, w.extractLsb' 15 4, w.extractLsb' 8 7, w.extractLsb' 1 7, w.getLsbD 0⟩
/-- Format C. -/
def readC (p : Pfx) (w : Word) : CF := ⟨p, w.extractLsb' 19 3, w.getLsbD 18, w.extractLsb' 0 18⟩
/-- Format Z. -/
def readZ (p : Pfx) (w : Word) : ZF := ⟨p, w.extractLsb' 15 7, w.extractLsb' 0 15⟩
/-- An X word (04 R72). -/
def readX (w : Word) : XPfx :=
  ⟨w.extractLsb' 19 3, w.getLsbD 18, w.extractLsb' 15 3, w.extractLsb' 8 7, w.getLsbD 7, w.getLsbD 6, w.getLsbD 5,
    w.extractLsb' 0 5⟩
/-- A PACE word (04 R79). -/
def readPace (w : Word) : PaceF :=
  ⟨w.extractLsb' 0 3, w.extractLsb' 3 3, w.extractLsb' 6 3, w.extractLsb' 9 3, w.extractLsb' 12 3, w.extractLsb' 15 3,
    w.extractLsb' 18 3⟩

/-! ### The opcode map (04 R88) -/

/-- The instruction of a base opcode, none for an opcode that is not assigned. Bit 14 of an atomic is W64 (07 R173). -/
def build (p : Pfx) (w : Word) : Option Instr :=
  let op := opcodeOf w
  match op / 8 with
  | 0x00 => match op % 8 with
    | 1 => some (.add (readT p w))
    | 2 => some (.sub (readT p w))
    | 3 => some (.addi (readI p w))
    | 4 => some (.mul (readT p w))
    | 5 => some (.mulhs (readT p w))
    | 6 => some (.mulhn (readT p w))
    | 7 => some (.mad (readT p w))
    | _ => none
  | 0x01 => match op % 8 with
    | 0 => some (.divs (readT p w))
    | 1 => some (.divn (readT p w))
    | 2 => some (.rems (readT p w))
    | 3 => some (.remn (readT p w))
    | 4 => some (.mins (readT p w))
    | 5 => some (.minn (readT p w))
    | 6 => some (.maxs (readT p w))
    | 7 => some (.maxn (readT p w))
    | _ => none
  | 0x02 => match op % 8 with
    | 0 => some (.abs (readT p w))
    | 1 => some (.neg (readT p w))
    | 2 => some (.and (readT p w))
    | 3 => some (.or (readT p w))
    | 4 => some (.xor (readT p w))
    | 5 => some (.andn (readT p w))
    | 6 => some (.not (readT p w))
    | 7 => some (.shl (readT p w))
    | _ => none
  | 0x03 => match op % 8 with
    | 0 => some (.shr (readT p w))
    | 1 => some (.sra (readT p w))
    | 2 => some (.rol (readT p w))
    | 3 => some (.shli (readI p w))
    | 4 => some (.shri (readI p w))
    | 5 => some (.srai (readI p w))
    | 6 => some (.clz (readT p w))
    | 7 => some (.ctz (readT p w))
    | _ => none
  | 0x04 => match op % 8 with
    | 0 => some (.popc (readT p w))
    | 1 => some (.brev (readT p w))
    | 2 => some (.bfx (readT p w))
    | 3 => some (.bfi (readT p w))
    | 4 => some (.prmb (readT p w))
    | 5 => some (.sel (readT p w))
    | 6 => some (.addw (readT p w))
    | 7 => some (.subw (readT p w))
    | _ => none
  | 0x05 => match op % 8 with
    | 0 => some (.mulws (readT p w))
    | 1 => some (.mulwn (readT p w))
    | 2 => some (.movl (readL p w))
    | 3 => some (.mov (readT p w))
    | _ => none
  | 0x08 => match op % 8 with
    | 0 => some (.sadd (readT p w))
    | 1 => some (.ssub (readT p w))
    | 2 => some (.saddi (readI p w))
    | 3 => some (.smul (readT p w))
    | 4 => some (.smad (readT p w))
    | 5 => some (.sand (readT p w))
    | 6 => some (.sor (readT p w))
    | 7 => some (.sxor (readT p w))
    | _ => none
  | 0x09 => match op % 8 with
    | 0 => some (.sshl (readT p w))
    | 1 => some (.sshr (readT p w))
    | 2 => some (.ssra (readT p w))
    | 3 => some (.sshli (readI p w))
    | 4 => some (.sshri (readI p w))
    | 5 => some (.smins (readT p w))
    | 6 => some (.smaxs (readT p w))
    | 7 => some (.smov (readT p w))
    | _ => none
  | 0x0A => match op % 8 with
    | 0 => some (.smovl (readL p w))
    | 1 => some (.ssel (readT p w))
    | 2 => some (.rfl (readT p w))
    | 3 => some (.rdl (readT p w))
    | _ => none
  | 0x0C => match op % 8 with
    | 0 => some (.cmp (readK p w))
    | 1 => some (.cmpi (readK p w))
    | 2 => some (.fcmp (readK p w))
    | 3 => some (.scmp (readK p w))
    | 4 => some (.kand (readK p w))
    | 5 => some (.kor (readK p w))
    | 6 => some (.kxor (readK p w))
    | 7 => some (.kandn (readK p w))
    | _ => none
  | 0x0D => match op % 8 with
    | 0 => some (.knot (readK p w))
    | 1 => some (.kmov (readK p w))
    | 2 => some (.kpop (readT p w))
    | 3 => some (.ballot (readT p w))
    | 4 => some (.kfrom (readK p w))
    | 5 => some (.ktov (readT p w))
    | 6 => some (.kfirst (readK p w))
    | 7 => some (.kall (readK p w))
    | _ => none
  | 0x10 => match op % 8 with
    | 0 => some (.bra (readJ p w))
    | 1 => some (.brk (readC p w))
    | 2 => some (.brz (readZ p w))
    | 3 => some (.brnz (readZ p w))
    | 4 => some (.call (readJ p w))
    | 5 => some (.calla (readT p w))
    | 6 => some (.jmpa (readT p w))
    | 7 => some (.ret (readT p w))
    | _ => none
  | 0x11 => match op % 8 with
    | 0 => some (.exit (readT p w))
    | 1 => some (.yield (readT p w))
    | 2 => some (.nop (readT p w))
    | 3 => some (.wbase (readI p w))
    | 4 => some (.rgn (readI p w))
    | 5 => some (.phint (readL p w))
    | 6 => some (.sleep (readI p w))
    | _ => none
  | 0x18 => match op % 8 with
    | 0 => some (.shfli (readT p w))
    | 1 => some (.shflu (readT p w))
    | 2 => some (.shfld (readT p w))
    | 3 => some (.shflx (readT p w))
    | 4 => some (.matchOp (readT p w))
    | 5 => some (.redadd (readT p w))
    | 6 => some (.redmin (readT p w))
    | 7 => some (.redmax (readT p w))
    | _ => none
  | 0x19 => match op % 8 with
    | 0 => some (.redand (readT p w))
    | 1 => some (.redor (readT p w))
    | 2 => some (.fredadd (readT p w))
    | 3 => some (.scanadd (readT p w))
    | 4 => some (.scanaddx (readT p w))
    | _ => none
  | 0x1C => match op % 8 with
    | 0 => some (.fadd (readT p w))
    | 1 => some (.fsub (readT p w))
    | 2 => some (.fmul (readT p w))
    | 3 => some (.ffma (readT p w))
    | 4 => some (.fmin (readT p w))
    | 5 => some (.fmax (readT p w))
    | 6 => some (.fabs (readT p w))
    | 7 => some (.fneg (readT p w))
    | _ => none
  | 0x1D => match op % 8 with
    | 0 => some (.fclass (readT p w))
    | 1 => some (.frnd (readT p w))
    | 2 => some (.fscale (readT p w))
    | 3 => some (.fcvt (readI p w))
    | 4 => some (.icvt (readI p w))
    | 5 => some (.ficvt (readI p w))
    | 6 => some (.hadd2 (readT p w))
    | 7 => some (.hsub2 (readT p w))
    | _ => none
  | 0x1E => match op % 8 with
    | 0 => some (.hmul2 (readT p w))
    | 1 => some (.hfma2 (readT p w))
    | 2 => some (.badd2 (readT p w))
    | 3 => some (.bmul2 (readT p w))
    | 4 => some (.bfma2 (readT p w))
    | 5 => some (.fpk (readI p w))
    | 6 => some (.fupk (readI p w))
    | 7 => some (.qenc (readI p w))
    | _ => none
  | 0x1F => match op % 8 with
    | 0 => some (.qdec (readI p w))
    | _ => none
  | 0x24 => match op % 8 with
    | 0 => some (.sfrcp (readI p w))
    | 1 => some (.sfrsq (readI p w))
    | 2 => some (.sfsqrt (readI p w))
    | 3 => some (.sfexp2 (readI p w))
    | 4 => some (.sflog2 (readI p w))
    | 5 => some (.sfsin (readI p w))
    | 6 => some (.sfcos (readI p w))
    | 7 => some (.sftanh (readI p w))
    | _ => none
  | 0x25 => match op % 8 with
    | 0 => some (.sfsigm (readI p w))
    | 1 => some (.sferf (readI p w))
    | 2 => some (.sfdiv (readI p w))
    | 3 => some (.sfwait (readI p w))
    | 4 => some (.sftest (readI p w))
    | _ => none
  | 0x28 => match op % 8 with
    | 0 => some (.ldS8 (readI p w))
    | 1 => some (.ldB8 (readI p w))
    | 2 => some (.ldS16 (readI p w))
    | 3 => some (.ldB16 (readI p w))
    | 4 => some (.ldB32 (readI p w))
    | 5 => some (.ldB64 (readI p w))
    | 6 => some (.ldB128 (readI p w))
    | 7 => some (.stB8 (readI p w))
    | _ => none
  | 0x29 => match op % 8 with
    | 0 => some (.stB16 (readI p w))
    | 1 => some (.stB32 (readI p w))
    | 2 => some (.stB64 (readI p w))
    | 3 => some (.stB128 (readI p w))
    | 4 => some (.ldsB32 (readI p w))
    | 5 => some (.ldsB64 (readI p w))
    | 6 => some (.ldsB128 (readI p w))
    | 7 => some (.stsB32 (readI p w))
    | _ => none
  | 0x2A => match op % 8 with
    | 0 => some (.stsB64 (readI p w))
    | 1 => some (.stsB128 (readI p w))
    | 2 => some (.ldoB16 (readT p w))
    | 3 => some (.ldoB32 (readT p w))
    | 4 => some (.stoB16 (readT p w))
    | 5 => some (.stoB32 (readT p w))
    | 6 => some (.ldu (readI p w))
    | 7 => some (.ldp (readI p w))
    | _ => none
  | 0x2B => match op % 8 with
    | 0 => some (.stp (readI p w))
    | 1 => some (.adda (readT p w))
    | 2 => some (.addai (readI p w))
    | 3 => some (.mova (readT p w))
    | 4 => some (.movav (readT p w))
    | 5 => some (.movva (readT p w))
    | 6 => some (.cmpa (readK p w))
    | 7 => some (.suba (readT p w))
    | _ => none
  | 0x2C => match op % 8 with
    | 0 => some (.ida (readT p w))
    | 1 => some (.pref (readI p w))
    | 2 => some (.stdlB32 (readT p w))
    | 3 => some (.stdlB64 (readT p w))
    | 4 => some (.stdlB128 (readT p w))
    | _ => none
  | 0x30 => match op % 8 with
    | 0 => some (if w.getLsbD 14 then .aaddB64 (readT p w) else .aadd (readT p w))
    | 1 => some (if w.getLsbD 14 then .aminsB64 (readT p w) else .amins (readT p w))
    | 2 => some (if w.getLsbD 14 then .aminnB64 (readT p w) else .aminn (readT p w))
    | 3 => some (if w.getLsbD 14 then .amaxsB64 (readT p w) else .amaxs (readT p w))
    | 4 => some (if w.getLsbD 14 then .amaxnB64 (readT p w) else .amaxn (readT p w))
    | 5 => some (if w.getLsbD 14 then .aandB64 (readT p w) else .aand (readT p w))
    | 6 => some (if w.getLsbD 14 then .aorB64 (readT p w) else .aor (readT p w))
    | 7 => some (if w.getLsbD 14 then .axorB64 (readT p w) else .axor (readT p w))
    | _ => none
  | 0x31 => match op % 8 with
    | 0 => some (if w.getLsbD 14 then .axchgB64 (readT p w) else .axchg (readT p w))
    | 1 => some (if w.getLsbD 14 then .acasB64 (readT p w) else .acas (readT p w))
    | 2 => some (.afadd (readT p w))
    | 3 => some (.aincw (readT p w))
    | 4 => some (.fence (readT p w))
    | 5 => some (.acq (readT p w))
    | 6 => some (.rel (readT p w))
    | 7 => some (.acqr (readT p w))
    | _ => none
  | 0x32 => match op % 8 with
    | 0 => some (.cctl (readI p w))
    | _ => none
  | 0x34 => match op % 8 with
    | 0 => some (.fold (readI p w))
    | 1 => some (.unfold (readI p w))
    | 2 => some (.taskend (readT p w))
    | 3 => some (.age (readT p w))
    | 4 => some (.bara (readI p w))
    | 5 => some (.barw (readI p w))
    | 6 => some (.bars (readI p w))
    | 7 => some (.ginit (readT p w))
    | _ => none
  | 0x35 => match op % 8 with
    | 0 => some (.gexp (readT p w))
    | 1 => some (.garr (readT p w))
    | 2 => some (.gwait (readT p w))
    | 3 => some (.gtest (readT p w))
    | _ => none
  | 0x38 => match op % 8 with
    | 0 => some (.cpy (readT p w))
    | 1 => some (.cpyg (readT p w))
    | 2 => some (.cpys (readT p w))
    | 3 => some (.cpyr (readT p w))
    | 4 => some (.tres (readI p w))
    | 5 => some (.trel (readI p w))
    | 6 => some (.jdecl (readT p w))
    | 7 => some (.sign (readI p w))
    | _ => none
  | 0x39 => match op % 8 with
    | 0 => some (.jwait (readI p w))
    | 1 => some (.accrd (readI p w))
    | 2 => some (.accwr (readI p w))
    | 3 => some (.accz (readI p w))
    | 4 => some (.tqset (readI p w))
    | _ => none
  | 0x3C => match op % 8 with
    | 0 => some (.trap (readL p w))
    | 1 => some (.ebrk (readT p w))
    | 2 => some (.rte (readT p w))
    | 3 => some (.getsr (readL p w))
    | 4 => some (.setsr (readL p w))
    | 5 => some (.emit (readT p w))
    | _ => none
  | _ => none

/-- Why a word sequence is refused; the number is the index in the bundle of the word to report. -/
inductive DecodeError where
  /-- a prefix sequence broken by the word (04 R76): ILLEGAL_OPCODE -/
  | malformed (n : Nat)
  /-- a field of the word that its description does not allow (04 R70, R73, R75): RESERVED_FIELD -/
  | reserved (n : Nat)
  /-- the bytes end before the bundle does -/
  | truncated
  deriving DecidableEq, Repr

/-- What the words fetched so far make: more words are needed, an instruction, or a refusal by name. -/
inductive Decoded where
  | more
  | ok (i : Instr)
  | bad (e : DecodeError)
  deriving DecidableEq, Repr

/-- The instruction word of a bundle, its index `n`, after its prefix words (04 R68, R73, R75, R89, R93).
DESIGN CHOICE (log entry 76): where several words of a bundle hold a RESERVED_FIELD fault, the one reported is the X word's,
then the W word's, then the instruction word's. -/
def finish (p : Pfx) (n : Nat) (w : Word) : Decoded :=
  match build p w with
  | some i =>
    if !i.xOk then .bad (.reserved 0)
    else if !i.wOk then .bad (.reserved (n - 1))
    else if !i.wordOk then .bad (.reserved n)
    else .ok i
  | none => .ok (if mappedSpace (opcodeOf w) then .mappedOpcode p w else .illegalOpcodeWord p w)

/-- The word after a W word (04 R76). -/
def afterW (p : Pfx) (n : Nat) : List Word → Decoded
  | [] => .more
  | w :: _ =>
    let op := opcodeOf w
    if op == 0x3F0 || op == 0x3F1 || op == 0x3F2 then .bad (.malformed n) else finish p n w

/-- The word after an X word (04 R76). -/
def afterX (x : XPfx) : List Word → Decoded
  | [] => .more
  | w :: rest =>
    let op := opcodeOf w
    if op == 0x3F0 || op == 0x3F2 then .bad (.malformed 1)
    else if op == 0x3F1 then afterW ⟨some x, some (w.extractLsb' 0 22)⟩ 2 rest
    else finish ⟨some x, none⟩ 1 w

/-- The bundle that a list of words begins with (04 R68), or a PACE word (R79). -/
def decodeWords : List Word → Decoded
  | [] => .more
  | w :: rest =>
    let op := opcodeOf w
    if op == 0x3F0 then afterX (readX w) rest
    else if op == 0x3F1 then afterW ⟨none, some (w.extractLsb' 0 22)⟩ 1 rest
    else if op == 0x3F2 then (if w.getLsbD 21 then .bad (.reserved 0) else .ok (.pace (readPace w)))
    else finish ⟨none, none⟩ 0 w

/-- Little-endian words of a byte sequence (04 R67); bytes short of a word are dropped. -/
def wordsOf : List Byte → List Word
  | b0 :: b1 :: b2 :: b3 :: rest => (b3 ++ b2 ++ b1 ++ b0) :: wordsOf rest
  | _ => []

/-- The decoder on any bytes. -/
def decode (bytes : List Byte) : Except DecodeError Instr :=
  match decodeWords (wordsOf bytes) with
  | .ok i => .ok i
  | .bad e => .error e
  | .more => .error .truncated

/-! ### The encoder -/

/-- An X word. -/
def wordX (x : XPfx) : Word :=
  (0x3F0#10 ++ x.k ++ BitVec.ofBool x.z ++ x.rm ++ x.c ++ BitVec.ofBool x.sat ++ BitVec.ofBool x.ro ++
    BitVec.ofBool x.nt ++ x.low).cast (by decide)
/-- A W word. -/
def wordW (imm : BitVec 22) : Word := (0x3F1#10 ++ imm).cast (by decide)
/-- A PACE word. -/
def wordPace (f : PaceF) : Word :=
  (0x3F2#10 ++ 0#1 ++ f.c6 ++ f.c5 ++ f.c4 ++ f.c3 ++ f.c2 ++ f.c1 ++ f.c0).cast (by decide)

/-- The instruction word of a format under an opcode (04 R69). -/
def wordOf (op : BitVec 10) : Fmt → Word
  | .t f => (op ++ f.d ++ f.a ++ f.b ++ BitVec.ofBool f.u).cast (by decide)
  | .i f => (op ++ f.d ++ f.a ++ f.imm).cast (by decide)
  | .l f => (op ++ f.d ++ f.imm).cast (by decide)
  | .j f => (op ++ f.disp).cast (by decide)
  | .k f => (op ++ f.kd ++ f.cond ++ f.a ++ f.b ++ BitVec.ofBool f.u).cast (by decide)
  | .c f => (op ++ f.k ++ BitVec.ofBool f.sense ++ f.disp).cast (by decide)
  | .z f => (op ++ f.a ++ f.disp).cast (by decide)
  | .pace f => wordPace f
  | .raw _ w => w
  | .event => 0

/-- The words before the instruction word. -/
def Pfx.words (p : Pfx) : List Word :=
  (match p.x with
    | some x => [wordX x]
    | none => []) ++
  (match p.w with
    | some w => [wordW w]
    | none => [])

/-- The words of an instruction; none for a step that is no word. -/
def encode (i : Instr) : List Word :=
  match i.fmt with
  | .event => []
  | f => i.pfx.words ++ [wordOf (BitVec.ofNat 10 i.opcode) f]

/-- The bytes of a word, lowest address first (04 R67). -/
def bytesOf (w : Word) : List Byte :=
  [w.extractLsb' 0 8, w.extractLsb' 8 8, w.extractLsb' 16 8, w.extractLsb' 24 8]

/-- The bytes of an instruction. -/
def encodeBytes (i : Instr) : List Byte := (encode i).flatMap bytesOf

/-- The instruction the decoder reads from a row's word: the first word of a bundle, the words above `nbits` zero. -/
def decodeTableWord (nbits w : Nat) : Option Instr :=
  let bits := w % 2 ^ nbits
  match decode ((List.range 12).map fun k => BitVec.ofNat 8 (bits >>> (8 * k))) with
  | .ok i => some i
  | .error _ => none

end Sys2Proof
end

