-- ==== Sys2Proof/Machine/State.lean ====
section
/-! DEFINITION. The state of one LN7-1536 module as plain data: threads, groups, teams, clusters and grids; cores with
their caches, buffers and engines; contexts; homes, claims and the directory; the host, pool and fabric ports; the
management registers and the module's memory. A table the spec places in device memory (context records, page tables,
the commons, rings, logs) is read and written there and has no second copy here. -/

namespace Sys2Proof.Machine

/-- A map with a default: keys strictly rising, no entry at the default (Machine/Sparse.lean). -/
abbrev Sparse (α : Type) := List (Nat × α)

/-- Bytes by address in one canonical form; an address that is not listed reads 0 (log entry 2). -/
abbrev Memory := List Host.Cell

/-! ### Threads and groups -/

/-- The shadow of an address register (01 R8). -/
structure Tether where
  v : Bool
  ident : BitVec 63
  base : BitVec 48
  gen : BitVec 16
  deriving DecidableEq, Repr

/-- An address register: the visible value and its shadow (01 R4, R8). -/
structure AReg where
  val : DWord
  sh : Tether
  deriving DecidableEq, Repr

/-- The trap causes (10 R231). -/
inductive Cause where
  | illegalOpcode
  | reservedField
  | emulate
  | undersizedStall
  | pendingRead
  | windowRange
  | misaligned
  | translation
  | accessViolation
  | beyondObject
  | tetherMiss
  | brandUnknown
  | dataPoison
  | foldMisuse
  | convergence
  | software
  | breakpoint
  | watchdog
  | linkLost
  | leaseLapsed
  | hostAtomicUnsupported
  | privilege
  | cardInvalid
  | troughRange
  | descInvalid
  | tokenMisuse
  | gateMisuse
  | emitOverflow
  | deliveryCode
  deriving DecidableEq, Repr

/-- The kind of a page request (18 R318). -/
inductive ReqKind where
  | load
  | store
  | atomic
  | fetch
  | engineRead
  | engineWrite
  | commonsFull
  deriving DecidableEq, Repr

/-- A page request before it has an entry (10 R229, 18 R318). -/
structure Request where
  cause : Cause
  addr : DWord
  kind : ReqKind
  ident : BitVec 63
  /-- the address register that a completion re-tethers (10 R230); 0 for none -/
  reg : Nat
  deriving DecidableEq, Repr

/-- What a write under way writes (04 R82): a physical vector register, an address register, a uniform register, or
positions of a mask register. -/
inductive Dst where
  | v (thr phys : Nat) (x : Word)
  | a (thr n : Nat) (x : AReg)
  | s (n : Nat) (x : Word)
  | k (n : Nat) (bits x : DWord)
  deriving DecidableEq, Repr

/-- A write under way: fixed latency with its landing cycle (04 R82), or variable latency (R85), numbered by `id`;
`own` are the threads of the group that issued it. -/
structure Pend where
  dst : Dst
  due : Option Nat
  id : Nat
  own : List Nat
  /-- a fixed-latency write that has landed and is kept for the check of CHKSB (04 R86) -/
  landed : Bool
  deriving DecidableEq, Repr

/-- A special-function token that is pending (06 R148, R149): its number, the physical register it is bound to,
whether its result has landed. -/
structure Token where
  num : Nat
  phys : Nat
  landed : Bool
  deriving DecidableEq, Repr

/-- What holds a thread that is not ready (09 R213). -/
inductive Wait where
  | none
  /-- SLEEP (05 R118), until the cycle -/
  | sleep (til : Nat)
  /-- YIELD (05 R117): another entry than the thread's issues, or the cycle -/
  | yield (til : Nat)
  /-- permit back-off (10 R228), until the cycle -/
  | backoff (til : Nat)
  /-- a permit is held and the request is on its way (10 R228, R229) -/
  | request (r : Request)
  /-- the request has an entry and waits for its completion (10 R229) -/
  | queued (tag : Nat) (r : Request)
  /-- BARW, with the count of the arrival phase (08 R190) -/
  | barrier (n : Nat) (phase : Nat)
  /-- GWAIT (08 R192): the gate's offset and B[0] -/
  | gate (off : Nat) (phase : Bool)
  /-- JWAIT (08 R201) -/
  | job (j : Nat)
  /-- TASKEND (08 R186) -/
  | taskEnd
  /-- a touch of the slot's fold (08 R184) -/
  | claim (slot : Nat)
  /-- a store or atomic to a granule another task holds (08 R185) -/
  | granule (gran : Nat)
  /-- a write to lent bytes (08 R199) -/
  | lent (lo hi : Nat)
  /-- room in the copy queue (08 R194) -/
  | copyRoom
  /-- room in a special-function queue (06 R148) -/
  | sfRoom (q : Nat)
  /-- room in the job queue (13 R283) -/
  | jobRoom
  /-- no issued job names the slot (08 R198, R203) -/
  | slotIdle (slot : Nat)
  /-- tokens of the mask have landed (06 R151) -/
  | tokens (mask : BitVec 8)
  /-- a release of the scope (07 R177) -/
  | release (scope : Nat)
  /-- an answer from the host port or the fabric (23 R359, R368). For an atomic, `before` are the operands of the group's
  lower threads at the address, and `demoted` says that the request is the read of a turn that the thread completes itself (23
  R360, 08 R185) -/
  | answer (txn : Nat) (before : List (DWord × DWord)) (demoted : Bool)
  /-- the core's outstanding fabric acknowledgements, for a system-scope atomic (07 R176) -/
  | fabricIdle
  /-- room in the outstanding-transaction table (23 R368) -/
  | tableRoom
  /-- a commons entry that is leaving, or fetching (07 R157) -/
  | object (slot : Nat) (fetch : Bool)
  /-- the directory entry of an object at a peer (21 R343) -/
  | directory (ctx : Nat) (ident : BitVec 63)
  /-- the answer of a crook acquire (07 R178) -/
  | acqr (victim : Nat)
  /-- SYNC, for a fold with remote granules (26 R395) -/
  | sync
  /-- room in the undo area (11 R249) -/
  | undoRoom
  /-- a locked line at the host-window agent (23 R360) -/
  | hostLine (line : Nat)
  /-- a refusal by the line's home (11 R247), until the retry -/
  | refused (line : Nat)
  /-- the group's write at a home, until the given copies of the line are gone (11 R241) -/
  | home (line : Nat)
  /-- buffered stores to a line of the threads that act there together (07 R159, R172, R175) -/
  | ownStore (line : Nat)
  /-- room in the store buffer for a line (11 R239) -/
  | storeRoom (line : Nat)
  /-- the core's unacknowledged peer writes to a line that the thread stored to (07 R159, 23 R368) -/
  | peerStore (line : Nat)
  /-- a route to the peers of a fold (25 R385) -/
  | route (slot : Nat)
  /-- a granule whose fold is committing (12 R257) -/
  | committing (gran : Nat)
  /-- a thread of the bundle that acts before it on an object of their team (08 R181) -/
  | turn (t : Tid)
  deriving DecidableEq, Repr

/-- How a thread stopped for a save (19 R329); a PHINT stop names its record. -/
inductive Stop where
  | phint (record : BitVec 512)
  | wait
  | full
  deriving DecidableEq, Repr

/-- An answer that a waiting thread takes when it issues its bundle again (23 R359, R368). -/
inductive Reply where
  | none
  | data (x : Line)
  | failed (c : Cause)
  /-- the host refused the AtomicOp (23 R360) -/
  | unsupported
  /-- a crook acquire was answered (07 R178) -/
  | done
  deriving DecidableEq, Repr

/-- Where a request for the thread's bundle went (23 R358, R368): the location and the address of the access, and the
bytes of the core's own buffers that its load returns (R369). -/
structure Sent where
  tgt : Nat
  peer : Nat
  pa : Nat
  demote : Bool
  va : DWord
  own : List (Nat × Byte)
  deriving DecidableEq, Repr

/-- A thread (09 R208): what lives with it from its team's start to its EXIT. -/
structure Thread where
  /-- not exited (05 R116) -/
  present : Bool
  pc : DWord
  /-- the window base B (01 R5) -/
  base : Nat
  /-- the physical vector file (01 R5) -/
  v : Sparse Word
  a : Sparse AReg
  fpcr : Word
  rgncnt : Word
  /-- the region entry (10 R222) -/
  region : DWord
  trapCause : Word
  trapPc : DWord
  trapRgn : DWord
  trapAddr : DWord
  /-- system mode (10 R225) -/
  sys : Bool
  tokens : List Token
  /-- stall counts of the bundles to come (04 R80) -/
  pace : List Nat
  /-- the cycle after its previous bundle's issue (04 R81) -/
  since : Nat
  /-- its issue-table entry, 256 while it is to join one at the end of the cycle, and its stamp (09 R212, R213) -/
  entry : Nat
  stamp : Nat
  wait : Wait
  /-- the next back-off (10 R228) -/
  backoff : Nat
  reply : Reply
  /-- the request its bundle has sent -/
  sent : Option Sent
  /-- lines of host and peer memory that its bundle has read so far, by line number of the location (08 R413) -/
  got : List (Nat × Line)
  /-- it has stopped for a save (19 R329) -/
  stop : Option Stop
  /-- it wrote a system report (10 R414) -/
  reported : Bool
  /-- it completed a system-scope release since its last host-bound store (12 R260) -/
  sysRel : Bool
  deriving DecidableEq, Repr

/-- A group (09 R208): uniform registers, masks, writes under way, threads 0 to W − 1. -/
structure Group where
  s : Sparse Word
  k : Sparse DWord
  pend : List Pend
  threads : List Thread
  deriving DecidableEq, Repr

/-! ### Teams -/

/-- A named barrier (01 R13). -/
structure Barrier where
  phase : Bool
  /-- the model's own: phases completed since the team's start; a waiting thread's phase is complete once it has moved on -/
  turns : Nat
  expect : BitVec 12
  arrived : BitVec 12
  deriving DecidableEq, Repr

/-- The state ST of a convergence register (01 R12). -/
inductive JState where
  | free
  | bound
  | issued
  | done
  deriving DecidableEq, Repr

/-- A convergence register (01 R12). -/
structure JReg where
  card : BitVec 56
  signers : BitVec 12
  signed : BitVec 12
  st : JState
  deriving DecidableEq, Repr

/-- A reservation slot that is installed (08 R197 to R199): the record, the NZX setting in force, and whether a job
that names the slot has completed (the first lending has ended). -/
structure Slot where
  record : BitVec 256
  nzx : BitVec 16
  nzxen : Bool
  used : Bool
  /-- the scratchpad bytes of its ranges when their lending began (08 R199, 13 R279) -/
  kept : Memory := []
  deriving DecidableEq, Repr

/-- A range of a fold descriptor (08 R182). -/
structure FoldRange where
  base : DWord
  len : BitVec 32
  deriving DecidableEq, Repr

/-- What has become of a declared fold (08 R183, R184). -/
inductive FoldState where
  | untouched
  | claiming
  | held
  deriving DecidableEq, Repr

/-- A fold slot that holds a declaration: the descriptor's address, its ranges, its granules as
translated at FOLD and again at the touch. -/
structure FoldSlot where
  desc : DWord
  ranges : List FoldRange
  st : FoldState
  grans : List Nat
  deriving DecidableEq, Repr

/-- A record for the work graph (08 R207). -/
structure EmitRec where
  node : Nat
  bytes : List Byte
  deriving DecidableEq, Repr

/-- A matrix job from its issue to done (08 R200, R201, 13 R280): the card, the slots as they stood at the issue, the
walk position, the tiles entered. -/
structure Job where
  id : Nat
  team : Nat
  j : Nat
  card : BitVec 1024
  slotA : Slot
  slotB : Slot
  slotC : Slot
  /-- K-steps done -/
  pos : Nat
  /-- CLEAR and CIN are done -/
  started : Bool
  /-- its converters run on this core -/
  live : Bool
  /-- a K-step is under way -/
  busy : Bool
  tilesA : Nat
  tilesB : Nat
  /-- it stopped at a K-step boundary and goes on: tiles that no tuple to come names are not entered (20 R339) -/
  again : Bool
  /-- at a K-step boundary for a save (19 R330) -/
  stopped : Bool
  /-- the teams of its broadcast set, once it has begun (13 R284) -/
  set_ : List Nat
  deriving DecidableEq, Repr

/-- Where a team stands (09 R211, 19 R325, 10 R414). -/
inductive TeamStatus where
  | waiting
  | resident
  | saved
  | ended
  deriving DecidableEq, Repr

/-- A team (09 R208). A team's number in `State.teams` never changes. -/
structure Team where
  status : TeamStatus
  ctx : Nat
  handle : BitVec 20
  /-- its cluster and grid in `State.clusters`, `State.grids` -/
  cluster : Nat
  grid : Nat
  /-- ID.TEAM, ID.CLUSTER, ID.TEAMINCL, N.TEAMS, N.CLTEAMS (01 R17) -/
  idTeam : Word
  idCluster : Word
  inCluster : Nat
  nTeams : Word
  nClTeams : Nat
  width : Nat
  /-- P (01 R5) -/
  vregs : Nat
  core : Nat
  lane0 : Nat
  age : DWord
  dlvref : Word
  /-- the last cycle in which fills were refused, and how many in it (01 R19) -/
  dlvNow : Nat × Nat
  scratchSize : Nat
  scratch : Memory
  barriers : List Barrier
  jregs : List JReg
  slots : List (Nat × Slot)
  folds : List (Nat × FoldSlot)
  taskEnded : Bool
  emits : List EmitRec
  /-- the gate table and its overflow flag (19 R332) -/
  gates : List Nat
  gatesFull : Bool
  /-- the decode table as read (04 R91), entry n for opcode 0x380 + n -/
  dtab : List (BitVec 16)
  /-- kept for a restart (08 R189): entry, a1, s1 to s15, the record or node descriptor, the node and batch slot -/
  entry : DWord
  args : DWord
  params : List Word
  record : DWord
  node : Option Nat
  batch : Option Nat
  /-- the cycle its residence or its wait began (19 R328, R335) -/
  since : Nat
  /-- the quantum of its residence timer, in cycles (19 R336) -/
  quantum : Nat
  /-- the cycle of a pre-emption request (19 R328) -/
  request : Option Nat
  /-- the save block of its image, and where the block lay by the header that the save read (19 R325) -/
  block : Option Nat
  imageAt : Nat
  /-- of a saved team: its jobs in issue order, and the scratchpad ranges that were lent, which its image holds (19 R327,
  R332) -/
  jobs : List Job
  lent : List (Nat × Nat)
  /-- halted by a system report (10 R414) -/
  halted : Bool
  /-- an expired fabric entry that no release awaited (23 R370) -/
  lost : Bool
  /-- fabric entries expired during its save (19 R330) -/
  expired : Bool
  /-- a liveness record could not be read: its save is a full one (05 R122) -/
  fullSave : Bool
  /-- it has been placed, and so has its handle (10 R414) -/
  placed : Bool
  /-- wounds by lapsed leases (25 R385) -/
  lapses : Nat
  groups : List Group
  deriving DecidableEq, Repr

/-- A cluster-private copy of a line (11 R244). -/
structure PrivCopy where
  line : Nat
  /-- a virtual address of the line, for the copy of a unit at its write-back (25 R379) -/
  va : Nat
  data : Line
  dirty : Bool
  deriving DecidableEq, Repr

/-- A cluster (09 R208, R209, 11 R244), with the shape and split it is placed under. -/
structure Cluster where
  grid : Nat
  ctx : Nat
  teams : List Nat
  rows : Nat
  cols : Nat
  split : Nat × Nat × Nat
  slice : Nat
  privs : List PrivCopy
  placed : Bool
  since : Nat
  /-- cores being drained for it (17 R301) -/
  draining : List Nat
  deriving DecidableEq, Repr

/-- A grid (17 R296 to R301): its shape, the clusters not yet placed, the teams not yet ended. -/
structure Grid where
  ctx : Nat
  /-- physical address of the ring entry whose STATUS it reports; none for a node team -/
  ringEntry : Option Nat
  record : DWord
  rows : Nat
  cols : Nat
  split : Nat × Nat × Nat
  nTeams : Nat
  width : Nat
  groups : Nat
  vregs : Nat
  scratchSize : Nat
  entry : DWord
  args : DWord
  params : List Word
  node : Option Nat
  batch : Option Nat
  /-- the age tick and SEQ of team 0 (17 R299) -/
  tick0 : Nat
  seq0 : Nat
  nextCluster : Nat
  left : Nat
  since : Nat
  /-- discarded by a disable (18 R323) -/
  dead : Bool
  deriving DecidableEq, Repr

/-! ### Cores -/

/-- A line in L1 (11 R237, R238, R240). -/
structure L1Line where
  ctx : Nat
  line : Nat
  data : Line
  given : Bool
  /-- a load has hit it -/
  hit : Bool
  /-- filled by an ro load (07 R155) -/
  ro : Bool
  /-- the next to be replaced (07 R155) -/
  nt : Bool
  /-- the cycle it was installed -/
  since : Nat
  deriving DecidableEq, Repr

/-- A byte held in the store buffer, with the thread that stored it (11 R239). -/
structure SbByte where
  off : Nat
  val : Byte
  by_ : Tid
  /-- the address of a store that the copy of its unit must precede (25 R381) -/
  cow : Option Nat
  deriving DecidableEq, Repr

/-- An entry of the store buffer (11 R239): the stores of the core's threads to one line, in issue order. -/
structure SbEntry where
  line : Nat
  since : Nat
  /-- the Relaxed Ordering attribute of a host-bound entry (12 R260, 23 R359) -/
  relaxed : Bool
  /-- its stores carry nt (07 R155) -/
  nt : Bool
  bytes : List SbByte
  deriving DecidableEq, Repr

/-- A write that has drained and is not acknowledged (12 R251). -/
structure Unack where
  id : Nat
  line : Nat
  owners : List Tid
  deriving DecidableEq, Repr

/-- An entry of the write-combining buffer (23 R369), keyed by peer and line, with the threads that wrote it. -/
structure WcEntry where
  line : Nat
  /-- the virtual address of the line, for TRAPADDR (23 R370) -/
  va : DWord
  since : Nat
  bytes : List SbByte
  writers : List Tid
  deriving DecidableEq, Repr

/-- An entry of the outstanding-transaction table (23 R368, R370): a write (no waiting thread) of a line, or a read or
atomic; `teams` are those of its owners. -/
structure Txn where
  id : Nat
  teams : List Nat
  line : Nat
  waiters : List Tid
  owners : List Tid
  addr : DWord
  /-- a fetch of code; a group transaction (23 R371) -/
  fetch : Bool
  multi : Bool
  since : Nat
  /-- the team of the copy whose engine has sent it (08 R194, 18 R317) -/
  eng : Option Nat := none
  deriving DecidableEq, Repr

/-- The four copies (08 R194). -/
inductive CopyKind where
  | plain
  | gather
  | scatter
  | reduce
  deriving DecidableEq, Repr

/-- A copy from its issue to its gate update (08 R193 to R196): its issuing thread, the descriptor, the gate offset, the
FPCR snapshot and rm; elements walked, the index entry in use; bytes of host and peer memory read for the element, the
request that is awaited (its number, location and length) and its error; peer writes awaited; the fault that ended it and whether it is logged. -/
structure Copy where
  kind : CopyKind
  t : Tid
  head : BitVec 256
  dims : List (BitVec 192)
  gate : Word
  fpcr : Word
  rm : Nat
  pos : Nat
  index : Option (Nat × Nat)
  got : List (Nat × Byte)
  ask : Option (Nat × Nat × Nat)
  bad : Option Cause
  outs : List Nat
  walked : Bool
  fault : Option (Request × Bool)
  /-- the entry of an engine's page request (10 R229) -/
  tag : Option Nat
  deriving DecidableEq, Repr

/-- An entry of a special-function queue (06 R148). -/
structure SfEntry where
  id : Nat
  q : Nat
  t : Tid
  tok : Nat
  phys : Nat
  val : Word
  deriving DecidableEq, Repr

/-- A keyed entry of the issue table (09 R212). -/
structure Entry where
  num : Nat
  pc : DWord
  ctx : Nat
  deriving DecidableEq, Repr

/-- A cached translation (18 R316): the page-table leaf that maps the page, its level and where it lies. -/
structure TlbEntry where
  ctx : Nat
  va : Nat
  level : Nat
  pte : DWord
  at_ : Nat
  deriving DecidableEq, Repr

/-- A core (09 R211 to R214, 11, 13). -/
structure Core where
  split : Option (Nat × Nat × Nat)
  entries : List Entry
  /-- the guard pointer's offset: it stands at (guard + cycle) mod 256 (09 R214) -/
  guard : Nat
  /-- the last cycle in which it issued, and the entry -/
  issued : Option (Nat × Nat)
  /-- the lowest threads of the units that were ready at the end of the previous cycle (09 R214) -/
  ready : List Tid
  /-- free trap permits (10 R228) -/
  permits : Nat
  l1 : List L1Line
  /-- the last two cycles in which a fill was installed, the latest first (07 R171) -/
  fills : List Nat
  sb : List SbEntry
  unacked : List Unack
  wc : List WcEntry
  out : List Txn
  copyQ : List Copy
  eng0 : Option Copy
  eng1 : Option Copy
  /-- the back-off of each engine's next refused request (10 R229) -/
  engBack : Nat × Nat
  jobs : List Job
  trough : Memory
  sfq : List SfEntry
  /-- lines fetched as code since the last team start or resume on the core (04 R92; log entry 23), by line number of the
  location -/
  code : List (Nat × Line)
  tlb : List TlbEntry
  deriving DecidableEq, Repr

/-! ### Contexts and graphs -/

/-- A record in a bin (17 R305): its bytes, the cycle it entered and the core it came from. -/
structure BinRec where
  bytes : List Byte
  since : Nat
  core : Nat
  deriving DecidableEq, Repr

/-- A node of the loaded graph (17 R303 to R306): the descriptor as loaded, where it lies, the path value L, the bin. -/
structure Node where
  desc : BitVec 1024
  addr : DWord
  path : Nat
  bin : List BinRec
  /-- places reserved by held EMIT records (17 R305) -/
  reserved : Nat
  /-- the cycle the timer started -/
  timer : Option Nat
  expired : Bool
  deriving DecidableEq, Repr

/-- The loaded graph of a context (17 R302): the areas and the nodes; `batches` are the batch slots in use. -/
structure Graph where
  binArea : DWord
  batchArea : DWord
  nodes : List Node
  batches : List Nat
  deriving DecidableEq, Repr

/-- A context (18 R309 to R311): what the module holds of its record, and what it counts for it. -/
structure Ctx where
  en : Bool
  save : DWord
  flog : DWord
  undosz : Word
  undo : DWord
  ringsz : Word
  ring : DWord
  hbase : DWord
  part : Nat
  wdlim : Word
  quant : Word
  halt : Bool
  chksb : Bool
  /-- the take index of the ring (17 R295) -/
  take : Word
  /-- entries written to the fault log (18 R320) -/
  flogN : Word
  /-- pages at which a walk of this cycle met a malformed table, each with the cycle and its die (18 R316, R320) -/
  walks : List (Nat × Nat × Nat)
  /-- what the watchdog has counted (18 R324), in µs -/
  wdCount : Nat
  /-- the tether pointer (21 R350) -/
  tetherPtr : DWord
  nextHandle : Nat
  graph : Option Graph
  deriving DecidableEq, Repr

/-! ### Homes, claims, page requests -/

/-- A directory region (11 R246). -/
structure Region where
  slice : Nat
  addr : Nat
  size : Nat
  given : List Nat
  privs : List Nat
  quiet : Nat
  deriving DecidableEq, Repr

/-- The request count of a line, and the slice it has moved to (11 R243). -/
structure Forward where
  line : Nat
  die : Nat
  count : Nat
  moved : Option Nat
  since : Nat
  deriving DecidableEq, Repr

/-- Who asks a home to write a line (11 R247): the threads of a group at one bundle, which make one request (07 R172,
R175); a core's store buffer; a copy engine; the slice of a cluster's private copy; the claim of a granule; a fold's commit;
the host port (0) or a fabric port (its number and one more). -/
inductive Asker where
  | group (team grp : Nat) (pc : DWord)
  | buffer (core : Nat)
  | engine (core eng : Nat)
  | slice (cluster : Nat)
  | claim (gran : Nat)
  | commit (team : Nat)
  | port (n : Nat)
  deriving DecidableEq, Repr

/-- A refused request for a line (11 R247): its refusals, the cycles of the first and the last. -/
structure Refused where
  who : Asker
  line : Nat
  count : Nat
  since : Nat
  last : Nat
  reserved : Bool
  deriving DecidableEq, Repr

/-- A write that a home has begun (11 R241, R246, R247), numbered by `id`: the cores whose invalidation is awaited before it
is performed, and whether it has been. -/
structure HomeTxn where
  id : Nat
  line : Nat
  who : Asker
  waits : List Nat
  done : Bool
  deriving DecidableEq, Repr

/-- A line that stands in a way of an L2 slice (00 R1, 11 R243, R244): a line of the slice's own or one that has moved
there, or the private copy of a cluster. -/
structure L2Line where
  slice : Nat
  line : Nat
  cl : Option Nat
  /-- the core that asked for it, whose partition has allocated the way (18 R321) -/
  core : Nat
  /-- of a dirty pool line: what its shelf holds (23 R364, 26 R396) -/
  under : Option Line
  /-- the next to be replaced (07 R155) -/
  nt : Bool
  /-- chosen to leave its way -/
  out : Bool
  deriving DecidableEq, Repr

/-- A claim of a granule (11 R248): the holding team, whether it is committing (12 R257). -/
structure Claim where
  gran : Nat
  team : Nat
  committing : Bool
  deriving DecidableEq, Repr

/-- A task that waits for a granule (08 R184). -/
structure Want where
  gran : Nat
  team : Nat
  slot : Nat
  deriving DecidableEq, Repr

/-- A shadow line (11 R249): the task's version of a line, in a shadow way or in the undo area. -/
structure ShadowLine where
  team : Nat
  line : Nat
  data : Line
  /-- the bytes the task has written -/
  mask : BitVec 128
  undo : Bool
  since : Nat
  deriving DecidableEq, Repr

/-- A delivered line on its way to a core (07 R169, R171). -/
structure Flight where
  id : Nat
  core : Nat
  ctx : Nat
  line : Nat
  data : Line
  t : Tid
  /-- the cycle of the store it delivers (07 R172) -/
  since : Nat
  /-- a later write has invalidated it (11 R241) -/
  stale : Bool
  deriving DecidableEq, Repr

/-- The heap pages of an object of the commons (21 R348, R349): the slot of its entry, where they lie, how many, the lines
written since the fetch (R351), and the number of its pool or peer fetch (R347). -/
structure ObjRun where
  slot : Nat
  back : Nat
  pages : Nat
  written : List Nat
  fetch : Nat := 0
  deriving DecidableEq, Repr

/-- A read of an object's directory entry at a peer (21 R343), numbered by `id`: the domain entry as read for it, and the
answer, none where the read faulted. -/
structure DirRead where
  id : Nat
  ctx : Nat
  ident : BitVec 63
  dom : BitVec 512
  answer : Option (Option (BitVec 256))
  deriving DecidableEq, Repr

/-- What the homes hold beside memory itself. -/
structure Home where
  /-- the domain entry that each commons entry was created under, by slot (21 R342) -/
  domains : List (Nat × BitVec 512)
  /-- directory reads at peers -/
  dirs : List DirRead
  /-- objects that hold heap pages, the least recently tethered first (21 R349) -/
  runs : List ObjRun
  dir : List Region
  fwd : List Forward
  refused : List Refused
  claims : List Claim
  wants : List Want
  shadows : List ShadowLine
  flights : List Flight
  /-- writes that wait for invalidations -/
  txns : List HomeTxn
  /-- the ways of the L2 slices in use -/
  l2 : List L2Line
  deriving DecidableEq, Repr

/-- An entry of the page-request queue (10 R229, 18 R318). -/
structure PrqEntry where
  tag : Nat
  ctx : Nat
  part : Nat
  shared : Bool
  req : Request
  waiters : List Tid
  engines : List (Nat × Nat)
  deriving DecidableEq, Repr

/-- A request that has reached the queue and is to be served (10 R229): of a thread, otherwise of an engine of a core. -/
structure PrqArrival where
  ctx : Nat
  req : Request
  thr : Option Tid
  eng : Nat × Nat
  deriving DecidableEq, Repr

/-! ### Ports -/

/-- A non-posted host request that has no completion yet (23 R357 to R360): who waits, a read of `len` bytes or an
AtomicOp with B as `x` and C as `y` (07 R174). -/
structure HostReq where
  id : Nat
  waiters : List Tid
  addr : Nat
  len : Nat
  op : Option HostOp
  x : DWord
  y : DWord
  fetch : Bool
  since : Nat
  deriving DecidableEq, Repr

/-- A posted write in the host port (23 R358, R360), with its Relaxed Ordering attribute, its thread and whether it carries
EP, the poison mark (27 R400). -/
structure Posted where
  addr : Nat
  bytes : List (Nat × Byte)
  relaxed : Bool
  t : Option Tid
  poisoned : Bool
  deriving DecidableEq, Repr

/-- What the host receives from the port beside posted writes: the completion of a BAR2 read or AtomicOp (23 R361). -/
structure HostAnswer where
  addr : Nat
  bytes : List Byte
  poisoned : Bool
  supported : Bool
  deriving DecidableEq, Repr

/-- A host write to BAR2 that has arrived and is not yet applied (23 R361), with its Relaxed Ordering attribute. -/
structure Inbound where
  addr : Nat
  bytes : List Byte
  relaxed : Bool
  deriving DecidableEq, Repr

/-- The host port (23 R357 to R362). -/
structure HostPort where
  active : Nat
  reqs : List HostReq
  posted : List Posted
  /-- BAR2 writes in arrival order -/
  inbound : List Inbound
  answers : List HostAnswer
  /-- MSI-X vectors sent, newest first -/
  msix : List Nat
  /-- the UR list (23 R360), newest first -/
  ur : List Nat
  /-- host lines locked by the agent, with the threads whose turns are to come (07 R175, 23 R360) -/
  locks : List (Nat × List Tid)
  /-- the module's own posted writes that wait at the agent for a locked line (23 R360) -/
  held : List Posted
  deriving DecidableEq, Repr

/-- What a flit from a peer carries to this module's homes (23 R366, R368, R371): nothing that acts on memory, a read, a
write, an atomic (its opcode, width and turns), an element that is added, a nibble that is merged, the compare of a
publication (25 R387), a poison mark. -/
inductive Payload where
  | other
  | read (peer addr len : Nat)
  | write (peer : Nat) (bytes : List (Nat × Byte))
  | atomic (peer addr op width : Nat) (turns : List (Nat × Nat))
  | add (peer addr format rm : Nat) (bytes : List Byte)
  | nibble (peer addr : Nat) (high : Bool) (x : Nat)
  | compare (peer addr expect new : Nat)
  | poison (line : Nat)
  deriving DecidableEq, Repr

/-- A flit received and not yet passed on (23 R366, R367): its sequence number and payload, and the slot it is held in: of
which partition, reserved or shared. -/
structure RxFlit where
  seq : Nat
  load : Payload
  part : Nat
  shared : Bool
  deriving DecidableEq, Repr

/-- A port of the fabric (23 R365 to R367, 27 R405). -/
structure Port where
  up : Bool
  lanes : Nat
  training : Bool
  /-- the next sequence number to send; the flits held for replay, each with how often it has been sent again; the
  partitions of the flits not yet sent -/
  nextSeq : Nat
  replay : List (Nat × Nat)
  backlog : List Nat
  /-- of each flit sent that holds one of the leaf's slots: its sequence number, its partition, whether the slot is a shared
  one (23 R367) -/
  credits : List (Nat × Nat × Bool)
  /-- the cycle its replay timer started -/
  timer : Nat
  /-- flits sent again, newest first -/
  resent : List Nat
  /-- the next flit to pass on, and the ones received out of order -/
  expect : Nat
  reseq : List RxFlit
  /-- flits passed on -/
  passed : Nat
  /-- the last acknowledgement sent: base and bitmap -/
  acked : Option (Nat × DWord)
  deriving DecidableEq, Repr

/-- A lease this module holds at a peer (25 R383, 26 R393): its expiry in ns. -/
structure LeaseHeld where
  team : Nat
  gran : Nat
  peer : Nat
  expiry : Nat
  deriving DecidableEq, Repr

/-- A lease this module has granted as a home (26 R393), and what a prepare has sent (25 R384). -/
structure LeaseGiven where
  gran : Nat
  holder : Nat
  /-- the age of the holding task -/
  age : DWord
  expiry : Nat
  committing : Bool
  bytes : List (Nat × Byte)
  deriving DecidableEq, Repr

/-- A peer's task that waits for a granule of this module (25 R383). -/
structure RemoteWant where
  gran : Nat
  peer : Nat
  age : DWord
  deriving DecidableEq, Repr

/-- A commit with remote granules under way (25 R384): the task's age and its remote granules, those whose acknowledgement is
missing, and whether it is decided. -/
structure Decision where
  team : Nat
  age : DWord
  grans : List Nat
  peers : List Nat
  decided : Bool
  since : Nat
  deriving DecidableEq, Repr

/-- A pool extent under lease (26 R396). -/
structure Extent where
  id : Nat
  base : Nat
  size : Nat
  renewed : Nat
  lapsed : Bool
  deriving DecidableEq, Repr

/-- A message to a peer module (23 R368 to R371, 25 R383, R384): its kind, the peer, an address, a payload. -/
inductive FabricMsg where
  | read (peer addr len : Nat)
  | write (peer : Nat) (line : Nat) (bytes : List (Nat × Byte))
  | atomic (peer addr op width : Nat) (turns : List (DWord × DWord))
  | multicast (group : Nat) (offset : Nat) (bytes : List Byte)
  | contribute (group offset format rm : Nat) (bytes : List Byte)
  | add (peer addr format rm : Nat) (bytes : List Byte)
  | nibble (peer addr : Nat) (high : Bool) (x : Nat)
  | claim (peer gran : Nat) (age : DWord)
  | renew (peer gran expiry : Nat) (age : DWord)
  | renewed (peer gran expiry : Nat)
  | refused (peer gran : Nat)
  | release (peer gran : Nat) (age : DWord)
  | prepare (peer gran : Nat) (age : DWord) (bytes : List (Nat × Byte))
  | prepared (peer gran : Nat)
  | apply (peer gran : Nat)
  | applied (peer gran : Nat)
  | query (peer gran : Nat) (age : DWord)
  | wound (peer gran : Nat)
  | answer (peer addr : Nat) (bytes : List Byte) (poisoned : Bool)
  | acked (peer addr : Nat)
  | poison (peer line : Nat)
  /-- a publication's compare at the object's home: the directory entry's address, EXPECT and NEWADDR (25 R387) -/
  | compare (peer addr expect new : Nat)
  | pool (ext : Nat)
  /-- the answer to a shelf's snoop of a line (23 R364) -/
  | snooped (line : Nat)
  deriving DecidableEq, Repr

/-- The fabric and the pool (23 R363 to R371, 25, 26). -/
structure Fabric where
  ports : Sparse Port
  /-- messages sent, newest first -/
  sent : List FabricMsg
  held : List LeaseHeld
  given : List LeaseGiven
  asked : List RemoteWant
  decisions : List Decision
  extents : List Extent
  /-- pool ports that are down or do not answer (23 R364) -/
  poolDown : List Nat
  /-- contributions made to each group offset (23 R371) -/
  rounds : List (Nat × Nat)
  /-- modules removed from the fabric (25 R384) -/
  removed : List Nat
  /-- transactions of peers that wait for a granule or a line, in the order of their arrival, each with its port (23 R366) -/
  waits : List (Nat × RxFlit)
  deriving DecidableEq, Repr

/-! ### Management, time, repair -/

/-- What the module itself does in host or peer memory: it reads, writes, or asks a peer to compare (23 R358, 25 R387). -/
inductive FarKind where
  | read
  | write
  | compare
  deriving DecidableEq, Repr

/-- One such access: for the tasks of PUBCMD and DIGCMD (`user` 0) or for context `user` − 1 (launch records, graphs),
with its place and length, and its answer once it has come. -/
structure FarOp where
  user : Nat
  id : Nat
  kind : FarKind
  key : Nat
  len : Nat
  reply : Reply
  deriving DecidableEq, Repr

/-- The management registers and counters (28 R412). -/
structure Mgmt where
  /-- BOOTSTAT.STATE (28 R410) -/
  boot : Nat
  /-- the number of the firmware image that the last reset has read from flash (28 R410) -/
  firmware : Nat
  ctxTable : DWord
  partTab : DWord
  prqRing : DWord
  domTab : DWord
  commonsBase : DWord
  persTab : DWord
  errLog : DWord
  srRing : DWord
  pwrCap : DWord
  mgmtErr : DWord
  /-- commands completed, and commands stored and not completed, the oldest first (18 R311) -/
  cmdDone : DWord
  cmds : List DWord
  /-- addresses stored to PUBCMD (0), DIGCMD (1) and ATTEST (2) and not yet performed, the oldest first -/
  tasks : List (Nat × DWord)
  prqN : DWord
  srN : DWord
  /-- the module's own accesses of host and peer memory under way or answered -/
  far : List FarOp
  /-- the bits of a context's count of command-log entries above the 32 of CLOGN (25 R388) -/
  clogHi : List (Nat × Nat)
  deriving DecidableEq, Repr

/-- Global time (26 R391, R392). `sixths` counts sixths of a ns; GTIME is a sixth of it. -/
structure TimeState where
  sixths : Nat
  sync : Bool
  losses : BitVec 16
  /-- sixths of a ns by which the clock is still ahead (R392) -/
  slew : Nat
  /-- local time minus fabric time at the last message, in ns -/
  offset : Int
  /-- consecutive messages within 125 ns -/
  good : Nat
  /-- the cycle of the last message -/
  last : Nat
  /-- the last age tick issued and the next SEQ in it (17 R299) -/
  tick : Nat
  seq : Nat
  deriving DecidableEq, Repr

/-- Repair, power and the island clamps (27, 28, 18 R322). -/
structure Repair where
  /-- core numbers absent in COREMAP (27 R402) -/
  absent : List Nat
  /-- spare cores used, per die, of 8 -/
  spares : Sparse Nat
  /-- islands whose clamps are closed (18 R322) -/
  clamped : List Nat
  /-- failed slices and their substitutes (27 R404) -/
  slices : List (Nat × Nat)
  /-- spare channels used, per stack (27 R405) -/
  channels : Sparse Nat
  /-- corrected-error counts by class of storage (27 R406) -/
  corrected : Sparse Nat
  /-- DRAM rows with corrections, each with its cycle (27 R399) -/
  rows : List (Nat × Nat)
  /-- records written to the error log (27 R406) -/
  errN : Nat
  throttled : Bool
  deriving DecidableEq, Repr

/-! ### The module -/

/-- A step due at a cycle. -/
structure Due where
  at_ : Nat
  ev : Instr
  arg : EvArg
  deriving DecidableEq, Repr

/-- The issue group under execution (09 R214): its core, its threads by ascending lane, the address of the bundle's
first word, of its opcode word, and of the word after it. -/
structure Issue where
  core : Nat
  threads : List Tid
  pc : DWord
  opPc : DWord
  next : DWord
  deriving DecidableEq, Repr

/-- The state of the module. -/
structure State where
  cycle : Nat
  time : TimeState
  /-- device DRAM and pool memory, by TGT · 2^48 + physical address (18 R314) -/
  mem : Memory
  /-- poisoned lines (27 R400) -/
  poison : List Nat
  cores : Sparse Core
  teams : List Team
  clusters : List Cluster
  grids : List Grid
  ctxs : Sparse Ctx
  /-- the shared TLB of each die (18 R316) -/
  dieTlb : Sparse (List TlbEntry)
  home : Home
  prq : List PrqEntry
  /-- requests to be served, and the partition served last (10 R229) -/
  prqIn : List PrqArrival
  prqLast : Nat
  mgmt : Mgmt
  host : HostPort
  fab : Fabric
  repair : Repair
  /-- the model's own: steps due, the issue group and event under execution, counters of free values and identities -/
  agenda : List Due
  cur : Issue
  arg : EvArg
  fresh : Nat
  nextId : Nat
  deriving DecidableEq, Repr

/-- Why the machine stops. -/
inductive Fault where
  /-- Raised by a step while BOOTSTAT.STATE is 5 and no reset is to come: the firmware's signature check failed and the
  module goes no further (28 R410). Safe: the spec gives no further step. -/
  | bootFailed
  /-- Raised by a step while BOOTSTAT.STATE is 4 and no reset is to come: power is removed from the compute dies (28
  R409). Safe: the spec gives no further step before a reset. -/
  | powerRemoved
  deriving DecidableEq, Repr

/-- Why a step has no meaning. -/
inductive Refusal where
  /-- Raised by an arm of the dispatcher for a row of the table that has no meaning yet. Safe: the model stops where
  the hardware goes on. -/
  | notModelled (mnemonic : String)
  deriving DecidableEq, Repr

/-! ### Reset (28 R410) -/

/-- A clear shadow (01 R8). -/
def Tether.clear : Tether := ⟨false, 0, 0, 0⟩
/-- Value 0 with a clear shadow (01 R10). -/
def AReg.zero : AReg := ⟨0, Tether.clear⟩

/-- A core that holds no team (28 R410; the guard pointer's start is log entry 5). -/
def Core.reset : Core :=
  { split := none, entries := [], guard := 0, issued := none, ready := [], permits := 4, l1 := [], fills := [], sb := [],
    unacked := [], wc := [], out := [], copyQ := [], eng0 := none, eng1 := none, engBack := (256, 256), jobs := [], trough := [], sfq := [], code := [],
    tlb := [] }

/-- A context that is not enabled (18 R309, 28 R410). -/
def Ctx.reset : Ctx :=
  { en := false, save := 0, flog := 0, undosz := 0, undo := 0, ringsz := 0, ring := 0, hbase := 0, part := 0,
    wdlim := 0, quant := 0, halt := false, chksb := false, take := 0, flogN := 0, walks := [], wdCount := 0,
    tetherPtr := 0x0000400000010000, nextHandle := 0, graph := none }

/-- A trained fabric port (28 R410). -/
def Port.reset : Port :=
  { up := true, lanes := 8, training := false, nextSeq := 0, replay := [], backlog := [], credits := [], timer := 0, resent := [], expect := 0, reseq := [],
    passed := 0, acked := none }

/-- A thread that is not present. -/
def Thread.none : Thread :=
  { present := false, pc := 0, base := 16, v := [], a := [], fpcr := 1, rgncnt := 0, region := 0, trapCause := 0,
    trapPc := 0, trapRgn := 0, trapAddr := 0, sys := false, tokens := [], pace := [], since := 0,
    entry := 255, stamp := 0, wait := .none, backoff := 256, reply := .none, sent := Option.none, got := [], stop := Option.none, reported := false,
    sysRel := false }

/-- A group without threads. -/
def Group.none : Group := ⟨[], [], [], []⟩

/-- A team that has ended. -/
def Team.none : Team :=
  { status := .ended, ctx := 0, handle := 0, cluster := 0, grid := 0, idTeam := 0, idCluster := 0, inCluster := 0,
    nTeams := 0, nClTeams := 0, width := 8, vregs := 128, core := 0, lane0 := 0, age := 0, dlvref := 0, dlvNow := (0, 0),
    scratchSize := 0, scratch := [], barriers := [], jregs := [], slots := [], folds := [], taskEnded := true,
    emits := [], gates := [], gatesFull := false, dtab := [], entry := 0, args := 0, params := [], record := 0,
    node := Option.none, batch := Option.none, since := 0, quantum := 0, request := Option.none, block := Option.none, imageAt := 0,
    jobs := [], lent := [], halted := false, lost := false, expired := false, fullSave := false, placed := false, lapses := 0, groups := [] }

/-- A cluster without teams. -/
def Cluster.none : Cluster := ⟨0, 0, [], 1, 1, (0, 0, 0), 0, [], false, 0, []⟩

/-- A grid without teams. -/
def Grid.none : Grid :=
  { ctx := 0, ringEntry := Option.none, record := 0, rows := 1, cols := 1, split := (0, 0, 0), nTeams := 0,
    width := 8, groups := 1, vregs := 128, scratchSize := 0, entry := 0, args := 0, params := [],
    node := Option.none, batch := Option.none, tick0 := 0, seq0 := 0, nextCluster := 0, left := 0, since := 0,
    dead := true }

/-- No issue group. -/
def Issue.none : Issue := ⟨0, [], 0, 0, 0⟩

/-- The module after reset, ready with every context disabled and every management register at its reset value
(28 R410, R412; log entries 1, 2, 3, 5, 7, 8). -/
def State.reset : State :=
  { cycle := 0
    time := { sixths := 0, sync := false, losses := 0, slew := 0, offset := 0, good := 0, last := 0, tick := 0, seq := 0 }
    mem := []
    poison := []
    cores := []
    teams := []
    clusters := []
    grids := []
    ctxs := []
    dieTlb := []
    home := { domains := [], dirs := [], runs := [], dir := [], fwd := [], refused := [], claims := [], wants := [], shadows := [], flights := [],
              txns := [], l2 := [] }
    prq := []
    prqIn := []
    prqLast := 0
    mgmt := { boot := 6, firmware := 0, ctxTable := 0, partTab := 0, prqRing := 0, domTab := 0, commonsBase := 0, persTab := 0,
              errLog := 0, srRing := 0, pwrCap := 4800, mgmtErr := 0, cmdDone := 0, cmds := [], tasks := [], prqN := 0, srN := 0, far := [], clogHi := [] }
    host := { active := 0, reqs := [], posted := [], inbound := [], answers := [], msix := [], ur := [], locks := [], held := [] }
    fab := { ports := [], sent := [], held := [], given := [], asked := [], decisions := [], extents := [], poolDown := [],
             rounds := [], removed := [], waits := [] }
    repair := { absent := [], spares := [], clamped := [], slices := [], channels := [], corrected := [], rows := [], errN := 0,
                throttled := false }
    agenda := []
    cur := Issue.none
    arg := {}
    fresh := 0
    nextId := 0 }

end Sys2Proof.Machine
end

