-- ==== Sys2Proof/Machine/Sparse.lean ====
section
/-! DEFINITION. Maps with a default as sorted lists of the entries that differ from it, and memory as such a map of
bytes with default 0. Equal maps are equal lists (`Sp.wf`). -/

namespace Sys2Proof.Machine

/-- The value at key `k`, the default `d` where none is listed. -/
def Sp.get {α : Type} (d : α) : Sparse α → Nat → α
  | [], _ => d
  | (j, x) :: m, k => if j = k then x else Sp.get d m k

/-- The map with key `k` no longer listed. -/
def Sp.drop {α : Type} (m : Sparse α) (k : Nat) : Sparse α := m.filter (fun e => e.1 != k)

/-- Lists `x` at `k` in its place. -/
def Sp.insert {α : Type} (k : Nat) (x : α) : Sparse α → Sparse α
  | [] => [(k, x)]
  | (j, y) :: m => if k < j then (k, x) :: (j, y) :: m else if k = j then (k, x) :: m else (j, y) :: Sp.insert k x m

/-- The map with value `x` at `k`; an entry at the default is not listed. -/
def Sp.set {α : Type} [DecidableEq α] (d : α) (m : Sparse α) (k : Nat) (x : α) : Sparse α :=
  if x = d then Sp.drop m k else Sp.insert k x m

/-- Keys strictly rising and above `lo`, no entry at the default. -/
def Sp.above {α : Type} [DecidableEq α] (d : α) : Option Nat → Sparse α → Bool
  | _, [] => true
  | lo, (k, x) :: m => (match lo with
      | none => true
      | some l => decide (l < k)) && x != d && Sp.above d (some k) m

/-- The canonical form. -/
def Sp.wf {α : Type} [DecidableEq α] (d : α) (m : Sparse α) : Bool := Sp.above d none m

/-! ### Memory -/

/-- The canonical form of a memory: addresses strictly rising, no byte listed that is 0 (log entry 2). -/
def Memory.wf (m : Memory) : Bool := Sp.wf 0 m

/-- The byte at an address. -/
def Memory.get (m : Memory) (a : Nat) : Byte := Sp.get (0 : Byte) m a

/-- The memory with byte `x` at `a`. -/
def Memory.put (m : Memory) (a : Nat) (x : Byte) : Memory := Sp.set (0 : Byte) m a x

/-- `n` bytes from `a` upward. -/
def Memory.bytes (m : Memory) (a : Nat) : Nat → List Byte
  | 0 => []
  | n + 1 => m.get a :: m.bytes (a + 1) n

/-- Writes bytes at their own addresses, in the list's order. -/
def Memory.putAll (m : Memory) : List (Nat × Byte) → Memory
  | [] => m
  | (a, x) :: l => (m.put a x).putAll l

/-- Bytes with their addresses from `a` upward. -/
def bytesAt (a : Nat) : List Byte → List (Nat × Byte)
  | [] => []
  | x :: l => (a, x) :: bytesAt (a + 1) l

/-- The number whose little-endian bytes these are (02 R25). -/
def leNat : List Byte → Nat
  | [] => 0
  | x :: l => x.toNat + 256 * leNat l

/-- The `n` little-endian bytes of a number. -/
def leBytes : Nat → Nat → List Byte
  | 0, _ => []
  | n + 1, x => BitVec.ofNat 8 x :: leBytes n (x / 256)

/-- The little-endian value of `n` bytes at `a`. -/
def Memory.le (m : Memory) (a n : Nat) : Nat := leNat (m.bytes a n)

/-- The memory with every address of `[a, a + n)` reading 0. -/
def Memory.clear (m : Memory) (a n : Nat) : Memory := m.filter (fun c => c.1 < a || a + n ≤ c.1)

/-- The listed bytes of `[a, a + n)`, moved to start at `b`. -/
def Memory.slice (m : Memory) (a n b : Nat) : Memory :=
  (m.filter (fun c => a ≤ c.1 && c.1 < a + n)).map (fun c => (b + (c.1 - a), c.2))

/-- The memory with the `n` bytes at `dst` replaced by the listed bytes `img`, whose addresses start at `dst`. -/
def Memory.replace (m : Memory) (dst n : Nat) (img : Memory) : Memory := (m.clear dst n).putAll img

/-- The memory with `n` bytes copied from `src` to `dst`. -/
def Memory.copy (m : Memory) (src n dst : Nat) : Memory := m.replace dst n (m.slice src n dst)

/-- The 128 bytes of a line as one value. -/
def Memory.line (m : Memory) (l : Nat) : Line := BitVec.ofNat 1024 (m.le (l * 128) 128)

/-- Byte `i` of a line. -/
def lineByte (x : Line) (i : Nat) : Byte := x.extractLsb' (8 * i) 8

/-- A line with byte `i` replaced. -/
def setLineByte (x : Line) (i : Nat) (b : Byte) : Line :=
  (x &&& ~~~((BitVec.ofNat 1024 0xFF) <<< (8 * i))) ||| ((b.zeroExtend 1024) <<< (8 * i))

/-- The memory with a whole line replaced. -/
def Memory.putLine (m : Memory) (l : Nat) (x : Line) : Memory := m.putAll (bytesAt (l * 128) (leBytes 128 x.toNat))

end Sys2Proof.Machine
end

