-- ==== Sys2Proof/Machine/Access.lean ====
section
/-! DEFINITION. Reading and changing the parts of the state by number: cores, contexts, teams, groups, threads; draws of
free values; scheduling. -/

namespace Sys2Proof.Machine

/-- The list with the element at a place changed. -/
def modAt {α : Type} (f : α → α) : Nat → List α → List α
  | _, [] => []
  | 0, x :: l => f x :: l
  | n + 1, x :: l => x :: modAt f n l

/-- The element at a place, `d` beyond the end. -/
def nthD {α : Type} (d : α) : List α → Nat → α
  | [], _ => d
  | x :: _, 0 => x
  | _ :: l, n + 1 => nthD d l n

/-- The elements with their places, the first at `n`. -/
def placed {α : Type} : Nat → List α → List (Nat × α)
  | _, [] => []
  | n, x :: l => (n, x) :: placed (n + 1) l

/-- The elements without repeats, each at its first place. -/
def distinct {α : Type} [DecidableEq α] : List α → List α
  | [] => []
  | x :: l => x :: (distinct l).filter (fun y => y != x)

/-- The list in rising order of `key`, equal keys in the order given. -/
def insertBy {α : Type} (key : α → Nat) (x : α) : List α → List α
  | [] => [x]
  | y :: l => if key x < key y then x :: y :: l else y :: insertBy key x l
def sortBy {α : Type} (key : α → Nat) (l : List α) : List α := l.foldl (fun acc x => insertBy key x acc) []

namespace State

/-- Core `c`. -/
def core (s : State) (c : Nat) : Core := Sp.get Core.reset s.cores c
/-- The state with core `c` changed. -/
def modCore (s : State) (c : Nat) (f : Core → Core) : State :=
  { s with cores := Sp.set Core.reset s.cores c (f (s.core c)) }

/-- The state with every core changed. -/
def mapCores (s : State) (f : Core → Core) : State :=
  { s with cores := (s.cores.map fun (k : Nat × Core) => (k.1, f k.2)).filter fun k => k.2 != Core.reset }

/-- Context `c`. -/
def ctx (s : State) (c : Nat) : Ctx := Sp.get Ctx.reset s.ctxs c
/-- The state with context `c` changed. -/
def modCtx (s : State) (c : Nat) (f : Ctx → Ctx) : State :=
  { s with ctxs := Sp.set Ctx.reset s.ctxs c (f (s.ctx c)) }

/-- Team `n` of the model. -/
def team (s : State) (n : Nat) : Team := nthD Team.none s.teams n
/-- The state with team `n` changed. -/
def modTeam (s : State) (n : Nat) (f : Team → Team) : State := { s with teams := modAt f n s.teams }

/-- Group `g` of team `n`. -/
def group (s : State) (n g : Nat) : Group := nthD Group.none (s.team n).groups g
/-- The state with group `g` of team `n` changed. -/
def modGroup (s : State) (n g : Nat) (f : Group → Group) : State :=
  s.modTeam n (fun m => { m with groups := modAt f g m.groups })

/-- A thread. -/
def thread (s : State) (t : Tid) : Thread := nthD Thread.none (s.group t.team t.grp).threads t.thr
/-- The state with a thread changed. -/
def modThread (s : State) (t : Tid) (f : Thread → Thread) : State :=
  s.modGroup t.team t.grp (fun g => { g with threads := modAt f t.thr g.threads })

/-- Cluster `n`. -/
def cluster (s : State) (n : Nat) : Cluster := nthD Cluster.none s.clusters n
/-- The state with cluster `n` changed. -/
def modCluster (s : State) (n : Nat) (f : Cluster → Cluster) : State := { s with clusters := modAt f n s.clusters }

/-- Grid `n`. -/
def grid (s : State) (n : Nat) : Grid := nthD Grid.none s.grids n
/-- The state with grid `n` changed. -/
def modGrid (s : State) (n : Nat) (f : Grid → Grid) : State := { s with grids := modAt f n s.grids }

/-- The state with what the homes hold changed. -/
def modHome (s : State) (f : Home → Home) : State := { s with home := f s.home }
/-- The state with the host port changed. -/
def modHost (s : State) (f : HostPort → HostPort) : State := { s with host := f s.host }
/-- The state with the fabric changed. -/
def modFab (s : State) (f : Fabric → Fabric) : State := { s with fab := f s.fab }
/-- The state with the management registers changed. -/
def modMgmt (s : State) (f : Mgmt → Mgmt) : State := { s with mgmt := f s.mgmt }
/-- The state with the repair state changed. -/
def modRepair (s : State) (f : Repair → Repair) : State := { s with repair := f s.repair }

/-- The present threads of a team, by group and index. -/
def tids (s : State) (n : Nat) : List Tid :=
  (placed 0 (s.team n).groups).flatMap fun (g, gr) =>
    (placed 0 gr.threads).filterMap fun (i, th) => if th.present then some ⟨n, g, i⟩ else none

/-- The teams resident on a core (09 R211). -/
def residents (s : State) (c : Nat) : List Nat :=
  (placed 0 s.teams).filterMap fun (n, m) => if m.status = .resident ∧ m.core = c then some n else none

/-- The present threads that stand on a core. -/
def coreTids (s : State) (c : Nat) : List Tid := (s.residents c).flatMap s.tids

/-- The lane of a thread (09 R210). -/
def lane (s : State) (t : Tid) : Nat :=
  let m := s.team t.team
  (m.lane0 + m.width * t.grp + t.thr) % 64

/-- Global time in ns (01 R17, 26 R392). -/
def gtime (s : State) : Nat := s.time.sixths / 6

/-- Draws a free number below `n` (log entry 3). -/
def draw (s : State) (n : Nat) : Nat × State := (Config.freeNat s.fresh % n, { s with fresh := s.fresh + 1 })

/-- Draws an identity. -/
def newId (s : State) : Nat × State := (s.nextId, { s with nextId := s.nextId + 1 })

/-- Makes a step due `d` cycles from now. -/
def after (s : State) (d : Nat) (ev : Instr) (arg : EvArg) : State :=
  { s with agenda := s.agenda ++ [⟨s.cycle + d, ev, arg⟩] }

/-- Makes a step due within `n` cycles, after a free delay of at least one (log entry 3). -/
def soon (s : State) (n : Nat) (ev : Instr) (arg : EvArg) : State :=
  let (d, s) := s.draw n
  s.after (1 + d) ev arg

/-- Makes a step due unless it already is. -/
def afterOnce (s : State) (d : Nat) (ev : Instr) (arg : EvArg) : State :=
  if s.agenda.any (fun e => e = ⟨s.cycle + d, ev, arg⟩) then s else s.after d ev arg

end State

end Sys2Proof.Machine

namespace Sys2Proof

/-- The thread a step acts on. -/
def EvArg.tid (a : EvArg) : Tid := ⟨a.team, a.grp, a.thr⟩
/-- The step argument that names a thread. -/
def Tid.arg (t : Tid) : EvArg := { team := t.team, grp := t.grp, thr := t.thr }

end Sys2Proof
end

