-- ==== Sys2Proof/Machine/Home.lean ====
section
/-! DEFINITION. Where bytes are held: home memory with its directory, migration and poison; cluster-private copies; L1
lines; acquires. A physical location is a key, TGT · 2^48 + address (18 R314). -/

namespace Sys2Proof.Machine

/-- A physical location as a walk or the commons gives it (18 R314). -/
structure Phys where
  /-- 0 device, 1 pool, 2 host, 3 peer -/
  tgt : Nat
  peer : Nat
  pa : Nat
  demote : Bool
  deriving DecidableEq, Repr

/-- The key of a location; for device and pool memory its place in `State.mem`. -/
def Phys.key (p : Phys) : Nat := (p.peer * 4 + p.tgt) * 2 ^ 48 + p.pa
/-- The target of a key. -/
def keyTgt (k : Nat) : Nat := k / 2 ^ 48 % 4
/-- The module of a key whose target is a peer. -/
def keyPeer (k : Nat) : Nat := k / 2 ^ 50
/-- The physical address of a key. -/
def keyPa (k : Nat) : Nat := k % 2 ^ 48
/-- The line of a key. -/
def lineOf (k : Nat) : Nat := k / 128
/-- The granule of a key: 256 bytes (08 R182). -/
def granOf (k : Nat) : Nat := k / 256
/-- The compute die of a core (09 R209). -/
def dieOf (c : Nat) : Nat := c / 128
/-- The island of a core (18 R321). -/
def islandOf (c : Nat) : Nat := dieOf c * 4 + (if 4 ≤ c % 128 / 16 then 2 else 0) + (if 8 ≤ c % 16 then 1 else 0)

/-- The core at a cluster-relative index: the cluster's rectangle begins at the core of index 0 (09 R209). A 12 × 1 shape
stands as 1 × 12. -/
def coreAt (rows cols origin i : Nat) : Nat :=
  if rows = 12 then origin + i else origin + 16 * (i / cols) + i % cols

namespace State

/-- The home slice of a location (11 R242); a failed slice's number maps to its substitute (27 R404). -/
def homeSlice (s : State) (key : Nat) : Nat :=
  let h := keyPa key / 128
  let f := (h % 2 ^ 16) ^^^ (h / 2 ^ 16 % 2 ^ 16) ^^^ (h / 2 ^ 32 % 2 ^ 9)
  let home := f % 384
  match s.repair.slices.find? (fun p => p.1 = home) with
  | some p => p.2
  | none => home

/-- The line is poisoned (27 R400). -/
def poisoned (s : State) (line : Nat) : Bool := s.poison.any (fun l => l = line)

/-- Marks a line poisoned (27 R400, R401). -/
def poisonLine (s : State) (line : Nat) : State :=
  if s.poisoned line then s else { s with poison := insertBy id line s.poison }

/-- Who holds the granule (11 R248). -/
def claimOf (s : State) (gran : Nat) : Option Claim := s.home.claims.find? (fun c => c.gran = gran)

/-- The team holds the granule. -/
def holds (s : State) (team gran : Nat) : Bool := s.home.claims.any (fun c => c.gran = gran && c.team = team)

/-! ### The directory and invalidations (11 R246) -/

/-- The region that covers a location. -/
def region? (s : State) (key : Nat) : Option Region :=
  let sl := s.homeSlice key
  s.home.dir.find? (fun r => r.slice = sl && r.addr ≤ key && key < r.addr + r.size)

/-! ### The ways of the L2 slices (00 R1, 11 R243, R244, R249) -/

/-- The set of a slice that a line falls in, of 2,048 (00 R1: 4 MiB in 16 ways of 128-byte lines). -/
def l2Set (line : Nat) : Nat := Config.l2Set line % 2048

/-- A partition's table entry (18 R321). -/
def partEntry (s : State) (p : Nat) : BitVec 128 := BitVec.ofNat 128 (s.mem.le (s.mgmt.partTab.toNat + 16 * p) 16)

/-- LWAYS of a partition (18 R321); 0 where it is not configured. -/
def lways (s : State) (p : Nat) : Nat := ((s.partEntry p).extractLsb' 84 4).toNat

/-- The core lies in an island of the partition (18 R321). -/
def inPart (s : State) (p c : Nat) : Bool := (s.partEntry p).getLsbD (islandOf c)

/-- The configured partition that a core belongs to. -/
def corePart (s : State) (c : Nat) : Option Nat := (List.range 48).find? fun p => s.inPart p c && s.lways p != 0

/-- The ways that a line taking one must have one of free: its partition's in the set where these are at LWAYS (18 R321),
all in the set where they are the 14 beside the two shadow ways (11 R249). -/
def l2Rivals (s : State) (c : Nat) (set : List L2Line) : List L2Line :=
  let mine := match s.corePart c with
    | some p => if (set.filter fun x => s.inPart p x.core).length < s.lways p then [] else set.filter fun x => s.inPart p x.core
    | none => []
  if mine.isEmpty && 14 ≤ set.length then set else mine

/-- Lines that `p` selects leave their ways at the end of the cycle. -/
def leaveWays (s : State) (p : L2Line → Bool) : State :=
  s.modHome fun h => { h with l2 := h.l2.map fun x => if p x then { x with out := true } else x }

/-- A way is made free for a line in its set of a slice: where none is, one leaves at the end of the cycle, a line that is
marked the next to be replaced (07 R155), otherwise one chosen by the implementation. -/
def l2Room (s : State) (c slice line : Nat) : State :=
  let set := s.home.l2.filter fun x => x.slice = slice && !x.out && l2Set x.line = l2Set line
  let rivals := if set.isEmpty then [] else s.l2Rivals c set
  if rivals.isEmpty then s
  else match rivals.find? fun x => x.nt with
    | some v => s.leaveWays fun x => x = v
    | none =>
      let (d, s) := s.draw rivals.length
      match rivals[d]? with
      | some v => s.leaveWays fun x => x = v
      | none => s

/-- A line that a core asks for, or a cluster's private copy of it, takes a way of a slice. -/
def l2Fill (s : State) (c slice line : Nat) (cl : Option Nat) (nt : Bool) : State :=
  if s.home.l2.any fun x => x.slice = slice && x.line = line && x.cl = cl then s
  else (s.l2Room c slice line).modHome fun h => { h with l2 := h.l2 ++ [⟨slice, line, cl, c, none, nt, false⟩] }

/-- A line stands in another slice from now on, in a way of its own there (11 R243). -/
def l2Move (s : State) (line slice : Nat) : State :=
  match s.home.l2.find? fun x => x.line = line && x.cl = none && x.slice != slice with
  | some y => (s.l2Room y.core slice line).modHome fun h => { h with
      l2 := h.l2.map fun x => if x.line = line && x.cl = none then { x with slice := slice } else x }
  | none => s

/-- A line leaves its ways in L2. -/
def l2Drop (s : State) (line : Nat) (cl : Option Nat) : State :=
  if s.home.l2.any fun x => x.line = line && x.cl = cl then
    s.modHome fun h => { h with l2 := h.l2.filter fun x => !(x.line = line && x.cl = cl) }
  else s

/-- A write makes a pool line dirty in its home slice; what the shelf holds is kept until the line is written back (23
R364, 26 R396). -/
def l2Dirty (s : State) (c line : Nat) : State :=
  if keyTgt (line * 128) != 1 then s
  else
    let old := s.mem.line line
    let s : State := if s.home.l2.any fun x => x.line = line && x.cl = none then s else s.l2Fill c (s.homeSlice (line * 128)) line none false
    s.modHome fun h => { h with l2 := h.l2.map fun x =>
      if x.line = line && x.cl = none && x.under.isNone then { x with under := some old } else x }

/-! ### L1 (11 R237 to R241) -/

/-- Sets of a core's L1 (11 R237). -/
def l1Sets (s : State) (c : Nat) : Nat := match (s.core c).split with
  | some (_, _, l) => l * 32
  | none => 64

/-- The set of a line in a core's L1. -/
def l1Set (s : State) (c line : Nat) : Nat := keyPa (line * 128) / 128 % s.l1Sets c

/-- Removes L1 lines; each given line among them sends a drop notice to its home (11 R238). -/
def dropL1 (s : State) (c : Nat) (p : L1Line → Bool) : State :=
  let gone := (s.core c).l1.filter p
  if gone.isEmpty then s
  else
    let s := s.modCore c (fun k => { k with l1 := k.l1.filter (fun x => !p x) })
    gone.foldl (fun s x => if x.given then s.soon 2048 .dropNotice { core := c, addr := x.line } else s) s

/-- Removes the L1 lines that `p` selects from every core. -/
def dropL1All (s : State) (p : L1Line → Bool) : State := s.cores.foldl (fun s k => s.dropL1 k.1 p) s

/-- A fill is installed in this cycle (07 R171). -/
def noteFill (s : State) (l : List Nat) : List Nat := if l.head? = some s.cycle then l else (s.cycle :: l).take 2

/-- Fills a loose line after a load miss: at most 14 loose lines a set, the line at most once in the L1; the victim is the
line marked next to be replaced, otherwise the oldest (07 R155, 11 R237, R238; log entry 12). DESIGN CHOICE (log entry 12):
where the L1 holds the line as a given one of another context, which a miss does not drop, the load fills nothing. -/
def fillLoose (s : State) (c ctx line : Nat) (data : Line) (ro nt : Bool) : State :=
  if (s.core c).l1.any fun x => x.given && x.line = line then s
  else
  let s := s.dropL1 c fun x => x.line = line
  let set := s.l1Set c line
  let loose := (s.core c).l1.filter (fun x => !x.given && s.l1Set c x.line = set)
  let victim := if loose.length < 14 then none
    else match loose.find? (fun x => x.nt) with
      | some x => some x
      | none => (sortBy (fun (x : L1Line) => x.since) loose).head?
  let new : L1Line := ⟨ctx, line, data, false, true, ro, nt, s.cycle⟩
  s.modCore c (fun k => { k with
    l1 := k.l1.filter (fun x => some x != victim) ++ [new], fills := s.noteFill k.fills })

/-- Changes the copy of a line in a core's L1 in place, for the contexts whose stores it takes (11 R237, R238, R241). -/
def updateL1 (s : State) (c : Nat) (ctxs : List Nat) (line : Nat) (f : Line → Line) : State :=
  if (s.core c).l1.any (fun x => x.line = line) then
    s.modCore c (fun k => { k with l1 := k.l1.map (fun x =>
      if x.line = line && ctxs.contains x.ctx then { x with data := f x.data } else x) })
  else s

/-- Each fill of a line that is on its way is followed by an invalidation, which arrives right after it (11 R241). -/
def staleFills (s : State) (line : Nat) : State :=
  if s.home.flights.any fun f => f.line = line then
    s.modHome fun h => { h with flights := h.flights.map fun f => if f.line = line then { f with stale := true } else f }
  else s

/-- Every given copy of a line goes, and every fill of it on its way, but for the writing core's copy of its own contexts
(07 R171, 11 R241). -/
def endGiven (s : State) (writer : Option (Nat × List Nat)) (line : Nat) : State :=
  let keeps := fun (c : Nat) (x : L1Line) => writer.any fun w => w.1 = c && w.2.contains x.ctx
  let holders := s.cores.filter fun k => k.2.l1.any fun x => x.given && x.line = line && !keeps k.1 x
  holders.foldl (fun s k => s.dropL1 k.1 fun x => x.given && x.line = line && !keeps k.1 x) (s.staleFills line)

/-! ### Conflicts and regions (11 R246) -/

/-- A line lies in a region. -/
def inRegion (s : State) (r : Region) (line : Nat) : Bool :=
  r.addr ≤ line * 128 && line * 128 < r.addr + r.size && s.homeSlice (line * 128) = r.slice

/-- A region is evicted (11 R246): the given copies it records are invalidated, fills on their way with them; its private
copies leave their ways as at an eviction, written back if dirty. -/
def evictRegion (s : State) (r : Region) : State :=
  let lines := distinct ((s.cores.flatMap fun k => (k.2.l1.filter fun x => x.given).map fun x => x.line) ++
    s.home.flights.map fun f => f.line)
  let s := (lines.filter (s.inRegion r)).foldl (fun s l => s.endGiven none l) s
  (s.leaveWays fun x => x.cl.isSome && s.inRegion r x.line).modHome fun h => { h with dir := h.dir.filter fun x => x != r }

/-- A slice has room for one more region beside `keep`: with 8,192 of them the one that has been quiet longest is evicted
(11 R246). -/
def regionRoom (s : State) (slice : Nat) (keep : Option Region) : State :=
  let mine := s.home.dir.filter fun r => r.slice = slice
  if mine.length < 8192 then s
  else match (sortBy (fun (r : Region) => r.quiet) (mine.filter fun r => some r != keep)).head? with
    | none => s
    | some old => s.evictRegion old

/-- The given holders of the line's region beside the writing core: a conflict splits the region, and its halves may merge
again (11 R246). -/
def conflict (s : State) (writer : Option Nat) (line : Nat) : State × List Nat :=
  match s.region? (line * 128) with
  | none => (s, [])
  | some r =>
    let others := r.given.filter (fun c => some c != writer)
    if others.isEmpty then (s, [])
    else
      let halves := if r.size ≤ 128 then [{ r with quiet := s.cycle }]
        else [{ r with size := r.size / 2, quiet := s.cycle },
              { r with addr := r.addr + r.size / 2, size := r.size / 2, quiet := s.cycle }]
      let s : State := if r.size ≤ 128 then s else s.regionRoom r.slice (some r)
      let dir := s.home.dir.flatMap (fun x => if x = r then halves else [x])
      let s := (s.modHome fun h => { h with dir := dir })
      (halves.foldl (fun s h => s.after (2 ^ 20) .regionMerge { addr := h.addr, len := h.size, id := h.slice }) s, others)

/-- The directory records a holder of a line: a core with a given copy or a cluster with a private one. A new region covers
64 KiB (11 R246). -/
def recordHolder (s : State) (line : Nat) (core cluster : Option Nat) : State :=
  let add := fun (r : Region) => { r with
    given := distinct (r.given ++ core.toList), privs := distinct (r.privs ++ cluster.toList) }
  match s.region? (line * 128) with
  | some r => s.modHome fun h => { h with dir := h.dir.map fun x => if x = r then add x else x }
  | none =>
    let sl := s.homeSlice (line * 128)
    (s.regionRoom sl none).modHome fun h => { h with dir := h.dir ++ [add ⟨sl, line * 128 / 65536 * 65536, 65536, [], [], s.cycle⟩] }

/-- The bytes laid over a line, in order; an address names its place by its low 7 bits. -/
def overlay (bytes : List (Nat × Byte)) (x : Line) : Line := bytes.foldl (fun x b => setLineByte x (b.1 % 128) b.2) x

/-- The bytes cover all 128 bytes of a line. -/
def coversLine (bytes : List (Nat × Byte)) : Bool :=
  (List.range 128).all (fun i => bytes.any (fun b => b.1 % 128 = i))

/-! ### The partition table (18 R321) -/

/-- The partition is configured. -/
def partConfigured (s : State) (p : Nat) : Bool := s.lways p != 0

/-- A team of a context of the partition is resident or saved. -/
def partBusy (s : State) (p : Nat) : Bool :=
  s.teams.any fun m => (m.status = .resident || m.status = .saved) && (s.ctx m.ctx).part = p

/-- The entry would give an island to two configured partitions. -/
def islandTwice (s : State) (p : Nat) (e : BitVec 128) : Bool :=
  e.extractLsb' 84 4 != 0 && (List.range 48).any fun q => q != p && s.partConfigured q &&
    (s.partEntry q).extractLsb' 0 48 &&& e.extractLsb' 0 48 != 0

/-- The partition whose entry holds an address. -/
def partAt (s : State) (a : Nat) : Option Nat :=
  let t := s.mgmt.partTab.toNat
  if t ≤ a && a < t + 768 then some ((a - t) / 16) else none

/-- A change of a partition entry that is ignored: the partition is busy, or an island would have two owners. -/
def partRefused (s : State) (bytes : List (Nat × Byte)) (p : Nat) : Bool :=
  let m := s.mem.putAll (bytes.filter fun b => s.partAt b.1 = some p)
  let new := BitVec.ofNat 128 (m.le (s.mgmt.partTab.toNat + 16 * p) 16)
  new != s.partEntry p && (s.partBusy p || s.islandTwice p new)

/-- The bytes of a write that take effect. -/
def permitted (s : State) (bytes : List (Nat × Byte)) : List (Nat × Byte) :=
  let no := (distinct (bytes.filterMap fun b => s.partAt b.1)).filter (s.partRefused bytes)
  if no.isEmpty then bytes
  else bytes.filter fun b => match s.partAt b.1 with
    | some p => !no.contains p
    | none => true

/-- A write to the first line of an enabled context's record takes effect within 1 µs (18 R310). -/
def noteLive (s : State) (line : Nat) : State :=
  let a := line * 128
  let t := s.mgmt.ctxTable.toNat
  let c := (a - t) / 256
  if t ≤ a && (a - t) % 256 = 0 && c < 4096 && (s.ctx c).en then s.soon 3000 .liveFieldTakesEffect { ctx := c } else s

/-- One write at the home of a line, performed once no other core holds a given copy of it (07 R171, 11 R241, R246, 27
R400); `writer` is the storing core with the contexts of its stores. A write of the whole line clears its poison mark
(DEDUCED, log entry 85). A change of a partition entry that the module refuses is an error. -/
def homeWrite (s : State) (writer : Option (Nat × List Nat)) (line : Nat) (bytes : List (Nat × Byte)) : State :=
  let kept := s.permitted bytes
  let s : State := if kept.length < bytes.length then s.modMgmt fun m => { m with mgmtErr := m.mgmtErr + 1 } else s
  let s := (s.endGiven writer line).l2Dirty (writer.elim 0 fun w => w.1) line
  let s := { s with mem := s.mem.putAll kept }
  let s : State := if coversLine bytes then { s with poison := s.poison.filter (fun l => l != line) } else s
  let s := s.modHome fun h => { h with runs := h.runs.map fun r =>
    if r.back ≤ line * 128 && line * 128 < r.back + r.pages * 65536 && !r.written.contains line
      then { r with written := r.written ++ [line] } else r }
  let s : State := match writer with
    | some w => s.updateL1 w.1 w.2 line (overlay kept)
    | none => s
  s.noteLive line

/-- A write at the home of a line that no core of the module makes, a conflict where given holders are recorded (11 R246). -/
def lineWrite (s : State) (line : Nat) (bytes : List (Nat × Byte)) : State := (s.conflict none line).1.homeWrite none line bytes

/-- A write by the module or another agent that no thread awaits, line by line. DESIGN CHOICE (log entry 97): a word that the
module itself writes (a STATUS, a log, a table of its own) is not refused while a write of its line is in progress. -/
def deviceWrite (s : State) (key : Nat) (bytes : List Byte) : State :=
  let l := bytesAt key bytes
  (distinct (l.map fun b => lineOf b.1)).foldl (fun s n => s.lineWrite n (l.filter fun b => lineOf b.1 = n)) s

/-- The 128-byte parts of a range: address and length. -/
def lineParts (a : Nat) : Nat → Nat → List (Nat × Nat)
  | 0, _ => []
  | fuel + 1, n => if n = 0 then [] else
    let k := min n (128 - a % 128)
    (a, k) :: lineParts (a + k) fuel (n - k)

/-- The lines that lie wholly in `n` bytes at a location lose their poison marks: other lines are written over them (27 R400). -/
def unpoison (s : State) (key n : Nat) : State :=
  if s.poison.isEmpty then s
  else { s with poison := s.poison.filter fun l => !(key ≤ l * 128 && l * 128 + 128 ≤ key + n) }

/-! ### Migration (11 R243): timing only -/

/-- The slice of a die nearest a point of its mesh, given by twice its row and twice its column; the lower of equals, that has not
failed (27 R404). -/
def nearestSlice (s : State) (die y x : Nat) : Nat :=
  let sound := (List.range 32).filter fun i => !(s.repair.slices.any fun p => p.1 = die * 32 + i)
  die * 32 + (sound.foldl (fun best i =>
    if Config.sliceDist i y x < Config.sliceDist best y x then i else best) (sound.headD 0))

/-- The slice nearest the centre of a rectangle whose core of index 0 is given (11 R244). -/
def nearRect (s : State) (rows cols origin : Nat) : Nat :=
  let (r, c) := if rows = 12 then (1, 12) else (rows, cols)
  s.nearestSlice (dieOf origin) (2 * (origin % 128 / 16) + r - 1) (2 * (origin % 16) + c - 1)

/-- The slice nearest a core on its die (11 R243). -/
def nearCore (s : State) (c : Nat) : Nat := s.nearestSlice (dieOf c) (2 * (c % 128 / 16)) (2 * (c % 16))

/-- Where a line stands: the slice it has moved to, or its home. -/
def sliceOf (s : State) (line : Nat) : Nat :=
  match s.home.fwd.find? (fun f => f.line = line && f.moved.isSome) with
  | some f => f.moved.getD 0
  | none => s.homeSlice (line * 128)

/-- A request of a core for a line reaches the line's home: it is counted, and the line takes its way in L2. The slice that
a line moves to is the one nearest the core of the 32nd request. -/
def touchHome (s : State) (c line : Nat) (nt : Bool) : State :=
  let die := dieOf c
  let home := s.homeSlice (line * 128)
  let s :=
    if home / 32 = die then (s.modHome fun h => { h with fwd := s.home.fwd.filter (fun f => f.line != line || f.moved.isSome) })
    else
      match s.home.fwd.find? (fun f => f.line = line) with
      | none => (s.modHome fun h => { h with fwd := s.home.fwd ++ [⟨line, die, 1, none, s.cycle⟩] })
      | some f =>
        let n := if f.die = die then f.count + 1 else 1
        let f' : Forward := if f.moved.isNone ∧ 32 ≤ n then
            { f with die := die, count := 0, moved := some (s.nearCore c), since := s.cycle }
          else { f with die := die, count := n }
        (s.modHome fun h => { h with fwd := s.home.fwd.map (fun x => if x = f then f' else x) })
  let moved := s.home.fwd.filter (fun f => f.moved.isSome && s.homeSlice (f.line * 128) = home)
  let s : State := if moved.length ≤ 4096 then s
    else
      let old := (sortBy (fun (f : Forward) => f.since) moved).head?
      (s.modHome fun h => { h with fwd := s.home.fwd.filter (fun f => some f != old) })
  (s.l2Move line (s.sliceOf line)).l2Fill c (s.sliceOf line) line none nt

/-! ### Cluster-private copies (11 R244, R245) -/

/-- The private copy of a line in a cluster. -/
def priv? (s : State) (cl line : Nat) : Option PrivCopy := (s.cluster cl).privs.find? (fun p => p.line = line)

/-- A line as a cluster's accesses below L1 see it: its private copy or the home (11 R244). -/
def slotLine (s : State) (cl line : Nat) : Line := match s.priv? cl line with
  | some p => p.data
  | none => s.mem.line line

/-- Changes a private copy's bytes and makes it dirty. -/
def privWrite (s : State) (cl line : Nat) (bytes : List (Nat × Byte)) : State :=
  s.modCluster cl (fun k => { k with privs := k.privs.map (fun p =>
    if p.line = line then { p with data := overlay bytes p.data, dirty := true } else p) })

/-- The bytes of a whole line with their keys. -/
def lineBytes (line : Nat) (x : Line) : List (Nat × Byte) := bytesAt (line * 128) (leBytes 128 x.toNat)

/-- Removes a private copy without writing it back. -/
def privDrop (s : State) (cl line : Nat) : State :=
  (s.modCluster cl (fun k => { k with privs := k.privs.filter (fun p => p.line != line) })).l2Drop line (some cl)

/-! ### Requests at a home (11 R247) -/

/-- The back-off of a refused request after `n` refusals (11 R247): 32, 64 … 2,048 cycles. -/
def backOffOf (n : Nat) : Nat := min 2048 (32 * 2 ^ (n - 1))

/-- A request that its home refuses (11 R247): its back-off 32, 64 … 2,048 cycles, after which the step `ev` makes it again; the
16th refusal asks for a place in the line's reservation queue of four. What is refused in one cycle is one request. -/
def refuseTo (s : State) (who : Asker) (line : Nat) (ev : Instr) (arg : EvArg) : State :=
  let old := (s.home.refused.find? (fun r => r.who = who && r.line = line)).getD ⟨who, line, 0, s.cycle, s.cycle, false⟩
  let n := if old.last = s.cycle && old.count != 0 then old.count - 1 else old.count
  let queued := (s.home.refused.filter (fun r => r.line = line && r.reserved)).length
  let rest := s.home.refused.filter (fun r => !(r.who = who && r.line = line))
  let new := { old with count := n + 1, last := s.cycle, reserved := old.reserved || (16 ≤ n + 1 && queued < 4) }
  (s.modHome fun h => { h with refused := rest ++ [new] }).after (backOffOf (n + 1)) ev arg

/-- A refused request of a thread, a store buffer or a copy engine of a core. -/
def refuse (s : State) (who : Asker) (c line : Nat) (again : EvArg) : State :=
  s.refuseTo who line .homeRetry { again with core := c, addr := line }

/-- The head of a line's reservation queue is another request (11 R247). -/
def reservedFor (s : State) (who : Asker) (line : Nat) : Bool :=
  match (sortBy (fun (r : Refused) => r.since) (s.home.refused.filter (fun r => r.line = line && r.reserved))).head? with
  | some r => r.who != who
  | none => false

/-- The home has another request's write of the line in progress (11 R247). -/
def lineBusy (s : State) (who : Asker) (line : Nat) : Bool := s.home.txns.any fun x => x.line = line && x.who != who

/-- The home refuses the request (11 R247). -/
def lineTaken (s : State) (who : Asker) (line : Nat) : Bool := s.lineBusy who line || s.reservedFor who line

/-- The request has been refused and its back-off lasts (11 R247). -/
def backingOff (s : State) (who : Asker) (line : Nat) : Bool :=
  s.home.refused.any fun r => r.who = who && r.line = line && r.last < s.cycle && s.cycle < r.last + backOffOf r.count

/-- A request is granted: its refusals are forgotten. -/
def granted (s : State) (who : Asker) (line : Nat) : State :=
  (s.modHome fun h => { h with refused := s.home.refused.filter (fun r => !(r.who = who && r.line = line)) })

/-- Sends a message of a home for a line to a core: it arrives within 4,096 cycles, after those sent before it (11 R241). -/
def sendLineMsg (s : State) (c line : Nat) (ev : Instr) (id : Nat) : State :=
  let (d, s) := s.draw 4096
  let last := s.agenda.foldl (fun m x =>
    if (x.ev = .givenFill || x.ev = .lineInvalidation) && x.arg.core = c && x.arg.addr = line then max m x.at_ else m) 0
  s.after (max (1 + d) (last - s.cycle)) ev { core := c, addr := line, id := id }

/-! ### Acquires (07 R177) -/

/-- The acquire of a scope by a thread: 1 group, 2 team, 3 cluster, 4 device, 5 system. -/
def acquire (s : State) (t : Tid) (scope : Nat) : State :=
  if scope ≤ 1 then s
  else
    let m := s.team t.team
    let s := s.dropL1 m.core (fun x => !x.given && !x.ro && x.ctx = m.ctx)
    if scope ≤ 3 then s
    else s.modCluster m.cluster (fun k => { k with privs := k.privs.filter (fun p => p.dirty) })

end State

end Sys2Proof.Machine
end

