-- ==== Sys2Proof/Machine/Ops.lean ====
section
/-! DEFINITION. The named operations on threads: registers by name, results under way, the issue table, completing a
bundle, regions, taking a trap by its three deliveries, returning from a handler, and the schemes by which an issue
group executes a bundle. -/

namespace Sys2Proof.Machine

/-! ### Registers by name -/

/-- The physical register a name selects (01 R5). -/
def physOf (base n : Nat) : Nat := if n < 16 then n else base + n - 16

/-- A bit vector with only bit `i` set. -/
def bit64 (i : Nat) : DWord := 1#64 <<< i

/-- The present threads of a group as a mask, the first at bit `n`. -/
def presentFrom : Nat → List Thread → DWord
  | _, [] => 0
  | n, x :: l => (if x.present then bit64 n else 0) ||| presentFrom (n + 1) l

/-- Mask k0: the present threads (01 R11). -/
def Group.present (g : Group) : DWord := presentFrom 0 g.threads

/-- A mask register: an exited thread reads 0 in every mask (01 R11). -/
def Group.mask (g : Group) (n : Nat) : DWord :=
  if n = 0 then g.present else Sp.get (0 : DWord) g.k n &&& g.present

/-- A uniform register; s0 is never written and reads 0 (01 R4). -/
def Group.sreg (g : Group) (n : Nat) : Word := Sp.get (0 : Word) g.s n

/-- A uniform pair, low word first (01 R7). -/
def Group.spair (g : Group) (n : Nat) : DWord := g.sreg (n + 1) ++ g.sreg n

/-- A vector register by name; physical register 0 is never written and reads 0 (01 R4, R5). -/
def Thread.vreg (x : Thread) (n : Nat) : Word := Sp.get (0 : Word) x.v (physOf x.base n)

/-- A vector pair, each name mapped separately (01 R6). -/
def Thread.vpair (x : Thread) (n : Nat) : DWord := x.vreg (n + 1) ++ x.vreg n

/-- A vector quad (01 R6). -/
def Thread.vquad (x : Thread) (n : Nat) : Quad := x.vpair (n + 2) ++ x.vpair n

/-- An address register; a0 is never written and reads null (01 R10). -/
def Thread.areg (x : Thread) (n : Nat) : AReg := Sp.get AReg.zero x.a n

/-- A wait at which a thread of a team that is to be saved stops (19 R329). -/
def Wait.stops : Wait → Bool
  | .sleep _ | .yield _ | .backoff _ | .barrier _ _ | .gate _ _ | .job _ | .taskEnd | .claim _ => true
  | .copyRoom | .sfRoom _ | .jobRoom | .tableRoom | .storeRoom _ | .turn _ => true
  | _ => false

/-- A wait in which a thread has yet to act at its bundle, having neither trapped there nor done its part (08 R181). -/
def Wait.acts : Wait → Bool
  | .none | .sleep _ | .yield _ | .backoff _ | .request _ | .queued _ _ | .barrier _ _ | .gate _ _ | .job _ | .taskEnd => false
  | _ => true

/-- What a thread noted of the request it has sent (23 R358, R368) stays while it awaits the answer, or the object that the
answer names (07 R164). -/
def Wait.noted (w : Wait) (x : Option Sent) : Option Sent := match w with
  | .answer _ _ _ | .object _ true => x
  | _ => Option.none

/-! ### Results under way (04 R82 to R87) -/

/-- Writes a register of the group; v0, s0, k0 and a0 discard (01 R4). -/
def Group.put (g : Group) : Dst → Group
  | .v i p x => if p = 0 then g
    else { g with threads := modAt (fun y => { y with v := Sp.set (0 : Word) y.v p x }) i g.threads }
  | .a i n x => if n = 0 then g
    else { g with threads := modAt (fun y => { y with a := Sp.set AReg.zero y.a n x }) i g.threads }
  | .s n x => if n = 0 then g else { g with s := Sp.set (0 : Word) g.s n x }
  | .k n bits x => if n = 0 then g
    else { g with k := Sp.set (0 : DWord) g.k n ((Sp.get (0 : DWord) g.k n &&& ~~~bits) ||| (x &&& bits)) }

/-- Two destinations are one register. -/
def Dst.same : Dst → Dst → Bool
  | .v i p _, .v j q _ => i = j && p = q
  | .a i n _, .a j m _ => i = j && n = m
  | .s n _, .s m _ => n = m
  | .k n _ _, .k m _ _ => n = m
  | _, _ => false

/-- What is left of a fixed-latency write when a write issued later lands earlier (04 R84): nothing, or the other
positions of a mask. One that has landed early (R87) stays for the check of R86. DESIGN CHOICE (log entry 70): the spec
speaks of two fixed-latency writes; a result of variable latency, the zero of R74 and a special-function result outrun a
fixed-latency write issued before them in the same way, with `due` 0, so that what remains does not depend on when they
land (06 R149); such an outrun write stays for the check of R86, whose outcome does not depend on it either. -/
def Pend.outrun (new : Dst) (due : Nat) (e : Pend) : Option Pend :=
  match e.due with
  | none => some e
  | some w =>
    if w ≤ due || e.landed || !e.dst.same new then some e
    else match e.dst, new with
      | .k n bits x, .k _ b _ =>
        let rest := bits &&& ~~~b
        if rest != 0 then some { e with dst := .k n rest x } else if due = 0 then some { e with landed := true } else none
      | _, _ => if due = 0 then some { e with landed := true } else none

/-- Writes the results that `p` selects and that have not landed, in issue order. -/
def Group.putWhere (g : Group) (p : Pend → Bool) : Group :=
  (g.pend.filter fun e => p e && !e.landed).foldl (fun g e => g.put e.dst) g

/-- A variable-latency result lands (04 R85); a fixed-latency write of its register issued before it is discarded. -/
def Group.landResult (g : Group) (id : Nat) : Group :=
  let mine := g.pend.filter fun e => e.due.isNone && e.id = id
  let rest := g.pend.filter fun e => !(e.due.isNone && e.id = id)
  { g.putWhere fun e => e.due.isNone && e.id = id with
    pend := mine.foldl (fun l e => l.filterMap (Pend.outrun e.dst 0)) rest }

/-- A special-function result lands (06 R148); a fixed-latency write of its register issued before it is discarded. -/
def Group.landSfResult (g : Group) (d : Dst) : Group :=
  { g.put d with pend := g.pend.filterMap (Pend.outrun d 0) }

/-- What is kept of a result that lands before its time for one of the threads it is for (04 R87): a fixed-latency one
that other threads of the group share is still checked for them (R86). -/
def Pend.without (i : Nat) (e : Pend) : Option Pend :=
  let rest := e.own.filter fun k => k != i
  if !e.own.contains i then some e
  else if e.due.isNone || rest.isEmpty then none
  else some { e with landed := true, own := rest }

/-- Lands every result that is for a thread, in issue order. -/
def Group.landFor (g : Group) (i : Nat) : Group :=
  { g.putWhere fun e => e.own.contains i with pend := g.pend.filterMap (Pend.without i) }

/-- Every result of a group that has not landed does, in issue order. -/
def Group.landRest (g : Group) : Group := { g.putWhere fun _ => true with pend := [] }

namespace State

/-- The context of a team. -/
def ctxOf (s : State) (t : Tid) : Ctx := s.ctx (s.team t.team).ctx
/-- The core a thread stands on. -/
def coreNum (s : State) (t : Tid) : Nat := (s.team t.team).core
/-- The group of a thread. -/
def groupOf (s : State) (t : Tid) : Group := s.group t.team t.grp

/-- A fixed-latency result of a bundle issued now (04 R82, R84). -/
def fixed (s : State) (t : Tid) (own : List Nat) (d : Dst) (lat : Nat) : State :=
  let due := s.cycle + lat
  let s := s.modGroup t.team t.grp fun g =>
    { g with pend := g.pend.filterMap (Pend.outrun d due) ++ [⟨d, some due, 0, own, false⟩] }
  s.afterOnce lat .fixedLatencyResult { team := t.team, grp := t.grp, len := due }

/-- A thread's own fixed-latency result. -/
def fixedOwn (s : State) (t : Tid) (d : Dst) (lat : Nat) : State := s.fixed t [t.thr] d lat

/-- A variable-latency result whose value is known now and lands after a delay (04 R85). -/
def later (s : State) (t : Tid) (own : List Nat) (ds : List Dst) (delay : Nat) : State :=
  let (id, s) := s.newId
  let s := s.modGroup t.team t.grp fun g => { g with pend := g.pend ++ ds.map (fun d => ⟨d, none, id, own, false⟩) }
  s.after delay .variableLatencyResult { team := t.team, grp := t.grp, id := id }

/-- Memory results land after a free delay (log entry 3). -/
def landLater (s : State) (t : Tid) (own : List Nat) (ds : List Dst) : State :=
  let (d, s) := s.draw (2 ^ 20)
  s.later t own ds (1 + d)

/-- The destination of a vector name of a thread (01 R5, 05 R120). -/
def vdst (s : State) (t : Tid) (n : Nat) (x : Word) : Dst := .v t.thr (physOf (s.thread t).base n) x

/-- The destinations of a pair. -/
def vdst2 (s : State) (t : Tid) (n : Nat) (x : DWord) : List Dst :=
  [s.vdst t n (x.extractLsb' 0 32), s.vdst t (n + 1) (x.extractLsb' 32 32)]

/-- The destinations of a quad. -/
def vdst4 (s : State) (t : Tid) (n : Nat) (x : Quad) : List Dst :=
  s.vdst2 t n (x.extractLsb' 0 64) ++ s.vdst2 t (n + 2) (x.extractLsb' 64 64)

/-- Every result a thread has under way lands (04 R87, 10 R221). -/
def landAll (s : State) (t : Tid) : State :=
  s.modGroup t.team t.grp fun g => g.landFor t.thr

/-! ### The issue table (09 R212) -/

/-- The number of the entry a thread joins at its program counter, and whether the entry is a new keyed one. -/
def entryFor (s : State) (t : Tid) : Nat × Bool :=
  let m := s.team t.team
  let pc := (s.thread t).pc
  let c := s.core m.core
  match c.entries.find? (fun e => e.pc = pc && e.ctx = m.ctx) with
  | some e => (e.num, false)
  | none =>
    if (s.coreTids m.core).any (fun u => u != t && (s.thread u).entry = 255 && (s.thread u).pc = pc &&
        (s.team u.team).ctx = m.ctx) then (255, false)
    else match (List.range 255).find? (fun n => !c.entries.any (fun e => e.num = n)) with
      | some n => (n, true)
      | none => (255, false)

/-- A thread joins the entry of its program counter, with a stamp, while its team is resident. One whose stamp is the
next cycle's joins at the end of this cycle, once the entries that are left have become free. -/
def join (s : State) (t : Tid) (stamp : Nat) : State :=
  let m := s.team t.team
  if m.status != .resident then s
  else if s.cycle < stamp then s.modThread t fun x => { x with entry := 256, stamp := stamp }
  else
    let (n, new) := s.entryFor t
    let s : State := if new then s.modCore m.core (fun c => { c with entries := c.entries ++ [⟨n, (s.thread t).pc, m.ctx⟩] })
      else s
    s.modThread t (fun x => { x with entry := n, stamp := stamp })

/-- Landed results that no later check of CHKSB can meet are forgotten (04 R86). -/
def prunePend (s : State) (n g : Nat) : State :=
  s.modGroup n g fun gr => { gr with pend := gr.pend.filter fun e =>
    match e.due with
    | none => true
    | some w => s.cycle < w || e.own.any (fun i =>
        let x := nthD Thread.none gr.threads i
        x.present && x.since < w) }

/-- A thread's bundle has completed; the thread goes on at `next`; `ends` where PACE coverage ends (04 R80). DESIGN CHOICE
(log entry 87): of a bundle that waited after it first issued, t of R81 is the cycle of the re-issue that completes it. -/
def retire (s : State) (t : Tid) (next : DWord) (ends : Bool) : State :=
  let s := s.modThread t fun x =>
    { x with pc := next, pace := if ends then [] else x.pace.tail, since := s.cycle + 1, wait := .none, reply := .none,
             sent := none, got := [] }
  (s.prunePend t.team t.grp).join t (s.cycle + 1)

/-! ### Waiting and stopping (09 R213, 19 R329) -/

/-- Every present thread of the team may have stopped: the save looks (19 R330). -/
def lookSave (s : State) (n : Nat) : State :=
  if (s.team n).request.isSome then s.afterOnce 1 .teamSave { team := n } else s

/-- A thread begins to wait; under a pre-emption request it may stop there (19 R329). -/
def setWait (s : State) (t : Tid) (w : Wait) : State :=
  if (s.team t.team).request.isSome && w.stops then
    (s.modThread t fun x => { x with wait := w, stop := some .wait, reply := .none, sent := none }).lookSave t.team
  else s.modThread t fun x => { x with wait := w, reply := .none, sent := w.noted x.sent }

/-! ### Regions (10 R222) -/

/-- A region begins at `entry`; RGNCNT counts it. -/
def beginRegion (s : State) (t : Tid) (entry : DWord) : State :=
  s.modThread t fun x => { x with region := entry, rgncnt := x.rgncnt + 1 }

/-! ### Special-function results (06 R149, R153) -/

/-- Every special-function result of a thread lands. -/
def landSf (s : State) (t : Tid) : State :=
  let c := s.coreNum t
  let mine := (s.core c).sfq.filter (fun e => e.t = t)
  if mine.isEmpty then s
  else
    let s := mine.foldl (fun s e => s.modGroup t.team t.grp (fun g => g.put (.v t.thr e.phys e.val))) s
    let s := s.modCore c (fun k => { k with sfq := k.sfq.filter (fun e => e.t != t) })
    s.modThread t fun x => { x with tokens := x.tokens.map (fun k => { k with landed := true }) }

/-- What precedes a trap's delivery (10 R221): results land, tokens become free, PACE ends. -/
def quiesce (s : State) (t : Tid) : State :=
  let s := (s.landAll t).landSf t
  s.modThread t fun x => { x with tokens := [], pace := [], since := s.cycle, reply := .none, sent := none, got := [] }

end State

/-! ### Taking a trap (10 R225) -/

/-- The cause codes (10 R231). -/
def Cause.code : Cause → Nat
  | .illegalOpcode => 0x01
  | .reservedField => 0x02
  | .emulate => 0x03
  | .undersizedStall => 0x04
  | .pendingRead => 0x05
  | .windowRange => 0x06
  | .misaligned => 0x07
  | .translation => 0x08
  | .accessViolation => 0x09
  | .beyondObject => 0x0A
  | .tetherMiss => 0x0B
  | .brandUnknown => 0x0C
  | .dataPoison => 0x0D
  | .foldMisuse => 0x0E
  | .convergence => 0x0F
  | .software => 0x10
  | .breakpoint => 0x11
  | .watchdog => 0x12
  | .linkLost => 0x13
  | .leaseLapsed => 0x14
  | .hostAtomicUnsupported => 0x15
  | .privilege => 0x16
  | .cardInvalid => 0x17
  | .troughRange => 0x18
  | .descInvalid => 0x19
  | .tokenMisuse => 0x1A
  | .gateMisuse => 0x1B
  | .emitOverflow => 0x1C
  | .deliveryCode => 0x1E

/-- The causes delivered as page requests (10 R231). -/
def Cause.isPage : Cause → Bool
  | .translation | .tetherMiss => true
  | _ => false

/-- A trap that is no page request: its cause and TRAPADDR. -/
def Request.of (c : Cause) (addr : DWord) : Request := ⟨c, addr, .load, 0, 0⟩

/-- A number built of fields, each with its lowest bit. -/
def fields (l : List (Nat × Nat)) : Nat := l.foldl (fun n f => n + f.2 * 2 ^ f.1) 0

namespace State

/-- Sends MSI-X vector `v` (23 R357). -/
def sendMsix (s : State) (v : Nat) : State := s.modHost fun h => { h with msix := v :: h.msix }

/-- The record of a system report (10 R414). -/
def reportRecord (s : State) (t : Tid) (c : Cause) (addr : DWord) : List Byte :=
  let m := s.team t.team
  let x := s.thread t
  leBytes 64 (fields [(448, x.pc.toNat), (384, x.region.toNat), (320, addr.toNat), (256, s.mgmt.srN.toNat),
    (192, s.gtime), (160, m.idTeam.toNat), (140, m.handle.toNat), (128, m.ctx), (112, m.core), (106, t.grp),
    (100, t.thr), (64, c.code), (0, m.record.toNat)])

/-- The handler entry of class H (10 R225): the trap registers are written, the thread enters system mode at the
handler base. -/
def enterHandler (s : State) (t : Tid) (c : Cause) (addr : DWord) : State :=
  let h := (s.ctxOf t).hbase
  let s := s.modThread t fun x =>
    { x with trapCause := BitVec.ofNat 32 c.code, trapPc := x.pc, trapRgn := x.region, trapAddr := addr, sys := true,
             pc := h, wait := .none }
  s.join t (s.cycle + 1)

/-- A thread without a permit backs off (10 R228): 256 cycles, doubling up to 16,384. `again` delivers a report without
issuing a bundle: DESIGN CHOICE (log entry 94), because WATCHDOG has none that trapped. -/
def backOff (s : State) (t : Tid) (again : Bool) : State :=
  let d := (s.thread t).backoff
  let s := (s.modThread t fun x => { x with backoff := min 16384 (2 * d) }).setWait t (.backoff (s.cycle + d))
  s.after d .permitBackoffExpiry { t.arg with ok := again, len := s.cycle + d }

/-- The system report of class S (10 R225, R228, R414): with a permit, the record is written, the permit comes back and
the team is halted. -/
def report (s : State) (t : Tid) (c : Cause) (addr : DWord) : State :=
  if (s.core (s.coreNum t)).permits = 0 then s.backOff t (c = .watchdog)
  else
    let rec_ := s.reportRecord t c addr
    let s := s.deviceWrite (s.mgmt.srRing.toNat + 64 * (s.mgmt.srN.toNat % 1024)) rec_
    let s := (s.modMgmt fun m => { m with srN := m.srN + 1 }).sendMsix 1
    let s := s.modThread t fun x => { x with backoff := 256, wait := .none, reported := true }
    s.modTeam t.team fun m => { m with halted := true }

/-- The delivery of a cause under H, or as a report where the handler base is 0 or the thread is in system mode. -/
def deliver (s : State) (t : Tid) (c : Cause) (addr : DWord) : State :=
  if c = .watchdog ∨ (s.ctxOf t).hbase = 0 ∨ (s.thread t).sys = true then s.report t c addr
  else s.enterHandler t c addr

/-- The page request of class P (10 R228, R229): with a permit, the request is on its way to the queue. -/
def pageRequest (s : State) (t : Tid) (r : Request) : State :=
  let c := s.coreNum t
  if (s.core c).permits = 0 then s.backOff t false
  else
    let s := s.modCore c fun k => { k with permits := k.permits - 1 }
    let s := s.modThread t fun x => { x with backoff := 256, wait := .request r }
    s.soon 2046 .pageRequestArrival { t.arg with core := c }

/-- A thread takes a trap (10 R221, R225): its results land, its tokens free, its PACE counts end, and the cause is
delivered. -/
def takeTrap (s : State) (t : Tid) (r : Request) : State :=
  let s := s.quiesce t
  if r.cause.isPage then s.pageRequest t r else s.deliver t r.cause r.addr

/-- The thread starts again at its region entry (10 R223). -/
def restartRegion (s : State) (t : Tid) : State :=
  let s := s.landAll t
  let s := s.modThread t fun x =>
    { x with pc := x.region, pace := [], since := s.cycle, wait := .none, reply := .none, sent := none, got := [],
             reported := false }
  s.join t (s.cycle + 1)

/-- The return from a handler (08 R205, 10 R226): user mode at TRAPRGN; results in flight have landed (04 R87). -/
def returnFromHandler (s : State) (t : Tid) : State :=
  let s := s.landAll t
  let s := s.modThread t fun x =>
    { x with sys := false, pc := x.trapRgn, pace := [], since := s.cycle + 1, wait := .none, reply := .none,
             sent := none, got := [] }
  s.join t (s.cycle + 1)

end State

/-! ### How an issue group executes a bundle -/

/-- What one thread's share of a bundle comes to. -/
inductive Res where
  /-- it completes and goes on with the following word -/
  | done (s : State)
  /-- it completes and goes on elsewhere -/
  | jump (s : State) (pc : DWord)
  /-- the state is the thread's as it stands: it has left its bundle by other means -/
  | away (s : State)
  /-- it is not ready; the bundle issues again once the wait is over -/
  | hold (s : State) (w : Wait)
  /-- it traps, precise before the bundle; `s` holds what the check itself left (a fault-log entry, a register
  re-tethered) -/
  | trap (s : State) (r : Request)

namespace State

/-- A trap with a cause that is no page request. -/
def fail (s : State) (c : Cause) (addr : DWord) : Res := .trap s (Request.of c addr)

/-- The register code of TRAPADDR (04 R86). -/
def regCode : Reg → DWord
  | .v n => BitVec.ofNat 64 n
  | .s n => BitVec.ofNat 64 (0x100 + n)
  | .k n => BitVec.ofNat 64 (0x200 + n)
  | .a n => BitVec.ofNat 64 (0x300 + n)

/-- A result under way is one of the register as the thread names it. -/
def writesReg (s : State) (t : Tid) (r : Reg) (e : Pend) : Bool :=
  match r, e.dst with
  | .v n, .v i p _ => i = t.thr && p = physOf (s.thread t).base n && p != 0
  | .a n, .a i m _ => i = t.thr && m = n && n != 0
  | .s n, .s m _ => m = n && n != 0
  | .k n, .k m _ _ => m = n && n != 0
  | _, _ => false

/-- The earliest cycle in which the thread's next bundle may issue (04 R81). -/
def earliest (s : State) (t : Tid) : Nat := (s.thread t).since + (s.thread t).pace.headD 0

/-- The register that makes the bundle trap UNDERSIZED_STALL under CHKSB (04 R86). DESIGN CHOICE (log entry 71): where
several sources are undersized, TRAPADDR names the first of a, b, the fourth operand or d, and the governing mask last; a
participant of RFL or RDL is checked for its own va though another thread's is read (05 R109). -/
def undersized (s : State) (t : Tid) (i : Instr) : Option Reg :=
  if (s.ctxOf t).chksb then
    i.reads.find? fun r => (s.groupOf t).pend.any fun e =>
      e.own.contains t.thr && s.writesReg t r e && (match e.due with
        | some w => s.earliest t < w
        | none => false)
  else none

/-- The register bound to a pending token that the bundle reads or writes (06 R149). DESIGN CHOICE (log entry 72): naming
v0, which discards, never traps, though a pending token may have v0 as its destination. -/
def pendingReg (s : State) (t : Tid) (i : Instr) : Option Reg :=
  let x := s.thread t
  if x.tokens.isEmpty then none
  else (i.reads ++ i.writes).find? fun r => match r with
    | .v n => physOf x.base n != 0 && x.tokens.any (fun k => k.phys = physOf x.base n)
    | _ => false

/-- What the bundle needs system mode for: the number of its special register, 0 for RTE (01 R16, 08 R205). -/
def privileged (s : State) (t : Tid) (i : Instr) : Option DWord :=
  if (s.thread t).sys then none
  else match i with
    | .rte _ => some 0
    | .getsr f => if Sr.system f.imm then some (f.imm.zeroExtend 64) else none
    | .setsr f => if Sr.system f.imm || Sr.systemWrite f.imm then some (f.imm.zeroExtend 64) else none
    | _ => none

/-- The traps of decoding that depend on the thread (04 R93, causes 5 and 6), whatever its mask bit. -/
def decodeTrap (s : State) (t : Tid) (i : Instr) : Option Request :=
  match s.privileged t i with
  | some n => some (Request.of .privilege n)
  | none => match s.undersized t i with
    | some r => some (Request.of .undersizedStall (regCode r))
    | none => none

/-- The thread's bit in the bundle's governing mask (04 R74). -/
def governed (s : State) (t : Tid) (i : Instr) : Bool := ((s.groupOf t).mask i.pfx.k).getLsbD t.thr

/-- The registers are written with zero: a special-function result still to land in one of them is zero too, so that what
remains does not depend on when it lands (06 R149; log entry 72). -/
def zeroSf (s : State) (t : Tid) (zeros : List Dst) : State :=
  let hit := fun (e : SfEntry) => e.t = t && zeros.any fun d => d.same (.v t.thr e.phys 0)
  if (s.core (s.coreNum t)).sfq.any hit then
    s.modCore (s.coreNum t) fun k => { k with sfq := k.sfq.map fun e => if hit e then { e with val := 0 } else e }
  else s

/-- The zero that a masked-off thread writes to a destination under z (04 R74). -/
def zeroDst (s : State) (t : Tid) : Reg → Option Dst
  | .v n => some (s.vdst t n 0)
  | .a n => some (.a t.thr n AReg.zero)
  | .k n => some (.k n (bit64 t.thr) 0)
  | .s _ => none

/-- A masked-off thread passes the bundle; with z its destinations are written with zero at the fixed latency, or four
cycles on, interlocked, where the latency is variable (04 R74). DESIGN CHOICE (log entry 72): the zero raises no
PENDING_READ, since R74 has a masked-off thread raise none of the instruction's own traps, and it remains. -/
def passBy (s : State) (t : Tid) (i : Instr) (ends : Bool) : State :=
  let zeros := i.writes.filterMap (s.zeroDst t)
  let s : State := if !i.pfx.z then s
    else
      let s := s.zeroSf t zeros
      if i.info.lat = 0 then s.later t [t.thr] zeros 4
      else zeros.foldl (fun s d => s.fixedOwn t d i.info.lat) s
  s.retire t s.cur.next ends

/-- The end of one thread's share. -/
def settle (t : Tid) (i : Instr) (ends : Bool) : Res → State
  | .done s' =>
    let s' : State := if i.info.region then s'.beginRegion t s'.cur.next else s'
    s'.retire t s'.cur.next ends
  | .jump s' pc => s'.retire t pc ends
  | .away s' => s'
  | .hold s' w => s'.setWait t w
  | .trap s' r => s'.takeTrap t r

/-- One thread's share of a per-thread bundle (04 R74, R93, 05 R94). DESIGN CHOICE (log entry 72): a register bound to a
pending token traps PENDING_READ in any instruction (06 R149), an integer one too, though 05 R104 names for it the traps
of decoding alone. -/
def share (i : Instr) (ends : Bool) (body : State → Tid → Res) (s : State) (t : Tid) : State :=
  match s.decodeTrap t i with
  | some r => s.takeTrap t r
  | none =>
    if s.governed t i then
      settle t i ends (match s.pendingReg t i with
        | some r => s.fail .pendingRead (regCode r)
        | none => body s t)
    else s.passBy t i ends

/-- A per-thread bundle: each thread of the issue group, in rising lane order. -/
def perThread (s : State) (i : Instr) (body : State → Tid → Res) : State :=
  s.cur.threads.foldl (share i false body) s

/-- A branch, call, jump, return or EXIT: as `perThread`, and PACE coverage ends (04 R80). -/
def control (s : State) (i : Instr) (body : State → Tid → Res) : State :=
  s.cur.threads.foldl (share i true body) s

/-- What a convergent bundle comes to for its group (05 R105, R111). -/
inductive ConvRes where
  | done (s : State)
  | hold (s : State) (w : Wait)
  | trap (s : State) (r : Request)

/-- The threads of a group that execute a convergent bundle together: in the issue group, governed, without a trap of
decoding. -/
def participants (s : State) (i : Instr) (n g : Nat) : List Tid :=
  s.cur.threads.filter fun t => t.team = n && t.grp = g && (s.decodeTrap t i).isNone && s.governed t i

/-- The threads of a convergent unit whose vector registers it reads (05 R109, R110): of RDL the thread at the index, where
it is present and governed. -/
def readers (s : State) (i : Instr) (ts : List Tid) : List Tid :=
  match i, ts with
  | .rfl _, t :: _ => [t]
  | .rdl f, t :: _ =>
    let k := ((s.groupOf t).sreg f.b.toNat).toNat
    if ((s.groupOf t).mask i.pfx.k).getLsbD k then [⟨t.team, t.grp, k⟩] else []
  | _, ts => ts

/-- One group's execution of a convergent bundle; every participant takes the trap (05 R111). DESIGN CHOICE (log entry
72): of PENDING_READ and CONVERGENCE (06 R134) the first is reported, as R149 puts it first among own causes. -/
def convergeGroup (i : Instr) (body : State → Nat → Nat → List Tid → ConvRes) (s : State) (n g : Nat) : State :=
  let ts := s.participants i n g
  if ts.isEmpty then s
  else
    let res := match (s.readers i ts).findSome? (fun t => (s.pendingReg t i)) with
      | some r => ConvRes.trap s (Request.of .pendingRead (regCode r))
      | none => body s n g ts
    match res with
    | .done s' => ts.foldl (fun s t => settle t i false (.done s)) s'
    | .hold s' w => ts.foldl (fun s t => s.setWait t w) s'
    | .trap s' r => ts.foldl (fun s t => s.takeTrap t r) s'

/-- A convergent bundle (05 R105): threads with a trap of decoding take it, threads outside the governing mask pass,
and each group's governed threads execute once, groups in rising order (08 R181). -/
def converge (s : State) (i : Instr) (body : State → Nat → Nat → List Tid → ConvRes) : State :=
  let ts := s.cur.threads
  let groups := sortBy (fun (g : Nat × Nat) => g.1 * 32 + g.2) (distinct (ts.map fun t => (t.team, t.grp)))
  let apart := ts.filter fun t => (s.decodeTrap t i).isSome || !s.governed t i
  let s := groups.foldl (fun s g => convergeGroup i body s g.1 g.2) s
  apart.foldl (fun s t => match s.decodeTrap t i with
    | some r => s.takeTrap t r
    | none => s.passBy t i false) s

/-! ### The error log (27 R406) -/

/-- Appends a record to the error log. DEDUCED (log entry 64): which records a lost line has, and their ADDR, UNIT and CTX. -/
def errorLog (s : State) (cls addr unit ctx : Nat) : State :=
  let n := s.repair.errN
  let s := s.deviceWrite (s.mgmt.errLog.toNat + 32 * (n % 4096))
    (leBytes 32 (fields [(192, addr % 2 ^ 48), (176, unit), (168, cls), (156, ctx), (64, n), (0, s.gtime)]))
  s.modRepair fun r => { r with errN := n + 1 }

/-- A line whose only modified copy is destroyed is poisoned at home (27 R401), and that is logged with the unit that lost it and
the context of what was lost, where these are known. -/
def losePoison (s : State) (line unit ctx : Nat) : State := (s.poisonLine line).errorLog 10 (line * 128) unit ctx

end State

end Sys2Proof.Machine
end

