-- ==== Sys2Proof/Machine/Translate.lean ====
section
/-! DEFINITION. Addresses and translation (18 R312 to R317, R320, R321): the sort of a virtual address, the walk of the
page tables, the TLBs, the checks of a leaf and of the partition, the engine fault log, and instruction fetch. -/

namespace Sys2Proof.Machine

/-- How an address is treated (18 R312). -/
inductive Place where
  | bad
  | tether
  | scratch
  | mapped
  deriving DecidableEq, Repr

/-- The sort of a virtual address, before any other check (18 R312). -/
def placeOf (va : Nat) : Place :=
  if 2 ^ 56 ≤ va then .bad
  else if va < 0x10000 then .bad
  else if 0x0000400000000000 ≤ va ∧ va ≤ 0x00007FFFFFFFFFFF then .tether
  else if 0x00FE000000000000 ≤ va ∧ va ≤ 0x00FEFFFFFFFFFFFF then .scratch
  else .mapped

/-- The scratchpad window's base (11 R235). -/
def windowBase : Nat := 0x00FE000000000000

/-- What an access needs of a leaf (18 R315), and the kind of its page request (18 R318). -/
structure Need where
  r : Bool
  w : Bool
  x : Bool
  kind : ReqKind
  deriving DecidableEq, Repr

def Need.load : Need := ⟨true, false, false, .load⟩
def Need.store : Need := ⟨false, true, false, .store⟩
def Need.atomic : Need := ⟨true, true, false, .atomic⟩
def Need.fetch : Need := ⟨false, false, true, .fetch⟩
def Need.engineRead : Need := ⟨true, false, false, .engineRead⟩
def Need.engineWrite : Need := ⟨false, true, false, .engineWrite⟩

/-! ### The walk (18 R313 to R315) -/

/-- Bits of a page-table entry (18 R314). -/
def pteV (e : DWord) : Bool := e.getLsbD 0
def pteCow (e : DWord) : Bool := e.getLsbD 2
def pteLeaf (e : DWord) : Bool := e.getLsbD 3
def pteR (e : DWord) : Bool := e.getLsbD 4
def pteW (e : DWord) : Bool := e.getLsbD 5
def pteX (e : DWord) : Bool := e.getLsbD 6
def pteDemote (e : DWord) : Bool := e.getLsbD 7
def pteAddr (e : DWord) : Nat := (e.extractLsb' 8 40).toNat * 256
def ptePeer (e : DWord) : Nat := (e.extractLsb' 48 13).toNat
def pteTgt (e : DWord) : Nat := (e.extractLsb' 62 2).toNat

/-- A level of the tables: its number, the lowest address bit it indexes, its entries (18 R313). -/
structure PtLevel where
  num : Nat
  lo : Nat
  entries : Nat

/-- The five levels, the root's first. -/
def ptLevels : List PtLevel := [⟨4, 48, 256⟩, ⟨3, 39, 512⟩, ⟨2, 30, 512⟩, ⟨1, 21, 512⟩, ⟨0, 16, 32⟩]

/-- A reserved bit of an entry is set (18 R314): a PEER field is allowed only for a peer, and is 0 for a multicast
group (23 R371). -/
def pteReserved (e : DWord) : Bool :=
  e.getLsbD 61 || e.getLsbD 1 || (pteTgt e != 3 && ptePeer e != 0) ||
  (pteTgt e = 3 && pteLeaf e && e.getLsbD 47 && ptePeer e != 0)

/-- How a walk ends. -/
inductive Walk where
  | leaf (e : TlbEntry)
  | invalid
  | malformed
  deriving DecidableEq, Repr

/-- The walk from a table, judged at the first entry that decides it (18 R315). -/
def walkFrom (m : Memory) (ctx va : Nat) : List PtLevel → Nat → Walk
  | [], _ => .malformed
  | l :: rest, table =>
    if table % (l.entries * 8) != 0 then .malformed
    else
      let at_ := table + 8 * (va / 2 ^ l.lo % l.entries)
      let e := BitVec.ofNat 64 (m.le at_ 8)
      if !pteV e then .invalid
      else if pteReserved e then .malformed
      else if pteLeaf e then
        if 3 ≤ l.num || pteAddr e % 2 ^ l.lo != 0 then .malformed
        else .leaf ⟨ctx, va / 2 ^ l.lo * 2 ^ l.lo, l.num, e, at_⟩
      else walkFrom m ctx va rest (pteAddr e)

/-- The size of a leaf's page at a level. -/
def pageSize (level : Nat) : Nat := match level with
  | 0 => 2 ^ 16
  | 1 => 2 ^ 21
  | _ => 2 ^ 30

/-- The location of an address under a leaf. -/
def TlbEntry.phys (e : TlbEntry) (va : Nat) : Phys :=
  ⟨pteTgt e.pte, ptePeer e.pte, pteAddr e.pte + va % pageSize e.level, pteDemote e.pte⟩

/-- The entry maps the address for the context. -/
def TlbEntry.hits (e : TlbEntry) (ctx va : Nat) : Bool := e.ctx = ctx && e.va ≤ va && va < e.va + pageSize e.level

namespace State

/-- The address of a context's record (18 R309). -/
def ctxRecord (s : State) (c : Nat) : Nat := s.mgmt.ctxTable.toNat + 256 * c

/-- `n` bytes of device memory as a number. -/
def dev (s : State) (a n : Nat) : Nat := s.mem.le a n

/-- The root table of a context, read at each walk (18 R309). -/
def ptRoot (s : State) (c : Nat) : Nat := s.dev (s.ctxRecord c + 12) 8

/-- A walk for a context (18 R313). -/
def walk (s : State) (c va : Nat) : Walk := walkFrom s.mem c va ptLevels (s.ptRoot c)

/-- The location is one the partition may use (18 R315): the populated part of a stack in STKM, a port in POOLM. -/
def allowed (s : State) (part : Nat) (p : Phys) : Bool :=
  let e := s.partEntry part
  if p.tgt = 0 then
    let stack := p.pa / 2 ^ 37
    stack < 24 && p.pa % 2 ^ 37 < 96000000000 && e.getLsbD (48 + stack)
  else if p.tgt = 1 then e.getLsbD (72 + p.pa / 2 ^ 45 % 8)
  else true

/-- Writes an entry of a context's engine fault log (18 R320). -/
def faultLog (s : State) (c : Nat) (addr : DWord) (core : Nat) (cause : Cause) (src : Nat) : State :=
  let k := s.ctx c
  let n := k.flogN.toNat
  let s := s.deviceWrite (k.flog.toNat + 16 * (n % 256))
    (leBytes 16 (fields [(64, addr.toNat), (48, core), (40, cause.code), (32, src), (0, n)]))
  s.modCtx c fun k => { k with flogN := k.flogN + 1 }

/-- A walk of a core's access meets a malformed table: one entry of the fault log for the misses that merge into the walk
(18 R316, R320). DESIGN CHOICE (log entry 80): misses of one die to one 64 KiB page in one cycle merge. -/
def faultWalk (s : State) (c va core : Nat) : State :=
  let w := (va / 65536, s.cycle, dieOf core)
  if (s.ctx c).walks.contains w then s
  else (s.faultLog c (BitVec.ofNat 64 va) core .accessViolation 2).modCtx c fun k => { k with
    walks := k.walks.filter (fun x => x.2.1 = s.cycle) ++ [w] }

/-- A translation cached by the core or its die (18 R316). -/
def cached (s : State) (core ctx va : Nat) : Option TlbEntry :=
  match (s.core core).tlb.find? (fun e => e.hits ctx va) with
  | some e => some e
  | none => (Sp.get [] s.dieTlb (dieOf core)).find? (fun e => e.hits ctx va)

/-- Fills the core's and the die's TLB: 64 and 16,384 entries, the oldest leaving first (18 R316; log entry 12). -/
def fillTlb (s : State) (core : Nat) (e : TlbEntry) : State :=
  let trim := fun (n : Nat) (l : List TlbEntry) => l.drop (l.length - n)
  let s : State := if (s.core core).tlb.contains e then s
    else s.modCore core fun k => { k with tlb := trim 64 (k.tlb ++ [e]) }
  let d := Sp.get [] s.dieTlb (dieOf core)
  if d.contains e then s
  else { s with dieTlb := Sp.set [] s.dieTlb (dieOf core) (trim 16384 (d ++ [e])) }

/-- What translating an address comes to. -/
inductive Found where
  | ok (p : Phys) (leaf : TlbEntry)
  | fault (r : Request)
  deriving DecidableEq, Repr

/-- Translates a mapped address for a need (18 R315, R316, R320); `core` is the core of the TLB and of a fault-log
entry. -/
def translate (s : State) (core ctx va : Nat) (need : Need) : State × Found :=
  let a := BitVec.ofNat 64 va
  let av := Found.fault (Request.of .accessViolation a)
  let judge := fun (s : State) (e : TlbEntry) =>
    let p := e.phys va
    if !s.allowed (s.ctx ctx).part p then (s, av)
    else if (need.r && !pteR e.pte) || (need.w && !pteW e.pte) || (need.x && !pteX e.pte) then (s, av)
    else (s.fillTlb core e, .ok p e)
  match s.cached core ctx va with
  | some e => judge s e
  | none =>
    match s.walk ctx va with
    | .leaf e => judge s e
    | .invalid => (s, .fault ⟨.translation, a, need.kind, 0, 0⟩)
    | .malformed => (s.faultWalk ctx va core, av)

/-! ### Pool ports and extents (23 R364, 26 R396) -/

/-- The extent that holds a pool location, if it is one the pool agent knows. -/
def extentOf (s : State) (pa : Nat) : Option Extent := s.fab.extents.find? (fun e => e.base ≤ pa && pa < e.base + e.size)

/-- The causes that follow translation, in the order of 07 R158: poison, a lapsed extent, a pool port that is down. -/
def lateFault (s : State) (p : Phys) (va : DWord) (poison : Bool) : Option Request :=
  if poison && s.poisoned (lineOf p.key) then some (Request.of .dataPoison va)
  else if p.tgt = 1 then
    if (match s.extentOf p.pa with
      | some e => e.lapsed
      | none => false) then some (Request.of .leaseLapsed va)
    else if s.fab.poolDown.contains (p.pa / 2 ^ 45 % 8) then some (Request.of .linkLost va)
    else none
  else none

/-- The first cause beside poison that a range of pool memory gives: at its ends, and of an extent within it (26 R396, 23
R364). -/
def poolLost (s : State) (k n : Nat) : Option Cause :=
  match s.lateFault ⟨1, 0, k % 2 ^ 48, false⟩ 0 false, s.lateFault ⟨1, 0, (k + (n - 1)) % 2 ^ 48, false⟩ 0 false with
  | some r, _ | none, some r => some r.cause
  | none, none =>
    if s.fab.extents.any fun e => e.lapsed && e.base < k % 2 ^ 48 + n && k % 2 ^ 48 < e.base + e.size then some .leaseLapsed else none

/-! ### Fetch (04 R67, R68, R92, R93) -/

/-- What fetching a word comes to. -/
inductive Fetched where
  | word (w : Word)
  | fault (r : Request)
  /-- the word lies in host or peer memory and has not arrived -/
  | absent (p : Phys)
  deriving DecidableEq, Repr

/-- A word of a line. -/
def lineWord (x : Line) (i : Nat) : Word := x.extractLsb' (8 * i) 32

/-- The word at a program address for a thread of a team (18 R312, R315, 27 R400): as the core fetched its line since the
last team start or resume there, otherwise as memory holds it now (04 R92; log entry 23). -/
def fetchWord (s : State) (team : Nat) (a : DWord) : State × Fetched :=
  let m := s.team team
  match placeOf a.toNat with
  | .mapped =>
    match s.translate m.core m.ctx a.toNat Need.fetch with
    | (s', .fault r) => (s', .fault r)
    | (s', .ok p _) =>
      match s.lateFault p a true with
      | some r => (s', .fault r)
      | none => match (s.core m.core).code.find? (fun c => c.1 = lineOf p.key) with
        | some c => (s', .word (lineWord c.2 (p.key % 128)))
        | none =>
          if p.tgt ≤ 1 then (s', .word (BitVec.ofNat 32 (s.mem.le p.key 4)))
          else if p.tgt = 3 ∧ 2 ^ 47 ≤ p.pa then (s', .fault (Request.of .accessViolation a)) else (s', .absent p)
  | _ => (s, .fault (Request.of .accessViolation a))

/-- The line of device or pool memory at a program address joins the core's lines of code (04 R92). -/
def noteCode (s : State) (team : Nat) (a : DWord) : State :=
  let m := s.team team
  match s.translate m.core m.ctx a.toNat Need.fetch with
  | (_, .ok p _) =>
    if 2 ≤ p.tgt || (s.core m.core).code.any (fun c => c.1 = lineOf p.key) then s
    else s.modCore m.core fun k => { k with code := k.code ++ [(lineOf p.key, s.mem.line (lineOf p.key))] }
  | _ => s

/-- What fetching and decoding a bundle comes to. `n` is the number of words. -/
inductive Bundle where
  | ok (i : Instr) (n : Nat)
  | fault (r : Request)
  | absent (p : Phys)
  deriving DecidableEq, Repr

/-- Fetches words from `a` until they decode (04 R68, R76, R78, R93). -/
def fetchFrom (s : State) (team : Nat) (pc : DWord) : Nat → List Word → State × Bundle
  | 0, _ => (s, .fault (Request.of .illegalOpcode pc))
  | fuel + 1, ws =>
    let a := pc + BitVec.ofNat 64 (4 * ws.length)
    match s.fetchWord team a with
    | (s', .fault r) => (s', .fault r)
    | (s', .absent p) => (s', .absent p)
    | (s', .word w) =>
      let ws := ws ++ [w]
      match decodeWords ws with
      | .more => s'.fetchFrom team pc fuel ws
      | .ok i => (s', .ok i ws.length)
      | .bad (.malformed k) => (s', .fault (Request.of .illegalOpcode (pc + BitVec.ofNat 64 (4 * k))))
      | .bad (.reserved k) => (s', .fault (Request.of .reservedField (pc + BitVec.ofNat 64 (4 * k))))
      | .bad (.truncated) => (s', .fault (Request.of .illegalOpcode pc))

/-- The bundle at a thread's program counter: at most an X word, a W word and an instruction word (04 R68). -/
def fetchBundle (s : State) (team : Nat) (pc : DWord) : State × Bundle := s.fetchFrom team pc 3 []

end State

end Sys2Proof.Machine
end

