-- ==== Sys2Proof/Machine/Cow.lean ====
section
/-! DEFINITION. Snapshots (25 R377 to R381): the persistence entry, the copy of a unit under a copy-on-write leaf with
its splits and its copy log, and the write-back of a cluster-private copy, which is such a write (11 R244, R245). -/

namespace Sys2Proof.Machine

/-- The place of a context's persistence entry (25 R377). -/
def State.persEntry (s : State) (c : Nat) : Nat := s.mgmt.persTab.toNat + 64 * c

namespace State

/-- Fields of the persistence entry (25 R377). -/
def slog (s : State) (c : Nat) : Nat := s.dev (s.persEntry c + 40) 8
def slogN (s : State) (c : Nat) : Nat := s.dev (s.persEntry c + 36) 4
def slogAck (s : State) (c : Nat) : Nat := s.dev (s.persEntry c + 32) 4
def slogSh (s : State) (c : Nat) : Nat := s.dev (s.persEntry c + 31) 1
def poolBase (s : State) (c : Nat) : Nat := s.dev (s.persEntry c + 20) 8
def poolCount (s : State) (c : Nat) : Nat := s.dev (s.persEntry c + 16) 4

/-- Free entries of the copy log (25 R380). -/
def slogRoom (s : State) (c : Nat) : Nat := 2 ^ s.slogSh c - (s.slogN c + 2 ^ 32 - s.slogAck c) % 2 ^ 32

/-- Takes a page of the pool (25 R377). -/
def takePage (s : State) (c : Nat) : State × Nat :=
  let n := s.poolCount c - 1
  let page := s.dev (s.poolBase c + 8 * n) 8
  (s.deviceWrite (s.persEntry c + 16) (leBytes 4 n), page)

/-- Appends an entry of the copy log (25 R380). -/
def slogAppend (s : State) (c oldPa va kind level : Nat) : State :=
  let n := s.slogN c
  let s := s.deviceWrite (s.slog c + 16 * (n % 2 ^ s.slogSh c))
    (leBytes 16 (fields [(64, oldPa), (16, va / 65536), (14, kind), (12, level), (0, c)]))
  s.deviceWrite (s.persEntry c + 36) (leBytes 4 ((n + 1) % 2 ^ 32))

/-- Removes the cached translations of a context that map an address (18 R317). -/
def dropTlb (s : State) (c va : Nat) : State :=
  let keep := fun (e : TlbEntry) => !e.hits c va
  let s := s.mapCores fun k => { k with tlb := k.tlb.filter keep }
  let d := (s.dieTlb.map fun (k : Nat × List TlbEntry) => (k.1, k.2.filter keep)).filter fun k => !k.2.isEmpty
  { s with dieTlb := d }

/-- A leaf's entry with another address, level and COW bit. -/
def pteWith (pte : DWord) (addr : Nat) (cow : Bool) : DWord :=
  (pte &&& ~~~(0x0000FFFFFFFFFF04 : DWord)) ||| BitVec.ofNat 64 (addr / 256 * 256 % 2 ^ 48) |||
    (if cow then 4 else 0)

/-- Splits a 1 GiB or 2 MiB leaf into a table of leaves of the next level, built in a pool page (25 R380); the entry of
the new table that maps `va`. -/
def splitLeaf (s : State) (c va : Nat) (e : TlbEntry) : State × TlbEntry :=
  let (s, page) := s.takePage c
  let (n, size) := if e.level = 2 then (512, 2 ^ 21) else (32, 2 ^ 16)
  let table := (List.range n).flatMap fun i => leBytes 8 (pteWith e.pte (pteAddr e.pte + i * size) true).toNat
  let s := s.deviceWrite page table
  let s := s.deviceWrite e.at_ (leBytes 8 (fields [(0, 1), (0, page)]))
  let s := (s.dropTlb c va).slogAppend c (pteAddr e.pte) va 1 e.level
  let i := va / size % n
  (s, ⟨c, va / size * size, e.level - 1, pteWith e.pte (pteAddr e.pte + i * size) true, page + 8 * i⟩)

/-- A private copy's line is written home. A mark that the line has there stays: the copy was made before what was lost (27 R400,
R401). -/
def backWrite (s : State) (line : Nat) (x : Line) : State :=
  let marked := s.poisoned line
  let s := s.lineWrite line (lineBytes line x)
  if marked then s.poisonLine line else s

/-- The poison marks of `n` bytes' lines travel with a copy of them, in the place of what stood there (27 R400). -/
def copyPoison (s : State) (src n dst : Nat) : State :=
  (s.poison.filter (fun l => src ≤ l * 128 && l * 128 < src + n)).foldl
    (fun s l => s.poisonLine (lineOf (dst + (l * 128 - src)))) (s.unpoison dst n)

/-- Where a line, or a granule, of `size` bytes stands once the unit at `src` has moved to `dst`. -/
def movedTo (src dst size n : Nat) : Nat :=
  if src ≤ n * size && n * size < src + 65536 then (dst + (n * size - src)) / size else n

/-- Buffered stores of a context to a unit follow it to its copy (25 R379: the waiting writes apply to the new page). -/
def moveStores (s : State) (c src dst : Nat) : State :=
  let mine := fun (b : SbByte) => (s.team b.by_.team).ctx = c
  let move := fun (e : SbEntry) =>
    let line := movedTo src dst 128 e.line
    if line = e.line then [e]
    else [{ e with bytes := e.bytes.filter fun b => !mine b },
          { e with line := line, bytes := (e.bytes.filter mine).map fun b => { b with cow := none } }].filter fun e => !e.bytes.isEmpty
  let hit := s.cores.filter fun k => k.2.sb.any fun e => movedTo src dst 128 e.line != e.line
  hit.foldl (fun s k =>
    (k.2.sb.filter fun e => movedTo src dst 128 e.line != e.line).foldl (fun s e =>
      s.soon 64 .storeBufferDrain { core := k.1, addr := movedTo src dst 128 e.line, ok := true })
      (s.modCore k.1 fun k => { k with sb := k.sb.flatMap move })) s

/-- What the tasks of a context hold, await and have written in a unit follows it to its copy (25 R381). -/
def moveFolds (s : State) (c src dst : Nat) : State :=
  let mine := fun (n : Nat) => (s.team n).ctx = c
  let gran := movedTo src dst 256
  let wants := s.home.wants
  let s := s.modHome fun h => { h with
    claims := sortBy (fun k => k.gran) (h.claims.map fun k => if mine k.team then { k with gran := gran k.gran } else k)
    wants := h.wants.map fun w => if mine w.team then { w with gran := gran w.gran } else w
    shadows := h.shadows.map fun x => if mine x.team then { x with line := movedTo src dst 128 x.line } else x }
  let moved := distinct ((wants.filter fun w => gran w.gran != w.gran && mine w.team).map fun w => gran w.gran)
  let s := moved.foldl (fun s g => s.after 1 .claimGrant { addr := g }) s
  { s with teams := s.teams.map fun m => if m.ctx = c && !m.folds.isEmpty then
      { m with folds := m.folds.map fun p => (p.1, { p.2 with grans := sortBy id (p.2.grans.map gran) }) } else m }

/-- Copies a unit to a pool page (25 R379): the leaf names the new page, cached translations go, the copy is logged,
dirty private copies of its lines are written to the new page and dropped, and what waits for the unit follows it. -/
def copyUnit (s : State) (c va : Nat) (e : TlbEntry) : State × TlbEntry :=
  let unit := va / 65536 * 65536
  let src := (e.phys unit).key
  let (s, page) := s.takePage c
  let s := { s with mem := s.mem.copy src 65536 page }
  let s := s.copyPoison src 65536 page
  let pte := pteWith (e.pte &&& ~~~(0xC000000000000000 : DWord)) page false
  let s := s.deviceWrite e.at_ (leBytes 8 pte.toNat)
  let s := (s.dropTlb c va).slogAppend c (keyPa src) unit 0 0
  let inUnit := fun (p : PrivCopy) => src ≤ p.line * 128 && p.line * 128 < src + 65536
  let held := (placed 0 s.clusters).flatMap fun k => (k.2.privs.filter inUnit).map fun p => (k.1, p)
  let s := held.foldl (fun s p =>
    let line := movedTo src page 128 p.2.line
    let s : State := if p.2.dirty then s.backWrite line p.2.data else s
    s.privDrop p.1 p.2.line) s
  ((s.moveStores c src page).moveFolds c src page, { e with pte := pte })

/-- A page request that neither a thread nor a copy engine makes (25 R380): of a store that a core's buffer holds (2), of a
cluster's private copy (3). DESIGN CHOICE (log entry 77): it enters the queue as an engine's does,
one at a time for a page, and the step that needs it tries again. -/
def askPage (s : State) (ctx : Nat) (r : Request) (who : Nat × Nat) : State :=
  let same := fun (q : Request) => q.cause = r.cause && q.addr.toNat / 65536 = r.addr.toNat / 65536
  if (s.prq.any fun e => e.ctx = ctx && same e.req && e.engines.contains who) ||
      s.prqIn.any (fun a => a.ctx = ctx && same a.req && a.thr.isNone && a.eng = who) then s
  else ({ s with prqIn := s.prqIn ++ [(⟨ctx, r, none, who⟩ : PrqArrival)] }).afterOnce 1 .pageRequestArrival { ok := true }

/-- A task holds a granule of the unit. -/
def unitOwn (s : State) (n key : Nat) : Bool := s.home.claims.any fun k => k.gran / 256 = key / 65536 && k.team = n

/-- A claimed granule of the unit (25 R381). -/
def unitClaim (s : State) (key : Nat) : Option Nat :=
  (s.home.claims.find? fun k => k.gran / 256 = key / 65536).map fun k => k.gran

end State

/-- What preparing a write comes to: where it goes; a page request; or the wait for a claimed granule of its unit. -/
inductive Cowed where
  | ok (p : Phys)
  | fault (r : Request)
  | claimed (gran : Nat)
  deriving DecidableEq, Repr

/-- What writing back a private copy comes to. -/
inductive Wrote where
  | ok
  | fault (r : Request)
  | claimed (gran : Nat)
  /-- the home refuses it (11 R247) -/
  | busy (cl line : Nat)
  deriving DecidableEq, Repr

namespace State

/-- The leaf is split to 64 KiB and its unit copied, a pool page and a log entry at a time; a page request where one of
them is missing (25 R379, R380). -/
def cowSteps (s : State) (c va : Nat) (e : TlbEntry) (kind : ReqKind) : Nat → State × Cowed
  | 0 => (s, .ok (e.phys va))
  | fuel + 1 =>
    if s.poolCount c = 0 || s.slogRoom c = 0 then (s, .fault ⟨.translation, BitVec.ofNat 64 va, kind, 0, 0⟩)
    else if e.level = 0 then let (s, e) := s.copyUnit c va e; (s, .ok (e.phys va))
    else let (s, e) := s.splitLeaf c va e; s.cowSteps c va e kind fuel

/-- The write is made under a copy-on-write leaf: COW = 1 and W = 1 on device or pool memory (25 R379). -/
def cowLeaf (e : TlbEntry) : Bool := pteCow e.pte && pteW e.pte && pteTgt e.pte ≤ 1

/-- Before a write under a leaf its unit is copied, unless a granule of it is claimed and `commit` is false (25 R379 to
R381). -/
def cowBefore (s : State) (c va : Nat) (e : TlbEntry) (kind : ReqKind) (commit : Bool) : State × Cowed :=
  let p := e.phys va
  if !cowLeaf e then (s, .ok p)
  else match (if commit then none else s.unitClaim p.key) with
    | some g => (s, .claimed g)
    | none => s.cowSteps c va e kind 3

/-- The write-back of a private copy copies its unit first (25 R379). -/
def backCopies (s : State) (cl : Nat) (p : PrivCopy) : Bool :=
  placeOf p.va = .mapped && (match s.walk (s.cluster cl).ctx p.va with
    | .leaf e => cowLeaf e && (e.phys p.va).key / 128 = p.line
    | _ => false)

/-- A private copy is dirty and cannot be written back now: its home refuses it or has refused it (11 R247), or its unit is to
be copied and is claimed (25 R381). -/
def backBlocked (s : State) (cl : Nat) (p : PrivCopy) : Bool :=
  p.dirty && (s.lineTaken (.slice cl) p.line || s.backingOff (.slice cl) p.line ||
    (s.backCopies cl p && (s.unitClaim (p.line * 128)).isSome))

/-- Writes a dirty private copy home as a whole line (11 R244, R245), a write that copies its unit first under a
copy-on-write leaf (25 R379); the copy stays, clean, or goes. -/
def writeBack (s : State) (cl : Nat) (p : PrivCopy) (keep : Bool) : State × Wrote :=
  let ctx := (s.cluster cl).ctx
  let done := fun (s : State) =>
    if keep then s.modCluster cl fun k => { k with privs := k.privs.map fun q =>
      if q.line = p.line then { q with dirty := false } else q }
    else s.privDrop cl p.line
  if s.priv? cl p.line != some p then (s, .ok)
  else if !p.dirty then (if keep then s else s.privDrop cl p.line, .ok)
  else if s.lineTaken (.slice cl) p.line || s.backingOff (.slice cl) p.line then (s, .busy cl p.line)
  else
    let plain := fun (s : State) =>
      (done ((s.granted (.slice cl) p.line).backWrite p.line p.data), Wrote.ok)
    match placeOf p.va, s.walk ctx p.va with
    | .mapped, .leaf e =>
      if (e.phys p.va).key / 128 != p.line then plain s
      else match s.cowBefore ctx p.va e .store false with
        | (s', .fault r) => (s', .fault r)
        | (s', .claimed g) => (s', .claimed g)
        | (s', .ok q) => if q.key / 128 = p.line then plain s' else (s', .ok)
    | _, _ => plain s

/-- Writes back every private copy that `sel` selects, in every cluster, as far as the first that cannot be. -/
def writeBackAll (s : State) (sel : Nat → PrivCopy → Bool) (keep : Bool) : State × Wrote :=
  (placed 0 s.clusters).foldl (fun acc k =>
    (k.2.privs.filter (sel k.1)).foldl (fun acc p => match acc.2 with
      | .ok => acc.1.writeBack k.1 p keep
      | _ => acc) acc) (s, .ok)

/-- The page request of a private copy whose unit cannot be copied, without a thread that waits (25 R380). -/
def askBack (s : State) (cl : Nat) : Wrote → State
  | .fault r => s.askPage (s.cluster cl).ctx r (cl, 3)
  | .busy k line => if s.backingOff (.slice k) line then s else s.refuseTo (.slice k) line .homeRetry { nums := [0, 0] }
  | _ => s

/-- As `writeBackAll` where no thread waits: one that cannot be written back is left. -/
def writeBackEach (s : State) (sel : Nat → PrivCopy → Bool) (keep : Bool) : State :=
  (placed 0 s.clusters).foldl (fun s k => (k.2.privs.filter (sel k.1)).foldl (fun s p =>
    let (s, r) := s.writeBack k.1 p keep
    s.askBack k.1 r) s) s

/-- Where a page-mapped access leads now: a copy of its unit may have moved it (25 R379). -/
def placeNow (s : State) (ctx : Nat) (p : Phys) (leaf : Option TlbEntry) (va : DWord) : Phys × Option TlbEntry :=
  match leaf with
  | some e => if cowLeaf e then match s.walk ctx va.toNat with
      | .leaf e' => (e'.phys va.toNat, some e')
      | _ => (p, leaf)
    else (p, leaf)
  | none => (p, leaf)

end State

end Sys2Proof.Machine
end

