-- ==== Sys2Proof/Machine/Buffer.lean ====
section
/-! DEFINITION. Requests at a home and the store buffer (11 R239, R241, R247): a write asks its home, which refuses it, awaits
invalidations or performs it; stores enter the buffer and drain from it. -/

namespace Sys2Proof.Machine

namespace State

/-! ### The store buffer (11 R239) -/

/-- The latest byte that one of the threads has in the store buffer at a location. -/
def sbByte? (s : State) (ts : List Tid) (c key : Nat) : Option Byte :=
  match (s.core c).sb.find? (fun e => e.line = lineOf key) with
  | none => none
  | some e => (e.bytes.reverse.find? (fun b => b.off = key % 128 && ts.contains b.by_)).map (fun b => b.val)

/-- Records a write that awaits its acknowledgement, and makes the acknowledgement due after a free delay (12 R251). -/
def awaitAck (s : State) (c line : Nat) (owners : List Tid) : State :=
  let (id, s) := s.newId
  let s := s.modCore c (fun k => { k with unacked := k.unacked ++ [⟨id, line, owners⟩] })
  s.soon 4096 .writeAck { core := c, id := id }

/-! ### Writes at a home (11 R241, R246, R247) -/

/-- What asking a home for a write comes to. -/
inductive Asked where
  /-- the write is performed now -/
  | now (s : State)
  /-- invalidations are awaited -/
  | wait (s : State)
  /-- the home refuses -/
  | refused (s : State)

/-- Sends the invalidations that a write of a line awaits; each arrives within 4,096 cycles (11 R241, R246). -/
def beginWrite (s : State) (who : Asker) (writer : Option Nat) (line : Nat) : Asked :=
  match s.conflict writer line with
  | (s, []) => .now s
  | (s, others) =>
    let (id, s) := s.newId
    let s := others.foldl (fun s c => s.sendLineMsg c line .lineInvalidation id) s
    .wait (s.modHome fun h => { h with txns := h.txns ++ [⟨id, line, who, others, false⟩] })

/-- Asks a line's home for a write (11 R241, R246, R247): refused while another is in progress; performed once every given
holder's invalidation has arrived. The lanes of a group at one bundle make one request, performed in one cycle. -/
def askHome (s : State) (who : Asker) (writer : Option Nat) (line : Nat) : Asked :=
  if s.backingOff who line then .wait s
  else if s.lineTaken who line then .refused s
  else match s.home.txns.find? fun x => x.line = line with
    | none => (s.granted who line).beginWrite who writer line
    | some x =>
      if x.waits.isEmpty then
        .now (s.modHome fun h => { h with txns := h.txns.map fun y => if y = x then { y with done := true } else y })
      else .wait s

/-- The invalidation that a write has sent to a core has arrived (11 R241). -/
def invalidated (s : State) (c id : Nat) : State :=
  if s.home.txns.any fun x => x.id = id then
    s.modHome fun h => { h with txns := h.txns.map fun x => if x.id = id then { x with waits := x.waits.erase c } else x }
  else s

/-- The stores in an entry that go to a private copy of their cluster, with their cluster; the others go to the home (11
R244). -/
def privOwner (s : State) (line : Nat) (b : SbByte) : Option Nat :=
  let cl := (s.team b.by_.team).cluster
  if (s.priv? cl line).isSome then some cl else none

/-- Bytes of store-buffer entries with their keys. -/
def sbKeys (line : Nat) (l : List SbByte) : List (Nat × Byte) := l.map fun b => (line * 128 + b.off, b.val)

/-- The threads and contexts that stored bytes. -/
def sbOwners (l : List SbByte) : List Tid := distinct (l.map fun b => b.by_)
def sbCtxs (s : State) (l : List SbByte) : List Nat := distinct (l.map fun b => (s.team b.by_.team).ctx)

/-- Bytes of an entry leave for the private copies of their clusters and the home, and await their acknowledgement. -/
def drainBytes (s : State) (c : Nat) (line : Nat) (nt : Bool) (l : List SbByte) : State :=
  let home := l.filter fun b => (s.privOwner line b).isNone
  let cls := distinct (l.filterMap (s.privOwner line))
  let s := cls.foldl (fun s cl =>
    let mine := l.filter fun b => s.privOwner line b = some cl
    (s.privWrite cl line (sbKeys line mine)).updateL1 c (s.sbCtxs mine) line (overlay (sbKeys line mine))) s
  let s : State := if home.isEmpty then s else (s.touchHome c line nt).homeWrite (some (c, s.sbCtxs home)) line (sbKeys line home)
  s.awaitAck c line (sbOwners l)

/-- An entry keeps the bytes that `p` selects; without any it is free. -/
def sbKeep (s : State) (c : Nat) (e : SbEntry) (p : SbByte → Bool) : State :=
  let rest := e.bytes.filter p
  s.modCore c fun k => { k with sb := if rest.isEmpty then k.sb.filter (fun x => x != e)
                                      else k.sb.map fun x => if x = e then { x with bytes := rest } else x }

/-- The copies that stores of a line must follow (25 R381): each store that met a claimed unit is walked again, and once no
granule of it is claimed its unit is copied, the entry following it; false where a store still waits or has moved. A missing
page or log entry is asked for (R380). -/
def copiesFirst (s : State) (c line : Nat) : List SbByte → State × Bool
  | [] => (s, true)
  | b :: l => match b.cow with
    | none => s.copiesFirst c line l
    | some va =>
      let ctx := (s.team b.by_.team).ctx
      match s.walk ctx va with
      | .leaf e => if (e.phys va).key / 128 != line || !cowLeaf e then s.copiesFirst c line l
        else match s.cowBefore ctx va e .store false with
          | (s, .ok q) => if q.key / 128 = line then s.copiesFirst c line l else (s, false)
          | (s, .fault r) => (s.askPage ctx r (c, 2), false)
          | (s, .claimed _) => (s, false)
      | _ => s.copiesFirst c line l

/-- A store-buffer entry drains (11 R239): to the host port; at once to the private copies of its clusters; to the home, unless
it refuses (R247) or invalidations are awaited (R241). Stores to a granule that a task holds wait there (08 R185). DESIGN
CHOICE (log entry 77): a store whose unit cannot be copied once its claims are gone waits while its page request stands, its
thread being past it, and tries again. -/
def drainEntry (s : State) (c : Nat) (e : SbEntry) : State :=
  if !(s.core c).sb.contains e then s
  else if keyTgt (e.line * 128) = 2 then
    if s.host.locks.any (fun l => l.1 = e.line) then s
    else
      let s := s.sbKeep c e fun _ => false
      s.modHost fun h => { h with posted := h.posted ++
        [⟨keyPa (e.line * 128), e.bytes.map (fun b => (b.off, b.val)), e.relaxed, (sbOwners e.bytes).head?, false⟩] }
  else if (s.claimOf (granOf (e.line * 128))).isSome then s
  else
    let far := fun (b : SbByte) => (s.privOwner e.line b).isNone
    let near := e.bytes.filter fun b => !far b
    let rest := { e with bytes := e.bytes.filter far }
    let s := if near.isEmpty then s else (s.sbKeep c e far).drainBytes c e.line e.nt near
    if rest.bytes.isEmpty then s
    else match s.copiesFirst c e.line rest.bytes with
      | (s, false) => s.soon 4096 .storeBufferDrain { core := c, addr := e.line, ok := true }
      | (s, true) => match s.askHome (.buffer c) (some c) e.line with
        | .refused s => s.refuse (.buffer c) c e.line { ok := true }
        | .wait s => s
        | .now s => ((s.sbKeep c rest fun _ => false).granted (.buffer c) e.line).drainBytes c e.line e.nt rest.bytes

/-- Every store-buffer entry of the core that `p` selects drains, oldest first. -/
def drainWhere (s : State) (c : Nat) (p : SbEntry → Bool) : State :=
  ((s.core c).sb.filter p).foldl (fun s e => s.drainEntry c e) s

/-- Entries of lines that `p` selects drain in the next cycle: what held them may be over. -/
def drainLater (s : State) (p : Nat → Bool) : State :=
  s.cores.foldl (fun s k => (k.2.sb.filter fun e => p e.line).foldl (fun s e =>
    s.after 1 .storeBufferDrain { core := k.1, addr := e.line, ok := true }) s) s

/-- The thread has bytes in the entry. -/
def ownEntry (t : Tid) (e : SbEntry) : Bool := e.bytes.any (fun b => b.by_ = t)

/-- The thread's own stores to a line are still in the buffer. -/
def ownBuffered (s : State) (t : Tid) (c line : Nat) : Bool := (s.core c).sb.any fun e => e.line = line && ownEntry t e

/-- A store enters the store buffer (11 R239): it joins its line's entry, or takes one of 16, the oldest draining first; not
taken where the oldest cannot drain. -/
def bufferStore (s : State) (t : Tid) (c line : Nat) (bytes : List (Nat × Byte)) (relaxed nt : Bool) (cow : Option Nat) :
    State × Bool :=
  let mine := fun (e : SbEntry) => e.line = line
  let new := bytes.map (fun b => (⟨b.1 % 128, b.2, t, cow⟩ : SbByte))
  let merge := fun (e : SbEntry) => { e with relaxed := e.relaxed && relaxed, nt := e.nt && nt
                                             bytes := e.bytes.filter (fun b => !(b.by_ = t && new.any (fun n => n.off = b.off))) ++ new }
  let s : State := if (s.core c).sb.any mine || (s.core c).sb.length < 16 then s
    else match (s.core c).sb.head? with
      | some e => s.drainEntry c e
      | none => s
  if (s.core c).sb.any mine then
    let s := s.modCore c (fun k => { k with sb := k.sb.map (fun e => if mine e then merge e else e) })
    match (s.core c).sb.find? mine with
    | some e => (if coversLine (e.bytes.map (fun b => (b.off, b.val))) then s.drainEntry c e else s, true)
    | none => (s, true)
  else if (s.core c).sb.length < 16 then
    let s := s.modCore c (fun k => { k with sb := k.sb ++ [⟨line, s.cycle, relaxed, nt, new⟩] })
    let s := s.after 64 .storeBufferDrain { core := c, addr := line }
    (if coversLine bytes then s.drainWhere c mine else s, true)
  else (s, false)

end State

end Sys2Proof.Machine
end

