-- ==== Sys2Proof/Machine/Release.lean ====
section
/-! DEFINITION. The write-combining buffer, the outstanding-transaction table and releases (07 R177, 12 R251, R260, 23
R368 to R370). Cycles per µs: 3,000 (00 R1). -/

namespace Sys2Proof.Machine

/-- Cycles of a microsecond at 3.0 GHz (00 R1). -/
def usCycles : Nat := 3000
/-- Cycles of a millisecond. -/
def msCycles : Nat := 3000000

/-- The peer and the byte address of a message; none for a message to a pool shelf. -/
def FabricMsg.route : FabricMsg → Option (Nat × Nat)
  | .read p a _ | .atomic p a _ _ _ | .add p a _ _ _ | .nibble p a _ _ | .answer p a _ _ | .acked p a => some (p, a)
  | .write p l _ | .poison p l => some (p, l * 128)
  | .multicast _ o _ | .contribute _ o _ _ _ => some (0, o)
  | .claim p g _ | .renew p g _ _ | .renewed p g _ | .refused p g | .release p g _ | .prepare p g _ _ | .prepared p g
  | .apply p g | .applied p g | .query p g _ | .wound p g => some (p, g * 256)
  | .compare p a _ _ => some (p, a)
  | .pool _ | .snooped _ => none

namespace State

/-- A transaction takes an entry of the core's table, with its expiry due: 100 µs, or 20 ms for a group (23 R368, R370,
R371). -/
def openTxn (s : State) (c line : Nat) (waiters owners : List Tid) (addr : DWord) (fetch multi : Bool) (eng : Option Nat := none) :
    State × Nat :=
  let (id, s) := s.newId
  let x : Txn := ⟨id, distinct (owners.map fun t => t.team), line, waiters, owners, addr, fetch, multi, s.cycle, eng⟩
  let s := s.modCore c fun k => { k with out := k.out ++ [x] }
  (s.after (if multi then 20 * msCycles else 100 * usCycles) .transactionExpiry { core := c, id := id }, id)

/-- A port of the fabric. -/
def port (s : State) (p : Nat) : Port := Sp.get Port.reset s.fab.ports p

/-- Changes a port of the fabric. -/
def modPort (s : State) (p : Nat) (f : Port → Port) : State :=
  s.modFab fun x => { x with ports := Sp.set Port.reset x.ports p (f (s.port p)) }

/-- The port that takes a plane's transactions: its own, or the next that is up (23 R365, 27 R405). -/
def planePort (s : State) (plane : Nat) : Nat :=
  ((List.range 32).map fun i => (plane + i) % 32).find? (fun p => (s.port p).up) |>.getD plane

/-- The slots of a port that a partition owns: FBUF, 16 to 64 (18 R321). DESIGN CHOICE (log entry 84): a value outside counts
as the nearest one, so that a table never written gives 16. -/
def fbuf (s : State) (p : Nat) : Nat := max 16 (min 64 ((s.partEntry p).extractLsb' 88 8).toNat)

/-- The slots of a port that no partition owns, of 4,096. -/
def sharedSlots (s : State) : Nat := 4096 - (List.range 48).foldl (fun n p => n + s.fbuf p) 0

/-- The number that stands for the module itself where a partition is named: it owns no slots. -/
def noPart : Nat := 48

/-- The credit that a flit of a partition takes with the leaf of a port: of a reserved slot first, of a shared one only where
none of those is free; none where no slot is (23 R367). `some true` is a shared one. -/
def sendSlot (s : State) (p part : Nat) : Option Bool :=
  let used := (s.port p).credits
  if part < noPart && (used.filter fun u => u.2.1 = part && !u.2.2).length < s.fbuf part then some false
  else if (used.filter fun u => u.2.2).length < s.sharedSlots then some true
  else none

/-- A flit of a partition goes to a port: sent at once, or once the link, its replay buffer of 512 and the partition's credits
with the leaf take it (23 R366, R367). DESIGN CHOICE (log entry 84): the leaf returns a credit when it acknowledges the flit. -/
def sendFlit (s : State) (p part : Nat) : State :=
  let x := s.port p
  match if x.up && !x.training && x.replay.length < 512 then s.sendSlot p part else none with
  | some shared =>
    let first := x.replay.isEmpty
    let s := s.modPort p fun x => { x with
      nextSeq := (x.nextSeq + 1) % 4096, replay := x.replay ++ [(x.nextSeq, 0)], credits := x.credits ++ [(x.nextSeq, part, shared)]
      timer := if first then s.cycle else x.timer }
    if first then s.after usCycles .replayTimeout { id := p, len := s.cycle } else s
  | none => s.modPort p fun x => { x with backlog := x.backlog ++ [part] }

/-- Sends a message of a partition on the fabric: one flit on the plane of its line and peer (23 R365). -/
def sendFor (s : State) (part : Nat) (m : FabricMsg) : State :=
  let s := s.modFab fun f => { f with sent := m :: f.sent }
  match m.route with
  | none => s
  | some (peer, a) => s.sendFlit (s.planePort ((a / 128 % 32) ^^^ (peer % 32))) part

/-- Sends a message of the module itself. -/
def sendFabric (s : State) (m : FabricMsg) : State := s.sendFor noPart m

/-- Sends a message of a team: of its context's partition. -/
def sendBy (s : State) (n : Nat) (m : FabricMsg) : State := s.sendFor (s.ctx (s.team n).ctx).part m

/-- The table of outstanding transactions has room (23 R368). -/
def tableRoom (s : State) (c : Nat) : Bool := (s.core c).out.length < 256

/-- The core has a write of the line under way to a peer: another is sent once it is acknowledged, since the fabric may
pass it (07 R159, 23 R366). -/
def lineOut (s : State) (c line : Nat) : Bool := (s.core c).out.any fun x => x.waiters.isEmpty && x.line = line

/-- A thread has a peer write of the line under way (07 R159). -/
def ownOut (s : State) (t : Tid) (c line : Nat) : Bool :=
  (s.core c).out.any fun x => x.waiters.isEmpty && x.line = line && x.owners.contains t

/-- A write-combining entry can drain: the table has room (23 R369), and no write of its line is under way. -/
def wcReady (s : State) (c : Nat) (e : WcEntry) : Bool := s.tableRoom c && !s.lineOut c e.line

/-- A write-combining entry drains as one write of its masked bytes (23 R369). -/
def wcDrainEntry (s : State) (c : Nat) (e : WcEntry) : State :=
  if !s.wcReady c e then s
  else
    let s := s.modCore c fun k => { k with wc := k.wc.filter fun x => x != e }
    let (s, _) := s.openTxn c e.line [] e.writers e.va false false
    let bytes := e.bytes.map fun b => (b.off, b.val)
    s.sendBy ((e.writers.map fun t => t.team).headD 0) (.write (keyPeer (e.line * 128)) (keyPa (e.line * 128) / 128) bytes)

/-- Drains the write-combining entries that `p` selects, oldest first, as far as the table has room. -/
def wcDrain (s : State) (c : Nat) (p : WcEntry → Bool) : State :=
  ((s.core c).wc.filter p).foldl (fun s e => s.wcDrainEntry c e) s

/-- The thread has stored to the write-combining entry. -/
def wcOwn (t : Tid) (e : WcEntry) : Bool := e.writers.contains t

/-- The bytes of a line that the buffer holds for a context, by key (23 R369). -/
def wcBytes (s : State) (c ctx line : Nat) : List (Nat × Byte) := match (s.core c).wc.find? fun e => e.line = line with
  | some e => (e.bytes.filter fun b => (s.team b.by_.team).ctx = ctx).map fun b => (line * 128 + b.off, b.val)
  | none => []

/-- A peer store enters the write-combining buffer of 64 entries (23 R369). It is not taken where no entry is free and
the oldest cannot drain. -/
def wcStore (s : State) (t : Tid) (c line : Nat) (va : DWord) (bytes : List (Nat × Byte)) : State × Bool :=
  let mine := fun (e : WcEntry) => e.line = line
  let new := bytes.map fun b => (⟨b.1 % 128, b.2, t, none⟩ : SbByte)
  let merge := fun (e : WcEntry) => { e with bytes := e.bytes.filter (fun b => !(new.any fun n => n.off = b.off)) ++ new
                                             writers := distinct (e.writers ++ [t]) }
  let s : State := if (s.core c).wc.any mine || (s.core c).wc.length < 64 then s
    else match (s.core c).wc.head? with
      | some e => s.wcDrainEntry c e
      | none => s
  if (s.core c).wc.any mine then
    let s := s.modCore c fun k => { k with wc := k.wc.map fun e => if mine e then merge e else e }
    (s.wcDrain c fun e => mine e && coversLine (e.bytes.map fun b => (b.off, b.val)), true)
  else if (s.core c).wc.length < 64 then
    let line_va := va &&& ~~~(127 : DWord)
    let s := s.modCore c fun k => { k with wc := k.wc ++ [⟨line, line_va, s.cycle, new, [t]⟩] }
    (s.after (2 * usCycles) .wcDrain { core := c, addr := line }, true)
  else (s, false)

/-! ### Posted writes of the module itself (23 R360) -/

/-- A posted write of the module leaves by the host port, or waits at the agent while its line is locked. -/
def postHost (s : State) (w : Posted) : State :=
  if s.host.locks.any fun l => keyPa (l.1 * 128) = w.addr then s.modHost fun h => { h with held := h.held ++ [w] }
  else s.modHost fun h => { h with posted := h.posted ++ [w] }

/-- A line is unlocked: posted writes that waited for it leave, and buffered stores to it drain. -/
def unlockLine (s : State) (line : Nat) : State :=
  let mine := fun (w : Posted) => w.addr = keyPa (line * 128)
  (s.modHost fun h => { h with posted := h.posted ++ h.held.filter mine, held := h.held.filter fun w => !mine w }).drainLater
    fun l => l = line

/-! ### Releases (07 R177) -/

/-- The thread has a write or delivery that a release of team scope awaits: a store in its buffer, an unacknowledged
write, a delivery on its way, a peer store or its transaction. -/
def teamPending (s : State) (t : Tid) : Bool :=
  let k := s.core (s.coreNum t)
  k.sb.any (ownEntry t) || k.unacked.any (fun u => u.owners.contains t) ||
  s.home.flights.any (fun f => f.t.team = t.team && f.t.grp = t.grp) || k.wc.any (wcOwn t) ||
  k.out.any (fun x => x.waiters.isEmpty && x.owners.contains t)

/-- The release writes back the private copy: one of the thread's cluster; at the end of a task (6) not one whose unit the task's
own claims keep from being copied, which its commit does (25 R381). -/
def releasesBack (s : State) (t : Tid) (scope cl : Nat) (p : PrivCopy) : Bool :=
  cl = (s.team t.team).cluster && !(scope = 6 && s.unitOwn t.team (p.line * 128) && s.backCopies cl p)

/-- A dirty private copy that the release writes back cannot be written home now (11 R247, 25 R381). -/
def backsBlocked (s : State) (t : Tid) (scope : Nat) : Bool :=
  let cl := (s.team t.team).cluster
  (s.cluster cl).privs.any fun p => s.releasesBack t scope cl p && s.backBlocked cl p

/-- What a release of the scope still awaits: 1 group, 2 team, 3 cluster, 4 device, 5 system, 6 device at the end of a task. -/
def releasePending (s : State) (t : Tid) (scope : Nat) : Bool :=
  let k := s.core (s.coreNum t)
  if scope ≤ 1 then k.sb.any (ownEntry t)
  else s.teamPending t || (scope = 5 && (!k.wc.isEmpty || !k.out.isEmpty)) || (4 ≤ scope && s.backsBlocked t scope)

/-- The release can do something now: an entry of the write-combining buffer could drain. -/
def releaseCanDrain (s : State) (t : Tid) (scope : Nat) : Bool :=
  let c := s.coreNum t
  2 ≤ scope && (s.core c).wc.any (fun e => (scope = 5 || wcOwn t e) && s.wcReady c e)

/-- What a release comes to. -/
inductive Released where
  | done (s : State)
  | wait (s : State) (w : Wait)
  | trap (s : State) (r : Request)

/-- A release of a scope by a thread (07 R177, 23 R370): what it needs drained drains; a team with the lost flag traps
LINK_LOST with an address the spec does not state (log entry 14); device scope writes the cluster's dirty private
copies home; then it is done once nothing is awaited. -/
def release (s : State) (t : Tid) (scope : Nat) : Released :=
  let c := s.coreNum t
  if 2 ≤ scope ∧ (s.team t.team).lost = true then
    let (x, s) := s.draw (2 ^ 64)
    .trap (s.modTeam t.team fun m => { m with lost := false }) (Request.of .linkLost (BitVec.ofNat 64 x))
  else
    let s := s.drainWhere c (ownEntry t)
    let s : State := if 2 ≤ scope then s.wcDrain c fun e => scope = 5 || wcOwn t e else s
    let (s, f) := if 4 ≤ scope then s.writeBackAll (s.releasesBack t scope) true else (s, .ok)
    match f with
    | .fault r => .trap s r
    | .busy cl _ => .wait (s.askBack cl f) (.release scope)
    | .claimed _ => .wait s (.release scope)
    | .ok =>
      if s.releasePending t scope then .wait s (.release scope)
      else .done (if scope = 5 then s.modThread t fun x => { x with sysRel := true } else s)

end State

/-- The scope that rm names; absent means device (04 R72). -/
def scopeOf (rm : Nat) : Nat := if rm = 0 then 4 else rm

end Sys2Proof.Machine
end

