-- ==== Sys2Proof/Machine/Commons.lean ====
section
/-! DEFINITION. Objects, brands and the commons (21): the domain table, the directory of an object's home, the commons
entries in device memory, heap and tether placement, eviction, and acquiring an object for an access or an LDP. -/

namespace Sys2Proof.Machine

/-- A domain entry (21 R342). -/
structure Domain where
  dirn : Nat
  heap : Nat
  dir : Nat
  heapsz : Nat
  peer : Nat
  home : Nat
  ctx : Nat
  all : Bool
  ok : Bool

/-- Reads a domain entry; `ok` is V with HOME in 0 to 2 and no reserved bit set (21 R342, R344). -/
def Domain.of (e : BitVec 512) : Domain :=
  { dirn := (e.extractLsb' 272 48).toNat, heap := (e.extractLsb' 192 64).toNat, dir := (e.extractLsb' 128 64).toNat,
    heapsz := (e.extractLsb' 96 32).toNat, peer := (e.extractLsb' 19 13).toNat, home := (e.extractLsb' 17 2).toNat,
    ctx := (e.extractLsb' 5 12).toNat, all := e.getLsbD 4,
    ok := e.getLsbD 0 && e.extractLsb' 17 2 != 3 && e.extractLsb' 320 192 == 0 && e.extractLsb' 256 16 == 0 &&
          e.extractLsb' 32 64 == 0 && e.extractLsb' 1 3 == 0 }

/-- A directory entry of an object's home (21 R343). -/
structure DirEntry where
  version : Nat
  sizem1 : Nat
  addr : Nat
  ok : Bool

/-- Reads a directory entry; `ok` is V with no reserved bit set (21 R343, R344). -/
def DirEntry.of (e : BitVec 256) : DirEntry :=
  { version := (e.extractLsb' 224 32).toNat, sizem1 := (e.extractLsb' 168 44).toNat, addr := (e.extractLsb' 0 64).toNat,
    ok := e.getLsbD 212 && e.extractLsb' 213 11 == 0 && e.extractLsb' 64 104 == 0 }

/-- A commons entry (21 R345). STATE: 0 absent, 1 fetching, 2 resident, 3 leaving. -/
structure CEntry where
  ident : BitVec 63
  gen : BitVec 16
  version : Nat
  ctx : Nat
  st : Nat
  home : Nat
  sizem1 : Nat
  base : BitVec 48
  haddr : Nat
  back : Nat
  peer : Nat
  used : Bool
  deriving DecidableEq

/-- Reads a commons entry (21 R345). -/
def CEntry.of (e : BitVec 512) : CEntry :=
  { ident := e.extractLsb' 449 63, gen := e.extractLsb' 432 16, version := (e.extractLsb' 400 32).toNat,
    ctx := (e.extractLsb' 388 12).toNat, st := (e.extractLsb' 386 2).toNat, home := (e.extractLsb' 384 2).toNat,
    sizem1 := (e.extractLsb' 340 44).toNat, base := e.extractLsb' 272 48, haddr := (e.extractLsb' 192 64).toNat,
    back := (e.extractLsb' 128 64).toNat, peer := (e.extractLsb' 115 13).toNat, used := e.getLsbD 0 }

/-- The 64 bytes of a commons entry (21 R345). -/
def CEntry.bytes (e : CEntry) : List Byte :=
  leBytes 64 (fields [(449, e.ident.toNat), (432, e.gen.toNat), (400, e.version), (388, e.ctx), (386, e.st),
    (384, e.home), (340, e.sizem1), (272, e.base.toNat), (192, e.haddr), (128, e.back), (115, e.peer),
    (0, e.used.toNat)])

/-- An object's base address. -/
def CEntry.baseVa (e : CEntry) : Nat := e.base.toNat * 65536
/-- An object's size in bytes. -/
def CEntry.size (e : CEntry) : Nat := e.sizem1 + 1
/-- The entry holds heap space and a tether range. -/
def CEntry.live (e : CEntry) : Bool := e.used && e.st != 0

/-- 64 KiB pages that hold `n` bytes. -/
def pagesOf (n : Nat) : Nat := (n + 65535) / 65536

/-- The first slot of an identity's search (21 R346). -/
def commonsSlot (ident : BitVec 63) (ctx : Nat) : Nat :=
  (ident.toNat % 2 ^ 22) ^^^ (ident.toNat / 2 ^ 22 % 2 ^ 22) ^^^ (ident.toNat / 2 ^ 44) ^^^ ctx

/-- What needing an object comes to. -/
inductive Obtained where
  | ready (slot : Nat)
  /-- an entry that is fetching, or leaving -/
  | wait (slot : Nat) (fetch : Bool)
  /-- the directory entry at the peer that is the home is being read -/
  | reading
  | unknown
  /-- TETHER_MISS: the host is the home, or (`full`) no entry, heap run or tether range can be had -/
  | miss (full : Bool)
  deriving DecidableEq

namespace State

/-- The commons entry in a slot. -/
def cEntry (s : State) (slot : Nat) : CEntry :=
  CEntry.of (BitVec.ofNat 512 (s.dev (s.mgmt.commonsBase.toNat + 64 * slot) 64))

/-- Writes a commons entry at device scope (21 R347). -/
def setCEntry (s : State) (slot : Nat) (e : CEntry) : State :=
  s.deviceWrite (s.mgmt.commonsBase.toNat + 64 * slot) e.bytes

/-- The slots with USED = 1. -/
def usedSlots (s : State) : List Nat :=
  let b := s.mgmt.commonsBase.toNat
  s.mem.filterMap fun c =>
    if b ≤ c.1 ∧ c.1 < b + 2 ^ 28 ∧ (c.1 - b) % 64 = 0 ∧ c.2.getLsbD 0 = true then some ((c.1 - b) / 64) else none

/-- The entry of an identity in a context (21 R346). -/
def findEntry (s : State) (ctx : Nat) (ident : BitVec 63) : Option Nat :=
  let i0 := commonsSlot ident ctx
  ((List.range 64).map (fun i => (i0 + i) % 2 ^ 22)).find? fun n =>
    let e := s.cEntry n
    e.used && e.ident = ident && e.ctx = ctx

/-- The slot a new entry takes: the first unused of the 64, otherwise the first absent (21 R346). -/
def newSlot (s : State) (ctx : Nat) (ident : BitVec 63) : Option Nat :=
  let i0 := commonsSlot ident ctx
  let slots := (List.range 64).map (fun i => (i0 + i) % 2 ^ 22)
  match slots.find? (fun n => !(s.cEntry n).used) with
  | some n => some n
  | none => slots.find? (fun n => (s.cEntry n).st = 0)

/-- The resident object of the context that holds `n` bytes at a tether-space address (18 R312, 21 R350). -/
def objectAt (s : State) (ctx va n : Nat) : Option (Nat × CEntry) :=
  (s.usedSlots.map (fun k => (k, s.cEntry k))).find? fun p =>
    p.2.ctx = ctx && p.2.st = 2 && p.2.baseVa ≤ va && va + n ≤ p.2.baseVa + p.2.size

/-- The words of an identity's domain entry (21 R342). -/
def domainBits (s : State) (ident : BitVec 63) : BitVec 512 :=
  BitVec.ofNat 512 (s.dev (s.mgmt.domTab.toNat + 64 * (ident.toNat / 2 ^ 48)) 64)

/-- The domain entry of an identity as the table holds it. -/
def domainOf (s : State) (ident : BitVec 63) : Domain := Domain.of (s.domainBits ident)

/-- The domain entry that the commons entry in a slot was created under: a change of the table does not reach it (21
R342). -/
def slotDomain (s : State) (slot : Nat) (ident : BitVec 63) : BitVec 512 :=
  match s.home.domains.find? fun p => p.1 = slot with
  | some p => p.2
  | none => s.domainBits ident

/-- The context may use the domain and the serial is known (21 R344). -/
def domainKnown (s : State) (ctx : Nat) (ident : BitVec 63) : Bool :=
  let d := s.domainOf ident
  d.ok && (d.all || d.ctx = ctx) && ident.toNat % 2 ^ 48 < d.dirn

/-- Where an identity's directory entry lies at its home (21 R343). -/
def dirAt (d : Domain) (ident : BitVec 63) : Nat := d.dir + 32 * (ident.toNat % 2 ^ 48)

/-- The pool location of a pool physical address. -/
def poolKey (a : Nat) : Nat := 2 ^ 48 + a % 2 ^ 48

/-- The directory entry of a pool-homed object; none where it faults on read (21 R343, R344). -/
def poolDir (s : State) (d : Domain) (ident : BitVec 63) : Option (BitVec 256) :=
  let k := poolKey (dirAt d ident)
  if (s.lateFault ⟨1, 0, keyPa k, false⟩ 0 true).isSome then none else some (BitVec.ofNat 256 (s.mem.le k 32))

/-! ### Heap and tether space (21 R348 to R350) -/

/-- The pages of a heap that ends at `stop` that are free from `back` on: up to the next object. -/
def freeFrom (s : State) (stop back : Nat) : Nat :=
  if s.home.runs.any fun r => r.back < back + 65536 && back < r.back + r.pages * 65536 then 0
  else (s.home.runs.foldl (fun m r => if back ≤ r.back then min m r.back else m) stop - back) / 65536

/-- The free runs of a heap, rising: base and pages. Each starts at the heap or behind an object. -/
def freeRuns (s : State) (heap size : Nat) : List (Nat × Nat) :=
  let stop := heap + size * 65536
  let ends := (s.home.runs.map fun r => r.back + r.pages * 65536).filter fun x => heap ≤ x && x < stop
  let starts := sortBy id (distinct (heap :: ends.map fun x => heap + (x - heap + 65535) / 65536 * 65536))
  (starts.map fun b => (b, s.freeFrom stop b)).filter fun r => 0 < r.2

/-- The first run of free pages in a heap, first fit (21 R349). -/
def firstFit (s : State) (heap size pages : Nat) : Option Nat :=
  ((s.freeRuns heap size).find? fun r => pages ≤ r.2).map fun r => r.1

/-- The longest run of free pages in a heap, the lowest of equals (21 R348). -/
def longestRun (s : State) (heap size : Nat) : Nat × Nat :=
  (s.freeRuns heap size).foldl (fun best r => if best.2 < r.2 then r else best) (heap, 0)

/-- The object's pages hold a claimed granule (21 R351). -/
def runClaimed (s : State) (r : ObjRun) : Bool :=
  s.home.claims.any fun c => r.back ≤ c.gran * 256 && c.gran * 256 < r.back + r.pages * 65536

/-- An object leaves (21 R351): STATE becomes leaving, and the write-back is under way. -/
def evict (s : State) (slot : Nat) : State :=
  let s := s.setCEntry slot { s.cEntry slot with st := 3 }
  s.soon (2 ^ 20) .evictionComplete { addr := slot }

/-- Makes room in a heap: an object already leaving is awaited, otherwise the least recently tethered resident object
leaves (21 R349). -/
def evictFor (s : State) (heap size : Nat) : Option (State × Nat) :=
  let inHeap := s.home.runs.filter fun r => heap ≤ r.back && r.back < heap + size * 65536
  match inHeap.find? (fun r => (s.cEntry r.slot).st = 3) with
  | some r => some (s, r.slot)
  | none =>
    match inHeap.find? (fun r => (s.cEntry r.slot).st = 2 && !s.runClaimed r) with
    | some r => some (s.evict r.slot, r.slot)
    | none => none

/-- The tether ranges a context's entries hold: base and end, each with its guard page (21 R350). -/
def heldRanges (s : State) (ctx : Nat) : List (Nat × Nat) :=
  s.home.runs.filterMap fun r =>
    let e := s.cEntry r.slot
    if e.ctx = ctx && e.live then some (e.baseVa, e.baseVa + (r.pages + 1) * 65536) else none

/-- A free tether range from `p` on (21 R350): held ranges are skipped; past the end it restarts once. -/
def tetherFrom (held : List (Nat × Nat)) (len : Nat) : Nat → Nat → Bool → Option Nat
  | 0, _, _ => none
  | fuel + 1, p, wrapped =>
    if 0x0000800000000000 < p + len then
      if wrapped then none else tetherFrom held len fuel 0x0000400000010000 true
    else match held.find? (fun r => r.1 < p + len && p < r.2) with
      | some r => tetherFrom held len fuel r.2 wrapped
      | none => some p

/-- Where an object of a number of pages is placed for a context, its guard page included (21 R350). -/
def tetherBase (s : State) (ctx pages : Nat) : Option Nat :=
  let held := s.heldRanges ctx
  tetherFrom held ((pages + 1) * 65536) (2 * held.length + 3) (s.ctx ctx).tetherPtr.toNat false

/-- Creates the entry of an object that has its place: fetching, with heap pages and a base, under its domain entry; the
pointer moves past the guard page (21 R342, R346, R350). -/
def placeEntry (s : State) (e : CEntry) (slot : Nat) (dom : BitVec 512) (pages : Nat) : State :=
  let s := s.setCEntry slot e
  let s := s.modHome fun h => { h with
    runs := h.runs ++ [⟨slot, e.back, pages, [], 0⟩]
    domains := h.domains.filter (fun p => p.1 != slot) ++ [(slot, dom)] }
  s.modCtx e.ctx fun c => { c with tetherPtr := BitVec.ofNat 64 (e.baseVa + (pages + 1) * 65536) }

/-- Makes room in a heap for an object that no free run holds (21 R348, R349). -/
def makeRoom (s : State) (d : Domain) : State × Obtained :=
  match s.evictFor d.heap d.heapsz with
  | some (s, v) => (s, .wait v false)
  | none => (s, .miss true)

/-- Places a host object: the longest free run, after eviction where no page is free (21 R348). -/
def placeHost (s : State) (e : CEntry) (slot : Nat) (dom : BitVec 512) : State × Obtained :=
  let d := Domain.of dom
  let (back, pages) := s.longestRun d.heap d.heapsz
  if pages = 0 then s.makeRoom d
  else match s.tetherBase e.ctx pages with
    | none => (s, .miss true)
    | some base => (s.placeEntry { e with base := BitVec.ofNat 48 (base / 65536), back := back } slot dom pages, .miss false)

/-- Places an object whose directory entry is known: first fit, eviction where no run fits; its fetch begins (21 R349; log
entry 13). -/
def placeKnown (s : State) (e : CEntry) (slot : Nat) (dom : BitVec 512) (f : DirEntry) : State × Obtained :=
  let d := Domain.of dom
  let pages := pagesOf (f.sizem1 + 1)
  match s.firstFit d.heap d.heapsz pages with
  | none => s.makeRoom d
  | some back => match s.tetherBase e.ctx pages with
    | none => (s, .miss true)
    | some base =>
      let s := s.placeEntry { e with base := BitVec.ofNat 48 (base / 65536), back := back, version := f.version,
                                     sizem1 := f.sizem1, haddr := f.addr } slot dom pages
      let (id, s) := s.newId
      let s := s.modHome fun h => { h with runs := h.runs.map fun r => if r.slot = slot then { r with fetch := id } else r }
      (if d.home = 1 then s.soon (2 ^ 20) .objectFetchComplete { addr := slot, id := id, ok := true }
        else s.sendFor (s.ctx e.ctx).part (.read d.peer f.addr (f.sizem1 + 1)), .wait slot true)

/-- What reading a directory entry comes to. -/
inductive DirAnswer where
  | entry (f : DirEntry)
  | reading
  | unknown

/-- A read of a directory entry at a peer is forgotten: what it answers no longer counts. -/
def forgetDir (s : State) (ctx : Nat) (ident : BitVec 63) : State :=
  if s.home.dirs.any fun r => r.ctx = ctx && r.ident = ident then
    s.modHome fun h => { h with dirs := h.dirs.filter fun r => !(r.ctx = ctx && r.ident = ident) }
  else s

/-- The entry of a directory at a peer is asked for. -/
def askDir (s : State) (ctx : Nat) (ident : BitVec 63) (dom : BitVec 512) : State :=
  let d := Domain.of dom
  let (id, s) := (s.forgetDir ctx ident).newId
  (s.modHome fun h => { h with dirs := h.dirs ++ [⟨id, ctx, ident, dom, none⟩] }).sendFor (s.ctx ctx).part
    (.read d.peer (dirAt d ident) 32)

/-- A thread waits for the directory entry. -/
def dirAwaited (s : State) (ctx : Nat) (ident : BitVec 63) : Bool :=
  ((List.range s.teams.length).flatMap s.tids).any fun t => (s.thread t).wait = .directory ctx ident

/-- The directory entry of an identity at its home: of a pool read at once; of a peer asked for, then answered, the answer being
used by those that waited for it under the same domain entry (21 R342 to R344; log entry 13). -/
def readDir (s : State) (ctx : Nat) (ident : BitVec 63) (dom : BitVec 512) : State × DirAnswer :=
  let d := Domain.of dom
  let judge := fun (x : Option (BitVec 256)) => match x with
    | some e => if (DirEntry.of e).ok then DirAnswer.entry (DirEntry.of e) else .unknown
    | none => .unknown
  if d.home = 1 then (s, judge (s.poolDir d ident))
  else match s.home.dirs.find? fun r => r.ctx = ctx && r.ident = ident && r.dom = dom with
    | none => (s.askDir ctx ident dom, .reading)
    | some r => match r.answer with
      | none => (s, .reading)
      | some x => if s.dirAwaited ctx ident then (s.forgetDir ctx ident, judge x) else (s.askDir ctx ident dom, .reading)

/-- An object that no entry holds, or an absent one, is brought in: its directory entry is judged before a slot is taken
(21 R344, R346, 07 R158). -/
def bringIn (s : State) (ctx : Nat) (ident : BitVec 63) (old : Option (Nat × BitVec 16)) (dom : BitVec 512) : State × Obtained :=
  let d := Domain.of dom
  let place := fun (s : State) (f : Option DirEntry) =>
    match old.orElse fun _ => (s.newSlot ctx ident).map fun n => (n, 0) with
    | none => (s, Obtained.miss true)
    | some (slot, gen) =>
      let e : CEntry := { ident := ident, gen := gen, version := 0, ctx := ctx, st := 1, home := d.home, sizem1 := 0,
                          base := 0, haddr := 0, back := 0, peer := if d.home = 2 then d.peer else 0, used := true }
      match f with
      | some f => s.placeKnown e slot dom f
      | none => s.placeHost e slot dom
  if d.home = 0 then place s none
  else match s.readDir ctx ident dom with
    | (s, .unknown) => (s, .unknown)
    | (s, .reading) => (s, .reading)
    | (s, .entry f) => place s (some f)

/-- The object of an identity is needed by a context (21 R344 to R350). -/
def obtainObject (s : State) (ctx : Nat) (ident : BitVec 63) : State × Obtained :=
  match s.findEntry ctx ident with
  | some slot =>
    let e := s.cEntry slot
    if e.st = 2 then (s, .ready slot)
    else if e.st = 1 then (s, if e.home = 0 then .miss false else .wait slot true)
    else if e.st = 3 then (s, .wait slot false)
    else s.bringIn ctx ident (some (slot, e.gen)) (s.slotDomain slot ident)
  | none => if s.domainKnown ctx ident then s.bringIn ctx ident none (s.domainBits ident) else (s, .unknown)

/-- A tether was made: the object is the most recently tethered (21 R349). -/
def tethered (s : State) (slot : Nat) : State :=
  s.modHome fun h => { h with runs := h.runs.filter (fun r => r.slot != slot) ++ h.runs.filter (fun r => r.slot = slot) }

/-- The tether is current (21 R352). -/
def tetherCurrent (s : State) (ctx : Nat) (a : AReg) : Option (Nat × CEntry) :=
  match s.findEntry ctx a.sh.ident with
  | some slot =>
    let e := s.cEntry slot
    if e.st = 2 && e.gen = a.sh.gen && e.base = a.sh.base then some (slot, e) else none
  | none => none

/-- The register re-tethered to a resident entry (07 R157). -/
def retether (e : CEntry) (a : AReg) : AReg :=
  { val := BitVec.ofNat 64 e.baseVa + (a.val - BitVec.ofNat 64 (a.sh.base.toNat * 65536)),
    sh := { a.sh with base := e.base, gen := e.gen } }

/-- The thread's register is re-tethered to the entry in a slot. -/
def retetherReg (s : State) (t : Tid) (n slot : Nat) : State :=
  let e := s.cEntry slot
  let s := s.modThread t fun x => { x with a := if n = 0 then x.a else Sp.set AReg.zero x.a n (retether e (x.areg n)) }
  s.tethered slot

/-- The request of TETHER_MISS (18 R318); KIND 6 where the commons has no room. -/
def missRequest (va : DWord) (ident : BitVec 63) (kind : ReqKind) (full : Bool) (reg : Nat) : Request :=
  ⟨.tetherMiss, va, if full then .commonsFull else kind, ident, reg⟩

end State

end Sys2Proof.Machine
end

