-- ==== Sys2Proof/Machine/Team.lean ====
section
/-! DEFINITION. Teams: what a team's threads hold when it starts (01 R10, R14), starting it on its core, work-graph bins
(17 R305, R306), and the cancelling of a team's engine work. -/

namespace Sys2Proof.Machine

/-- A thread at team start (01 R10, R14, 05 R121). -/
def freshThread (m : Team) (now : Nat) : Thread :=
  { Thread.none with
    present := true, pc := m.entry, region := m.entry, since := now
    a := Sp.set AReg.zero (Sp.set AReg.zero [] 2 ⟨BitVec.ofNat 64 windowBase, Tether.clear⟩) 1 ⟨m.args, Tether.clear⟩ }

/-- The uniform registers at team start: s1 to s15 from the parameters (01 R7). -/
def freshS : Nat → List Word → Sparse Word
  | _, [] => []
  | n, x :: l => if x = 0 then freshS (n + 1) l else (n, x) :: freshS (n + 1) l

/-- A group at team start (01 R14). -/
def freshGroup (m : Team) (now : Nat) : Group :=
  { s := freshS 1 (m.params.take 15), k := [], pend := [], threads := List.replicate m.width (freshThread m now) }

/-- A named barrier at team start: EXPECT is the threads in the team (01 R13). -/
def freshBarrier (m : Team) : Barrier := ⟨false, 0, BitVec.ofNat 12 (m.width * m.groups.length), 0⟩

/-- DLVREF with further refusals, saturating (01 R17). -/
def refusedAdd (x : Word) (k : Nat) : Word := BitVec.ofNat 32 (min 0xFFFFFFFF (x.toNat + k))

/-- A free convergence register (01 R12). -/
def JReg.free : JReg := ⟨0, 0, 0, .free⟩

namespace State

/-- A context's decode table as it stands in memory (04 R90, R91, 18 R310). -/
def readTable (s : State) (c : Nat) : List (BitVec 16) :=
  let a := s.dev (s.ctxRecord c + 20) 8
  if (List.range 3).any (fun i => lineOf a + i ≤ lineOf (a + 223) && s.poisoned (lineOf a + i)) then List.replicate 112 0
  else (List.range 112).map fun i => BitVec.ofNat 16 (s.dev (a + 2 * i) 2)

/-- The threads of a team that starts or resumes join the issue table at the end of the cycle, with every other thread that
arrives then (09 R212). -/
def joinTeam (s : State) (n : Nat) : State := (s.tids n).foldl (fun s t => s.join t (s.cycle + 1)) s

/-- Fetch on a core sees memory anew from a team's start or resume there (04 R92). -/
def dropCode (s : State) (c : Nat) : State := s.modCore c fun k => { k with code := [] }

/-- A team starts on its core with the contents of 01 R14; a node team's start acquires its batch (17 R307). DESIGN CHOICE
(log entry 73): the restart of a wounded team is such a start, also in that it reads the decode table anew (04 R91). A team that a system
report has halted stays halted (10 R225). -/
def startTeam (s : State) (n : Nat) : State :=
  let table := s.readTable (s.team n).ctx
  let s := s.dropCode (s.team n).core
  let s := s.modTeam n fun m =>
    { m with
      status := .resident, scratch := [], barriers := List.replicate 16 (freshBarrier m),
      jregs := List.replicate 8 JReg.free, slots := [], folds := [], taskEnded := false, emits := [], gates := [],
      gatesFull := false, dtab := table, dlvref := 0, since := s.cycle, request := Option.none,
      block := Option.none, lent := [], expired := false, fullSave := false, lost := false,
      groups := m.groups.map fun _ => freshGroup m s.cycle }
  let s := s.joinTeam n
  if (s.team n).node.isSome then s.acquire ⟨n, 0, 0⟩ 4 else s

/-! ### Bins (17 R305, R306) -/

/-- A field of a node descriptor (17 R303). -/
def nodeField (d : BitVec 1024) (lo len : Nat) : Nat := (d.extractLsb' lo len).toNat
def nodeCoal (d : BitVec 1024) : Nat := nodeField d 176 11
def nodeTimer (d : BitVec 1024) : Nat := nodeField d 192 10
def nodeRsize (d : BitVec 1024) : Nat := nodeField d 160 9

/-- The node of a context's loaded graph. -/
def node? (s : State) (c n : Nat) : Option Node := match (s.ctx c).graph with
  | some g => g.nodes[n]?
  | none => none

/-- Changes a node of a context's loaded graph. -/
def modNode (s : State) (c n : Nat) (f : Node → Node) : State :=
  s.modCtx c fun k => { k with graph := k.graph.map fun g => { g with nodes := modAt f n g.nodes } }

/-- The bin has a place beyond those reserved (17 R305). -/
def binRoom (k : Node) : Bool := k.bin.length + k.reserved < 4 * nodeCoal k.desc

/-- The bin with a record that has come now from a core: records that arrive together stand by rising core (17 R305). -/
def binWith (bin : List BinRec) (r : BinRec) : List BinRec :=
  bin.filter (fun x => x.since != r.since) ++ insertBy (fun x => x.core) r (bin.filter fun x => x.since = r.since)

/-- A record of a core enters a bin; an empty bin's timer starts; the engine may dispatch (17 R305, R306). -/
def enterBin (s : State) (c n core : Nat) (bytes : List Byte) : State :=
  match s.node? c n with
  | none => s
  | some k =>
    let first := k.bin.isEmpty
    let s := s.modNode c n fun k => { k with bin := binWith k.bin ⟨bytes, s.cycle, core⟩
                                             timer := if first then some s.cycle else k.timer }
    let s : State := if first then
        let (d, s) := s.draw (usCycles + 1)
        s.after (nodeTimer k.desc * usCycles + d) .nodeTimerExpiry { ctx := c, id := n, len := s.cycle }
      else s
    s.afterOnce 1 .nodeDispatch { ctx := c }

/-- Records held by a task are dropped and their places freed (08 R189, 17 R305). -/
def dropEmits (s : State) (n : Nat) : State :=
  let m := s.team n
  let s := m.emits.foldl (fun s e => s.modNode m.ctx e.node fun k => { k with reserved := k.reserved - 1 }) s
  s.modTeam n fun m => { m with emits := [] }

/-- Records held by a task pass to their bins in EMIT order (08 R186, R207). -/
def passEmits (s : State) (n : Nat) : State :=
  let m := s.team n
  let s := m.emits.foldl (fun s e =>
    (s.modNode m.ctx e.node fun k => { k with reserved := k.reserved - 1 }).enterBin m.ctx e.node m.core e.bytes) s
  s.modTeam n fun m => { m with emits := [] }

/-! ### Cancelling (08 R189) -/

/-- The team's copies and jobs are cancelled: no further write and no gate update; its waits outside are forgotten. -/
def cancelWork (s : State) (n : Nat) : State :=
  let c := (s.team n).core
  let mine : Option Copy → Bool := fun k => match k with
    | some x => x.t.team = n
    | none => false
  let s := s.modCore c fun k => { k with
    copyQ := k.copyQ.filter (fun x => x.t.team != n)
    eng0 := if mine k.eng0 then none else k.eng0
    eng1 := if mine k.eng1 then none else k.eng1
    jobs := k.jobs.filter (fun j => j.team != n)
    sfq := k.sfq.filter (fun e => e.t.team != n)
    out := k.out.map (fun x => if x.waiters.isEmpty then x else
      { x with waiters := x.waiters.filter (fun t => t.team != n), owners := x.owners.filter (fun t => t.team != n) }) }
  let freed := (s.host.locks.filter fun l => l.2.all fun t => t.team = n).map fun l => l.1
  let s := s.modHost fun h => { h with
    reqs := h.reqs.map fun (r : HostReq) => { r with waiters := r.waiters.filter fun t => t.team != n }
    locks := (h.locks.map fun (l : Nat × List Tid) => (l.1, l.2.filter fun t => t.team != n)).filter fun l => !l.2.isEmpty }
  let s := freed.foldl unlockLine s
  let gone := fun (who : Asker) => match who with
    | .engine d e => d = c && (if e = 0 then (s.core c).eng0 else (s.core c).eng1).isNone
    | _ => false
  let s := s.modHome fun h => { h with txns := h.txns.filter fun x => !gone x.who
                                       refused := h.refused.filter fun x => !gone x.who }
  let s := { s with
    prq := s.prq.map fun (e : PrqEntry) => { e with waiters := e.waiters.filter fun t => t.team != n }
    prqIn := s.prqIn.filter fun a => a.thr.isSome || 2 ≤ a.eng.2 || a.eng.1 != c || (if a.eng.2 = 0 then (s.core c).eng0 else (s.core c).eng1).isSome }
  (s.afterOnce 1 .copyStart { core := c }).afterOnce 1 .jobStart { core := c }

/-- The location of a plain virtual address for a context (08 R183, R195, 18 R312): mapped, or in a resident object. -/
def plainPhys (s : State) (core ctx va n : Nat) (need : Need) : State × Found :=
  match placeOf va with
  | .mapped => s.translate core ctx va need
  | .tether => match s.objectAt ctx va n with
    | some (_, e) => (s, .ok ⟨0, 0, e.back + (va - e.baseVa), false⟩ ⟨ctx, 0, 0, 0, 0⟩)
    | none => (s, .fault (Request.of .beyondObject (BitVec.ofNat 64 va)))
  | _ => (s, .fault (Request.of .accessViolation (BitVec.ofNat 64 va)))

end State

end Sys2Proof.Machine
end

