-- ==== Sys2Proof/Machine/Fold.lean ====
section
/-! DEFINITION. Folds (08 R182 to R189, 11 R248 to R250, 12 R255 to R258, 25 R381 to R385): touching a fold, claims and
their grants, tentative lines and their overflow, commit, wounds and restarts, age. -/

namespace Sys2Proof.Machine

/-- Stamp `x` is older than stamp `y` (08 R188). -/
def older (x y : DWord) : Bool :=
  let d := x.extractLsb' 20 44 - y.extractLsb' 20 44
  if d = 0 then (x.extractLsb' 0 20).toNat < (y.extractLsb' 0 20).toNat else 2 ^ 43 ≤ d.toNat

/-- The range holds a byte of `[va, va + n)`. -/
def FoldRange.meets (r : FoldRange) (va n : Nat) : Bool := r.base.toNat < va + n && va < r.base.toNat + r.len.toNat

/-- The 64 KiB pages a range reaches, rising. -/
def FoldRange.pages (r : FoldRange) : List Nat :=
  let lo := r.base.toNat / 65536
  (List.range ((r.base.toNat + r.len.toNat - 1) / 65536 + 1 - lo)).map fun i => (lo + i) * 65536

/-- A granule on a peer module (25 R383); group pages never become granules of a fold. -/
def remoteGran (g : Nat) : Bool := keyTgt (g * 256) = 3

/-- A numbered entry of an association list. -/
def assoc {α : Type} (l : List (Nat × α)) (n : Nat) : Option α := (l.find? fun p => p.1 = n).map fun p => p.2
/-- Replaces a numbered entry of an association list kept in rising order. -/
def assocSet {α : Type} (l : List (Nat × α)) (n : Nat) (x : α) : List (Nat × α) :=
  insertBy (fun p => p.1) (n, x) (l.filter fun p => p.1 != n)

/-- A result that may be a fault. -/
inductive Checked (α : Type) where
  | ok (x : α)
  | bad (r : Request)

namespace State

/-! ### The granules of a fold (08 R183, R184) -/

/-- The fault of the lowest of `n` addresses at which one arises (08 R183, R184). -/
def firstFault (s : State) (core ctx va n : Nat) (other : Request) : Request :=
  ((List.range n).findSome? fun i => match (s.plainPhys core ctx (va + i) 1 Need.load).2 with
    | .fault r => some r
    | _ => none).getD other

/-- Translates the pages of fold ranges as reads in rising order (08 R183, R184): the granules their bytes claim, or the
first fault; a host window is FOLD_MISUSE, a group page, which no read accepts, ACCESS_VIOLATION (23 R371). -/
def foldGrans (s : State) (core ctx : Nat) (rs : List FoldRange) : State × Checked (List Nat) :=
  let pages := sortBy id (distinct (rs.flatMap FoldRange.pages))
  pages.foldl (fun acc page => match acc.2 with
    | .bad r => (acc.1, .bad r)
    | .ok gs =>
      -- the bytes of the page that ranges reach, by granule
      let vas := ((List.range 256).map fun i => page + 256 * i).filter fun g => rs.any fun r => r.meets g 256
      let first := vas.map fun g => (rs.filter fun r => r.meets g 256).foldl (fun m r => min m (max g r.base.toNat)) (g + 255)
      let extent := vas.zip first
      (extent.foldl (fun acc p => match acc.2 with
        | .bad r => (acc.1, .bad r)
        | .ok gs =>
          let last := (rs.filter fun r => r.meets p.1 256).foldl (fun m r => max m (min (p.1 + 255) (r.base.toNat + r.len.toNat - 1))) p.2
          match acc.1.plainPhys core ctx p.2 (last + 1 - p.2) Need.load with
          | (s', .fault r) => (s', .bad (s'.firstFault core ctx p.2 (last + 1 - p.2) r))
          | (s', .ok q _) =>
            if q.tgt = 2 then (s', .bad (Request.of .foldMisuse (BitVec.ofNat 64 p.2)))
            else if q.tgt = 3 ∧ 2 ^ 47 ≤ q.pa then (s', .bad (Request.of .accessViolation (BitVec.ofNat 64 p.2)))
            else (s', .ok (granOf q.key :: gs))) (acc.1, .ok gs)))
    (s, .ok [])

/-- The fold slots of the team that an access reaches and that are not held. -/
def slotsReached (s : State) (n va len : Nat) : List Nat :=
  ((s.team n).folds.filter fun p => p.2.st != .held && p.2.ranges.any fun r => r.meets va len).map fun p => p.1

/-- The access reaches a range of a fold of the team. -/
def inFold (s : State) (n va len : Nat) : Bool := (s.team n).folds.any fun p => p.2.ranges.any fun r => r.meets va len

/-- Changes a fold slot of a team. -/
def modFold (s : State) (n slot : Nat) (f : FoldSlot → FoldSlot) : State :=
  s.modTeam n fun m => { m with folds := m.folds.map fun p => if p.1 = slot then (p.1, f p.2) else p }

/-! ### Claims (08 R184, 11 R248) -/

/-- What granting a claim, or requesting the granules of a fold, comes to. -/
inductive Claiming where
  | held
  /-- the unit of the granule has moved to its copy (25 R379): the request is to be made there -/
  | moved
  /-- an answer or a release is awaited -/
  | waits
  /-- a private copy of the granule cannot be written back -/
  | fault (r : Request)
  /-- SYNC is awaited (26 R395) -/
  | sync
  /-- a route to the peer is awaited (25 R385) -/
  | route
  deriving DecidableEq, Repr

/-- A store-buffer entry holds stores of the task's threads that must reach the home before its claim of the granule (07 R159):
stores to it, and in its unit such as wait for a copy of it (25 R381). -/
def ownBehind (n gran : Nat) (e : SbEntry) : Bool :=
  e.bytes.any fun b => b.by_.team = n && (e.line / 2 = gran || (b.cow.isSome && e.line / 512 = gran / 256))

/-- Private copies that are written back before a granule is claimed (11 R248): those of its lines and, where no granule of its
unit is claimed yet, those whose write-back copies the unit, which a claim would hold back (25 R379, R381). DESIGN CHOICE (log
entry 78): these others leave their slice at this moment. -/
def beforeClaim (s : State) (gran : Nat) (cl : Nat) (p : PrivCopy) : Bool :=
  p.line / 2 = gran || (p.line / 512 = gran / 256 && (s.unitClaim (gran * 256)).isNone && s.backCopies cl p)

/-- The claim is asked for again after 64 cycles. -/
def claimAgain (s : State) (gran : Nat) : State × Claiming := (s.after 64 .claimGrant { addr := gran }, .waits)

/-- A claim is granted (11 R248): the task's own buffered stores reach the home first (07 R159), private copies of the
granule's lines are written back and dropped, given copies are invalidated, migrated lines return home. A home with a
transaction in progress for one of the lines refuses it (R247); without a page or a log entry for the copy of a unit (25 R380)
nothing is granted. -/
def grantClaim (s : State) (n gran : Nat) : State × Claiming :=
  let lines := [gran * 2, gran * 2 + 1]
  let c := (s.team n).core
  let s := s.drainWhere c (ownBehind n gran)
  if (s.core c).sb.any (ownBehind n gran) then s.claimAgain gran
  else match lines.find? fun l => s.lineTaken (.claim gran) l || s.backingOff (.claim gran) l with
    | some l => if s.backingOff (.claim gran) l then (s, .waits) else (s.refuseTo (.claim gran) l .claimGrant { addr := gran }, .waits)
    | none =>
      let folds := (s.team n).folds
      match s.writeBackAll (s.beforeClaim gran) false with
      | (s, .fault r) => (s, .fault r)
      | (s, .busy cl l) => (s.askBack cl (.busy cl l)).claimAgain gran
      | (s, .claimed _) => s.claimAgain gran
      | (s, .ok) =>
        if (s.team n).folds != folds then (s, .moved)
        else
          let s := lines.foldl (fun s l => (((s.granted (.claim gran) l).endGiven none l).l2Move l (s.homeSlice (l * 128)))) s
          (s.modHome fun h => { h with
            claims := insertBy (fun c => c.gran) ⟨gran, n, false⟩ h.claims
            wants := h.wants.filter fun w => !(w.gran = gran && w.team = n)
            fwd := h.fwd.filter fun f => f.line / 2 != gran }, .held)

/-- The task waits for the granule. -/
def want (s : State) (n slot gran : Nat) : State :=
  if s.home.wants.any fun w => w = ⟨gran, n, slot⟩ then s
  else s.modHome fun h => { h with wants := h.wants ++ [⟨gran, n, slot⟩] }

/-- A task can be wounded: it has not ended and is not past the decision of its commit (08 R186, R189, 25 R384). -/
def woundable (s : State) (n : Nat) : Bool :=
  let m := s.team n
  !m.taskEnded && m.status != .ended && !(s.fab.decisions.any fun d => d.team = n && d.decided)

/-- No older task, of this module or of a peer, waits for the granule (08 R184, 25 R383); without SYNC no peer's request can be
granted, and none holds a local one back (26 R395). -/
def firstInLine (s : State) (n gran : Nat) : Bool :=
  !(s.home.wants.any fun w => w.gran = gran && w.team != n && older (s.team w.team).age (s.team n).age) &&
  !(s.time.sync && s.fab.asked.any fun w => w.gran = gran && older w.age (s.team n).age)

/-- The number that stands for a peer's task among the holders of claims: the peer's number above every team's. -/
def remoteTeam (peer : Nat) : Nat := 2 ^ 32 + peer
/-- The holder of a claim is a peer's task. -/
def remoteHolder (team : Nat) : Bool := 2 ^ 32 ≤ team

/-- A younger task on a peer that holds the granule is wounded there (08 R184, 25 R383). -/
def woundRemote (s : State) (age : DWord) (gran : Nat) : State :=
  match s.fab.given.find? fun l => l.gran = gran with
  | some l => if older age l.age && !l.committing then s.sendFabric (.wound l.holder gran) else s
  | none => s

/-- A module can be reached: a port is up, and it has not been removed from the fabric (25 R384, R385). -/
def routeTo (s : State) (peer : Nat) : Bool :=
  (List.range 32).any (fun p => (s.port p).up) && !s.fab.removed.contains peer

/-- The task requests a granule of its own module (08 R184): a free one is claimed, a younger holder is wounded, an older one
awaited. -/
def claimHere (s : State) (n slot g : Nat) : State × Claiming :=
  match s.claimOf g with
  | none =>
    if s.firstInLine n g then match s.grantClaim n g with
      | (s, .waits) => (s.want n slot g, .waits)
      | x => x
    else (s.want n slot g, .waits)
  | some c =>
    let s := s.want n slot g
    if remoteHolder c.team then (s.woundRemote (s.team n).age g, .waits)
    else if older (s.team n).age (s.team c.team).age && s.woundable c.team then (s.afterOnce 1 .wound { team := c.team }, .waits)
    else (s, .waits)

/-- The task asks a peer for a granule (25 R383), with SYNC (26 R395) and, once a lapse has wounded it, a route (R385). -/
def claimThere (s : State) (n slot g : Nat) : State × Claiming :=
  if !s.time.sync then (s, .sync)
  else if s.home.wants.any fun w => w = ⟨g, n, slot⟩ then (s, .waits)
  else if (s.team n).lapses != 0 && !s.routeTo (keyPeer (g * 256)) then (s, .route)
  else ((s.want n slot g).sendBy n
    (.claim (keyPeer (g * 256)) (keyPa (g * 256) / 256) (s.team n).age), .waits)

/-- The granules of a fold slot. -/
def slotGrans (s : State) (n slot : Nat) : List Nat := match assoc (s.team n).folds slot with
  | some f => f.grans
  | none => []

/-- The task requests the granules of a slot in order, as far as they are granted (08 R184). -/
def advance (s : State) (n slot : Nat) : Nat → State × Claiming
  | 0 => (s, .waits)
  | fuel + 1 => match (s.slotGrans n slot).find? fun g => !s.holds n g with
    | none => (s, .held)
    | some g => match (if remoteGran g then s.claimThere n slot g else s.claimHere n slot g) with
      | (s, .held) | (s, .moved) => s.advance n slot fuel
      | x => x

/-- The requests of a claiming slot go on; the slot is held once every granule is. -/
def advanceSlot (s : State) (n slot : Nat) : State × Claiming :=
  match s.advance n slot (2 * (s.slotGrans n slot).length + 1) with
  | (s, .held) => (s.modFold n slot fun f => { f with st := .held }, .held)
  | x => x

/-- As `advanceSlot`, by an event: where more is needed than an answer, the threads that wait for the claim look again. -/
def advanceLater (s : State) (n slot : Nat) : State :=
  match assoc (s.team n).folds slot with
  | some f =>
    if f.st != .claiming then s
    else match s.advanceSlot n slot with
      | (s, .held) | (s, .waits) | (s, .moved) => s
      | (s, _) => ((s.tids n).filter fun t => (s.thread t).wait = .claim slot).foldl
          (fun s t => s.modThread t fun x => { x with wait := .none }) s
  | none => s

/-- What a touch comes to. -/
inductive Touch where
  | ok (s : State)
  | hold (s : State) (w : Wait)
  | fault (s : State) (r : Request)

/-- The claims of a slot are asked for by a touching thread; the grant is an acquire (12 R258). -/
def touchClaims (s : State) (t : Tid) (slot : Nat) : Touch :=
  match s.advanceSlot t.team slot with
  | (s, .held) => .ok (s.acquire t 4)
  | (s, .waits) | (s, .moved) => .hold s (.claim slot)
  | (s, .fault r) => .fault s r
  | (s, .sync) => .hold s .sync
  | (s, .route) => .hold s (.route slot)

/-- An access touches a fold that is not held (08 R184, 12 R258, 25 R385, 26 R395). -/
def touchSlot (s : State) (t : Tid) (va slot : Nat) : Touch :=
  let n := t.team
  let m := s.team n
  match assoc m.folds slot with
  | none => .ok s
  | some f =>
    if f.st = .held then .ok s
    else if f.st = .claiming then
      if f.grans.any remoteGran && !s.time.sync then .hold s .sync else s.touchClaims t slot
    else match s.foldGrans m.core m.ctx f.ranges with
      | (s', .bad r) => .fault s' r
      | (s', .ok gs) =>
        let gs := sortBy id (distinct gs)
        let far := gs.any remoteGran
        if far && 3 ≤ m.lapses then
          .fault (s'.modTeam n fun m => { m with lapses := 0 }) (Request.of .linkLost (BitVec.ofNat 64 va))
        else if far && !s.time.sync then .hold s .sync
        else (s'.modFold n slot fun f => { f with st := .claiming, grans := gs }).touchClaims t slot

/-- An access of a thread to `[va, va + len)` touches the folds it reaches, slot by slot (08 R184). -/
def touch (s : State) (t : Tid) (va len : Nat) : Touch :=
  match s.slotsReached t.team va len with
  | [] => match (s.thread t).wait with
    | .claim _ => .ok (s.acquire t 4)
    | _ => .ok s
  | slots => slots.foldl (fun acc slot => match acc with
    | .ok s => s.touchSlot t va slot
    | x => x) (.ok s)

/-! ### Tentative lines (08 R185, 11 R249, R250) -/

/-- The task's shadow line. -/
def shadow? (s : State) (n line : Nat) : Option ShadowLine := s.home.shadows.find? fun x => x.team = n && x.line = line

/-- A byte as the task sees it over the committed one. -/
def shadowByte (s : State) (n key : Nat) (committed : Byte) : Byte :=
  match s.shadow? n (lineOf key) with
  | some x => if x.mask.getLsbD (key % 128) then lineByte x.data (key % 128) else committed
  | none => committed

/-- The shadow lines that share a line's set and are in the shadow ways. -/
def setShadows (s : State) (line : Nat) : List ShadowLine :=
  s.home.shadows.filter fun x => !x.undo && s.homeSlice (x.line * 128) = s.homeSlice (line * 128) &&
    l2Set x.line = l2Set line

/-- Lines that fit a context's undo area (11 R249). -/
def undoLines (s : State) (c : Nat) : Nat := (s.ctx c).undosz.toNat * 512

/-- Shadow lines of a context's tasks in its undo area. -/
def undoUsed (s : State) (c : Nat) : Nat := (s.home.shadows.filter fun x => x.undo && (s.team x.team).ctx = c).length

/-- A context's undo area has room. -/
def undoRoom (s : State) (c : Nat) : Bool := s.undoUsed c < s.undoLines c

/-- The youngest of the tasks that is younger than `n`. -/
def youngestAfter (s : State) (n : Nat) (ts : List Nat) : Option Nat :=
  (ts.filter fun k => older (s.team n).age (s.team k).age && s.woundable k).foldl (fun best k => match best with
    | none => some k
    | some b => if older (s.team b).age (s.team k).age then some k else some b) none

end State

/-- Where a new shadow line goes (11 R249). -/
inductive Room where
  /-- a free shadow way -/
  | free
  /-- the way of a line that moves to its context's undo area -/
  | move (x : ShadowLine)
  /-- the writer's own undo area -/
  | undo
  /-- a task is wounded for it -/
  | wound (k : Nat)
  | wait
  | misuse

namespace State

/-- The room for a task's new shadow line (11 R249). DESIGN CHOICE (log entry 79): where the ways of a set hold lines of
several contexts, the oldest whose own context has room moves; where none has, the new line goes to its own area. -/
def shadowRoom (s : State) (n line : Nat) : Room :=
  let c := (s.team n).ctx
  let set := s.setShadows line
  let orWound := fun (ts : List ShadowLine) (other : Room) => match s.youngestAfter n (ts.map fun x => x.team) with
    | some k => Room.wound k
    | none => other
  if (s.shadow? n line).isSome || set.length < 2 then .free
  else if s.undoLines c = 0 then orWound (set.filter fun x => (s.team x.team).ctx = c) .misuse
  else match set.find? fun x => s.undoRoom (s.team x.team).ctx with
    | some x => .move x
    | none => if s.undoRoom c then .undo
      else orWound (s.home.shadows.filter fun x => x.undo && (s.team x.team).ctx = c) .wait

/-- Writes bytes tentatively to a line the task holds (08 R185, 11 R249): the line's shadow, or a new one. DESIGN CHOICE (log
entry 96): a line in the undo area is State's own, and no byte at UNDO is written. -/
def shadowWrite (s : State) (t : Tid) (line : Nat) (bytes : List (Nat × Byte)) (va : DWord) : Touch :=
  let n := t.team
  let bits := bytes.foldl (fun (m : BitVec 128) b => m ||| (1#128 <<< (b.1 % 128))) 0
  let add := fun (undo : Bool) (old : List ShadowLine) => Touch.ok (s.modHome fun h => { h with
    shadows := old ++ [⟨n, line, overlay bytes 0, bits, undo, s.cycle⟩] })
  match s.shadow? n line with
  | some x =>
    let y := { x with data := overlay bytes x.data, mask := x.mask ||| bits }
    .ok (s.modHome fun h => { h with shadows := h.shadows.map fun z => if z = x then y else z })
  | none => match s.shadowRoom n line with
    | .free => add false s.home.shadows
    | .move x => add false (s.home.shadows.map fun z => if z = x then { z with undo := true } else z)
    | .undo => add true s.home.shadows
    | .wound k => .hold (s.afterOnce 1 .wound { team := k }) .undoRoom
    | .wait => .hold s .undoRoom
    | .misuse => .fault s (Request.of .foldMisuse va)

/-! ### Commit (08 R186, 11 R250, 12 R257) -/

/-- The granules of the team's held folds. -/
def heldGrans (s : State) (n : Nat) : List Nat :=
  sortBy id (distinct ((s.team n).folds.flatMap fun p => if p.2.st = .untouched then [] else p.2.grans))

/-- The task has written in the 64 KiB unit. -/
def wroteUnit (s : State) (n unit : Nat) : Bool := s.home.shadows.any fun x => x.team = n && x.line / 512 = unit

/-- A dirty private copy of a unit is to be written back under a copy-on-write leaf, which the claims have held back. -/
def backsInUnit (s : State) (unit : Nat) : Bool :=
  (placed 0 s.clusters).any fun k => k.2.privs.any fun p => p.dirty && p.line / 512 = unit && s.backCopies k.1 p

/-- Copies the units of held folds under copy-on-write leaves that the task has written, or where a private copy waits for its
claims (25 R381); the lines and claims follow them. -/
def commitCopies (s : State) (n : Nat) : State × Option Request :=
  let m := s.team n
  let pages := sortBy id (distinct ((m.folds.filter fun p => p.2.st = .held).flatMap fun p => p.2.ranges.flatMap FoldRange.pages))
  pages.foldl (fun acc page => match acc.2 with
    | some r => (acc.1, some r)
    | none => match placeOf page, acc.1.walk m.ctx page with
      | .mapped, .leaf e =>
        let unit := (e.phys page).key / 65536
        if !acc.1.wroteUnit n unit && !acc.1.backsInUnit unit then acc
        else match acc.1.cowBefore m.ctx page e .store true with
          | (s', .fault r) => (s', some r)
          | (s', _) => (s', none)
      | _, _ => acc) (s, none)

/-- The first of the task's lines whose home refuses the commit (11 R247). -/
def commitTaken (s : State) (n : Nat) : Option Nat :=
  (s.home.shadows.find? fun x => x.team = n && s.lineTaken (.commit n) x.line).map fun x => x.line

/-- The task's own shadow lines of the module replace their home lines, all in one step (11 R250). DEDUCED (log entry
98): loose copies of them in the L1 of the task's core go for its context, so that no load of the task returns a value older
than its own store (07 R159). -/
def applyShadows (s : State) (n : Nat) : State :=
  let m := s.team n
  let mine := s.home.shadows.filter fun x => x.team = n && keyTgt (x.line * 128) ≤ 1
  let s := mine.foldl (fun s x =>
    let bytes := (List.range 128).filterMap fun i =>
      if x.mask.getLsbD i then some (x.line * 128 + i, lineByte x.data i) else none
    (s.granted (.commit n) x.line).lineWrite x.line bytes) s
  let s := s.dropL1 m.core fun y => y.ctx = m.ctx && mine.any fun x => x.line = y.line
  s.modHome fun h => { h with shadows := h.shadows.filter fun x => x.team != n }

/-- The task's claims are released; a granule that others wait for, or whose unit was held by them, is granted next (08 R184, 25
R381). -/
def releaseClaims (s : State) (n : Nat) (age : DWord) : State :=
  let mine := (s.home.claims.filter fun c => c.team = n).map fun c => c.gran
  let s := s.modHome fun h => { h with claims := h.claims.filter fun c => c.team != n
                                       wants := h.wants.filter fun w => w.team != n }
  let s := (s.modFab fun f => { f with held := f.held.filter fun l => l.team != n }).drainLater
    fun l => mine.any fun g => g / 256 = l / 512
  let behind := (s.home.wants.filter fun w => !mine.contains w.gran && mine.any fun g => g / 256 = w.gran / 256).map fun w => w.gran
  (mine ++ distinct behind).foldl (fun s g =>
    if remoteGran g then s.sendBy (n % 2 ^ 31) (.release (keyPeer (g * 256)) (keyPa (g * 256) / 256) age)
    else s.after 1 .claimGrant { addr := g }) s

/-- The task has ended (08 R186): claims released, held records passed to their bins, slots emptied. -/
def finishTask (s : State) (n : Nat) : State :=
  let s := (s.releaseClaims n (s.team n).age).passEmits n
  s.modTeam n fun m => { m with folds := [], taskEnded := true, lapses := 0 }

/-- The bytes of the task's shadow lines in a remote granule, by physical address at its peer. -/
def remoteBytes (s : State) (n g : Nat) : List (Nat × Byte) :=
  (s.home.shadows.filter fun x => x.team = n && x.line / 2 = g).flatMap fun x =>
    (List.range 128).filterMap fun i =>
      if x.mask.getLsbD i then some (keyPa (x.line * 128) + i, lineByte x.data i) else none

/-- What the last arrival at a task's end comes to: the task has ended or its commit is under way; a cause; a home that refuses
it (11 R247). -/
inductive Ended where
  | ok
  | fault (r : Request)
  | busy (line : Nat)

/-- The last arrival at the task's end (08 R186, 25 R384): the units it has written are copied first (25 R381); a task without
remote granules commits and ends at once; otherwise the claims are committing, every peer is sent its lines, and the decision
is awaited. -/
def endTask (s : State) (n : Nat) : State × Ended :=
  match s.commitTaken n with
  | some line => (s, .busy line)
  | none => match s.commitCopies n with
    | (s, some r) => (s, .fault r)
    | (s, none) =>
      let far := (s.heldGrans n).filter remoteGran
      if far.isEmpty then ((s.applyShadows n).finishTask n, .ok)
      else
        let age := (s.team n).age
        let s := s.modHome fun h => { h with claims := h.claims.map fun c => if c.team = n then { c with committing := true } else c }
        let s := s.modFab fun f => { f with decisions := f.decisions ++ [⟨n, age, far, far, false, s.cycle⟩] }
        let s := far.foldl (fun s g => s.sendBy n (.prepare (keyPeer (g * 256)) (keyPa (g * 256) / 256) age (s.remoteBytes n g))) s
        (s.after (100 * usCycles) .prepareTimeout { team := n, len := s.cycle }, .ok)

/-! ### Wounds (08 R189, 19 R337) -/

/-- Frees the save block of a team (19 R325). -/
def freeBlock (s : State) (n : Nat) : State :=
  match (s.team n).block with
  | none => s
  | some b =>
    let a := (s.ctx (s.team n).ctx).save.toNat + 64 + b / 8
    let x := s.mem.get a &&& ~~~(1#8 <<< (b % 8))
    (s.deviceWrite a [x]).modTeam n fun m => { m with block := none }

/-- The number under which a decided commit goes on once its team has started again or ended (25 R384). -/
def decidedTeam (n : Nat) : Nat := 2 ^ 31 + n

/-- A decided commit of a team that starts again or ends goes on without it until every home has applied (25 R384): its claims,
lines and leases no longer count as the team's, and its records pass to their bins. -/
def detachCommit (s : State) (n : Nat) : State :=
  if s.fab.decisions.any fun d => d.team = n && d.decided then
    let moved := fun (k : Nat) => if k = n then decidedTeam n else k
    let s := s.passEmits n
    let s := s.modHome fun h => { h with
      claims := h.claims.map fun (c : Claim) => { c with team := moved c.team }
      shadows := h.shadows.map fun (x : ShadowLine) => { x with team := moved x.team } }
    s.modFab fun f => { f with
      held := f.held.map fun (l : LeaseHeld) => { l with team := moved l.team }
      decisions := f.decisions.map fun (d : Decision) => { d with team := moved d.team } }
  else s

/-- Steps 2 and 3 of a wound, which also end a team without restart: tentative writes discarded, claims released, held
records dropped, copies and jobs cancelled (08 R189, 10 R414); a decided commit goes on. -/
def discardTask (s : State) (n : Nat) : State :=
  let s := s.detachCommit n
  let s := s.modHome fun h => { h with shadows := h.shadows.filter fun x => x.team != n }
  let s := s.modFab fun f => { f with decisions := f.decisions.filter fun d => d.team != n }
  ((s.releaseClaims n (s.team n).age).dropEmits n).cancelWork n

/-- Every present thread of the team has stopped for a save (19 R330). -/
def allStopped (s : State) (n : Nat) : Bool :=
  (s.team n).request.isSome && (s.tids n).all fun t => (s.thread t).stop.isSome

/-- A cluster none of whose teams is resident has no place; it begins to wait now, and its private copies leave their slice
(19 R330, R335). -/
def vacate (s : State) (cl : Nat) : State :=
  if (s.cluster cl).teams.any fun n => (s.team n).status = .resident then s
  else (s.leaveWays fun x => x.cl = some cl).modCluster cl fun k => { k with placed := false, since := s.cycle }

/-- The dispatcher and the graph engine look again. -/
def lookDispatch (s : State) (ctx : Nat) : State :=
  let s := s.afterOnce 1 .clusterPlacement {}
  if (s.ctx ctx).graph.isSome then s.afterOnce 1 .nodeDispatch { ctx := ctx } else s

/-- The team waits as one that never started (19 R337, 27 R403); the dispatcher looks
again (R326). -/
def waitAnew (s : State) (n : Nat) : State :=
  let s := ((s.discardTask n).freeBlock n).modTeam n fun m => { m with
    status := .waiting, since := s.cycle, request := Option.none, jobs := [], lent := [] }
  (s.vacate (s.team n).cluster).lookDispatch (s.team n).ctx

/-- A wound of a task (08 R189): a resident team restarts in place with its AGE, a request for its save still pending; a
saved one loses its image, and one whose save is in progress ends it; both wait as a team that never started (19 R337).
No effect once the task has ended or is decided. -/
def woundTeam (s : State) (n : Nat) : State :=
  if !s.woundable n then s
  else match (s.team n).status with
    | .resident =>
      if s.allStopped n then s.waitAnew n
      else
        let old := s.team n
        ((s.discardTask n).startTeam n).modTeam n fun m => { m with since := old.since, request := old.request, block := old.block }
    | .saved => s.waitAnew n
    | _ => s

/-- A wound caused by a lapsed lease or an unanswered claim is counted (25 R385). -/
def lapseWound (s : State) (n : Nat) : State :=
  if s.woundable n then (s.modTeam n fun m => { m with lapses := m.lapses + 1 }).woundTeam n else s

end State

end Sys2Proof.Machine
end

