-- ==== Sys2Proof/Machine/MemOps.lean ====
section
/-! DEFINITION. Accesses of threads (07 R154 to R161, R173 to R176): where an address leads, loads, stores and atomics on
the scratchpad, device and pool memory, host windows and peer modules. -/

namespace Sys2Proof.Machine

/-- Where an access leads. `va` is its address after any re-tether. -/
inductive Loc where
  | scratch (off : Nat)
  | mem (p : Phys) (leaf : Option TlbEntry) (va : DWord)
  | hold (w : Wait)
  | fault (r : Request)

/-- What an access comes to. -/
inductive MemRes where
  | ok (s : State) (bytes : List Byte)
  | hold (s : State) (w : Wait)
  | fault (s : State) (r : Request)

/-! ### Reservation records (08 R197) -/

def recSoff (r : BitVec 256) : Nat := (r.extractLsb' 0 32).toNat
def recSlen (r : BitVec 256) : Nat := (r.extractLsb' 32 32).toNat
def recXoff (r : BitVec 256) : Nat := (r.extractLsb' 64 32).toNat
def recToff (r : BitVec 256) : Nat := (r.extractLsb' 96 19).toNat
def recTlen (r : BitVec 256) : Nat := (r.extractLsb' 128 20).toNat
def recRole (r : BitVec 256) : Nat := (r.extractLsb' 148 2).toNat
def recFmt (r : BitVec 256) : Nat := (r.extractLsb' 150 4).toNat
def recBl (r : BitVec 256) : Nat := if r.getLsbD 154 then 32 else 16
def recM (r : BitVec 256) : Nat := (r.extractLsb' 155 4).toNat
def recRm (r : BitVec 256) : Nat := (r.extractLsb' 176 3).toNat
def recLayout (r : BitVec 256) : Nat := (r.extractLsb' 179 4).toNat

/-- Blocks of a source: elements over the block length; a panel source holds M-bit mantissas (08 R197, 02 R38). -/
def recBlocks (r : BitVec 256) : Nat :=
  if recFmt r = 6 then recSlen r * 8 / (recBl r * recM r)
  else recSlen r * 8 / (recBl r * (match recFmt r with
    | 0 => 32
    | 1 | 2 => 16
    | 3 | 4 => 8
    | _ => 4))

/-- Fields of a job card (08 R200). -/
def cardField (c : BitVec 1024) (lo len : Nat) : Nat := (c.extractLsb' lo len).toNat
def cardA (c : BitVec 1024) : Nat := cardField c 96 4
def cardB (c : BitVec 1024) : Nat := cardField c 100 4
def cardC (c : BitVec 1024) : Nat := cardField c 104 4

/-- The job names the slot of its team. -/
def Job.names (j : Job) (n slot : Nat) : Bool := j.team = n && (cardA j.card = slot || cardB j.card = slot || cardC j.card = slot)

namespace State

/-- Changes a reservation slot of a team. -/
def slot? (s : State) (n k : Nat) : Option Slot := assoc (s.team n).slots k

/-- The scratchpad ranges that a role-A or role-B record lends: its source and its exponent panel. -/
def lentOf (r : BitVec 256) : List (Nat × Nat) :=
  if 1 < recRole r then [] else (recSoff r, recSlen r) :: (if recFmt r = 6 then [(recXoff r, recBlocks r)] else [])

/-- The scratchpad ranges of a team that are lent (08 R199): start and length. -/
def lentRanges (s : State) (n : Nat) : List (Nat × Nat) :=
  let jobs := (s.core (s.team n).core).jobs
  (s.team n).slots.flatMap fun p =>
    let r := p.2.record
    if !p.2.used || jobs.any fun j => j.team = n && (cardA j.card = p.1 || cardB j.card = p.1) then lentOf r else []

/-- A byte of `[off, off + len)` is lent. -/
def isLent (s : State) (n off len : Nat) : Bool := (s.lentRanges n).any fun r => r.1 < off + len && off < r.1 + r.2

/-! ### Where an address leads (07 R156, R157, 18 R312) -/

/-- An address that is not the scratchpad's, for a context: mapped, or in a resident object. -/
def locatePlain (s : State) (t : Tid) (a : DWord) (n : Nat) (need : Need) : State × Loc :=
  let m := s.team t.team
  match s.plainPhys m.core m.ctx a.toNat n need with
  | (s', .fault r) => (s', .fault r)
  | (s', .ok p e) => (s', .mem p (if placeOf a.toNat = .mapped then some e else none) a)

/-- An address in the scratchpad window (07 R161, 11 R235). -/
def locateScratch (s : State) (t : Tid) (a : DWord) (n : Nat) : Loc :=
  let off := a.toNat - windowBase
  if off + n ≤ 0x200000 ∧ off + n ≤ (s.team t.team).scratchSize then .scratch off else .fault (Request.of .accessViolation a)

/-- An address through a current tether to an entry (07 R157, step 1). -/
def locateObject (s : State) (t : Tid) (e : CEntry) (a : DWord) (n : Nat) (need : Need) : State × Loc :=
  match placeOf a.toNat with
  | .scratch => (s, s.locateScratch t a n)
  | .tether =>
    if e.baseVa ≤ a.toNat ∧ a.toNat + n ≤ e.baseVa + e.size then
      (s, .mem ⟨0, 0, e.back + (a.toNat - e.baseVa), false⟩ none a)
    else (s, .fault (Request.of .beyondObject a))
  | _ => s.locatePlain t a n need

/-- The object a thread waits for could not be fetched: its cause (21 R347). -/
def fetchFailed (s : State) (t : Tid) : Option Cause := match (s.thread t).wait, (s.thread t).reply with
  | .object _ true, .failed c => some c
  | _, _ => none

/-- The trap of an access whose object could not be fetched; TETHER_MISS where there was no room (21 R347, R349). -/
def failedRequest (c : Cause) (a : DWord) (ident : BitVec 63) (kind : ReqKind) (reg : Nat) : Request :=
  if c = .tetherMiss then missRequest a ident kind true reg else Request.of c a

/-- What needing an object comes to for a thread. -/
inductive Needed where
  | slot (k : Nat)
  | hold (w : Wait)
  | fault (r : Request)

/-- A thread needs an object for the access at `a` (07 R157, R164, 21 R347). -/
def needObject (s : State) (t : Tid) (ident : BitVec 63) (a : DWord) (kind : ReqKind) (reg : Nat) : State × Needed :=
  let m := s.team t.team
  if let some c := s.fetchFailed t then (s, .fault (failedRequest c a ident kind reg))
  else match s.obtainObject m.ctx ident with
    | (s, .wait k fetch) => (s, .hold (.object k fetch))
    | (s, .reading) => (s, .hold (.directory m.ctx ident))
    | (s, .unknown) => (s, .fault (Request.of .brandUnknown a))
    | (s, .miss full) => (s, .fault (missRequest a ident kind full reg))
    | (s, .ready k) => (s, .slot k)

/-- Where an access of `n` bytes at `a` leads, through address register `reg` (0 for none); a stale tether is
re-tethered first, and the new address checked from the start (07 R156, R157, R161, 11 R235). -/
def locate (s : State) (t : Tid) (reg : Nat) (a : DWord) (n : Nat) (need : Need) : State × Loc :=
  if a.toNat % n != 0 then (s, .fault (Request.of .misaligned a))
  else match placeOf a.toNat with
  | .bad => (s, .fault (Request.of .accessViolation a))
  | .scratch => (s, s.locateScratch t a n)
  | _ =>
    let r := (s.thread t).areg reg
    if !r.sh.v then s.locatePlain t a n need
    else match s.tetherCurrent (s.team t.team).ctx r with
      | some (_, e) => s.locateObject t e a n need
      | none => match s.needObject t r.sh.ident a need.kind reg with
        | (s', .hold w) => (s', .hold w)
        | (s', .fault r) => (s', .fault r)
        | (s', .slot k) =>
          let s' := s'.retetherReg t reg k
          s'.locateObject t (s'.cEntry k) (a + ((retether (s'.cEntry k) r).val - r.val)) n need

/-! ### Loads (07 R159, R160, 11 R238, R239, 12 R257) -/

/-- Bytes of device or pool memory as the load of threads of a team sees them, each by its own stores: the task's own tentative
bytes; otherwise the threads' buffered stores over the core's L1, the cluster's private copy or the home. -/
def loadBytes (s : State) (t : Tid) (own : List Tid) (key n : Nat) (ro nt : Bool) : State × List Byte :=
  let m := s.team t.team
  let line := lineOf key
  let keys := (List.range n).map fun i => key + i
  if s.holds t.team (granOf key) then (s, keys.map fun k => s.shadowByte t.team k (s.mem.get k))
  else
    let (s, data) := match (s.core m.core).l1.find? fun x => x.line = line && x.ctx = m.ctx with
      | some x => (s.modCore m.core fun k => { k with l1 := k.l1.map fun y => if y = x then { y with hit := true } else y }, x.data)
      | none => match s.priv? m.cluster line with
        | some p => (s.fillLoose m.core m.ctx line p.data ro nt, p.data)
        | none =>
          let data := s.mem.line line
          ((s.touchHome m.core line nt).fillLoose m.core m.ctx line data ro nt, data)
    (s, keys.map fun k => s.shadowByte t.team k (match s.sbByte? own m.core k with
      | some b => b
      | none => lineByte data (k % 128)))

/-- The bytes of a reply, first byte lowest. -/
def replyBytes (x : Line) (n : Nat) : List Byte := leBytes n x.toNat

/-- A host line is locked against the thread (23 R360). -/
def hostLocked (s : State) (t : Tid) (line : Nat) : Bool :=
  s.host.locks.any fun l => l.1 = line && l.2.head? != some t

/-- Sends a non-posted host request for threads (23 R357, R358); its timeout of 50 ms is due. -/
def hostRequest (s : State) (waiters : List Tid) (pa len : Nat) (op : Option HostOp) (x y : DWord) (fetch : Bool) : State × Nat :=
  let (id, s) := s.newId
  let s := s.modHost fun h => { h with reqs := h.reqs ++ [⟨id, waiters, pa, len, op, x, y, fetch, s.cycle⟩] }
  (s.after (50 * msCycles) .hostCompletionTimeout { id := id }, id)

/-- A buffered store of one of the threads to a host line has bytes among the `n` at an offset in it. -/
def overlapsHost (ts : List Tid) (line off n : Nat) (e : SbEntry) : Bool :=
  e.line = line && e.bytes.any fun b => ts.contains b.by_ && off ≤ b.off && b.off < off + n

/-- The threads' own buffered stores to `n` bytes of a host line leave first, with Relaxed Ordering clear (23 R359). -/
def flushHost (s : State) (c : Nat) (ts : List Tid) (line off n : Nat) : State :=
  let hit := overlapsHost ts line off n
  let s := s.modCore c fun k => { k with sb := k.sb.map fun e => if hit e then { e with relaxed := false } else e }
  s.drainWhere c hit

/-- The location that a thread's request went to. -/
def sentTo (x : Sent) : Phys := ⟨x.tgt, x.peer, x.pa, x.demote⟩

/-- The thread notes where its request goes, and the bytes of the core's write-combining buffer that a load returns (23
R369). -/
def noteSent (s : State) (t : Tid) (p : Phys) (va : DWord) : State :=
  let own := if p.tgt = 3 then s.wcBytes (s.coreNum t) (s.team t.team).ctx (lineOf p.key) else []
  s.modThread t fun x => { x with sent := some ⟨p.tgt, p.peer, p.pa, p.demote, va, own⟩ }

/-- What holds back a request of threads to a peer line (07 R159, 23 R368): an own write of it that is under way, or a full
table. -/
def peerWaits (s : State) (t : Tid) (own : List Tid) (line : Nat) : Option Wait :=
  if own.any fun u => s.ownOut u (s.coreNum t) line then some (.peerStore line)
  else if s.tableRoom (s.coreNum t) then none else some .tableRoom

/-- A load from a host window or a peer sends its request (23 R358, R368); `own` are the threads whose load it is. -/
def loadFar (s : State) (t : Tid) (own : List Tid) (p : Phys) (n : Nat) (va : DWord) : MemRes :=
  let line := lineOf p.key
  if p.tgt = 2 then
    if s.hostLocked t line then .hold s (.hostLine line)
    else if 2048 ≤ s.host.reqs.length then .hold s .tableRoom
    else
      let s := (s.flushHost (s.coreNum t) own line (p.key % 128) n).noteSent t p va
      let (s, id) := s.hostRequest [t] p.pa n none 0 0 false
      .hold s (.answer id [] false)
  else match s.peerWaits t own line with
    | some w => .hold s w
    | none =>
      let s := s.noteSent t p va
      let (s, id) := s.openTxn (s.coreNum t) line [t] [t] va false false
      .hold (s.sendBy t.team (.read p.peer p.pa n)) (.answer id [] false)

/-- The answer to a thread's load: the bytes, under the core's own as they stood when it was sent and the task's own
tentative ones (08 R185, 23 R369); otherwise the cause (23 R359, R370). -/
def farAnswer (s : State) (t : Tid) (x : Sent) (n : Nat) : MemRes :=
  let key := (sentTo x).key
  match (s.thread t).reply with
  | .data d => .ok s ((bytesAt key (replyBytes d n)).map fun b =>
      let y := match x.own.find? fun o => o.1 = b.1 with
        | some o => o.2
        | none => b.2
      if s.holds t.team (granOf key) then s.shadowByte t.team b.1 y else y)
  | .failed c => .fault s (Request.of c x.va)
  | _ => .fault s (Request.of .accessViolation x.va)

/-- The request that a thread's bundle has sent, once it is answered. -/
def answered (s : State) (t : Tid) : Option Sent := if (s.thread t).reply = .none then none else (s.thread t).sent

/-- A group page takes multicast stores and contributions alone (23 R371). -/
def groupPage (p : Phys) : Bool := p.tgt = 3 && 2 ^ 47 ≤ p.pa

/-- What follows where a read leads in memory: the fold it touches, then poison and the other late causes (07 R158,
08 R184). -/
def admitted (s : State) (t : Tid) (p : Phys) (va : DWord) (n : Nat) (poison : Bool) : Touch :=
  if groupPage p then .fault s (Request.of .accessViolation va)
  else match s.touch t va.toNat n with
  | .ok s => match s.lateFault p va poison with
    | some r => .fault s r
    | none => .ok s
  | x => x

/-- Where an access is refused for its own page, a fold that it would touch is judged first: BEYOND_OBJECT and TRANSLATION come
before ACCESS_VIOLATION (07 R158, 08 R184). -/
def foldFirst (s : State) (t : Tid) (va n : Nat) (r : Request) : State × Request :=
  if r.cause != .accessViolation then (s, r)
  else
    let m := s.team t.team
    ((s.slotsReached t.team va n).findSome? fun slot => match assoc m.folds slot with
      | some f => if f.st != .untouched then none
        else match s.foldGrans m.core m.ctx f.ranges with
          | (s', .bad q) => if q.cause = .beyondObject || q.cause = .translation then some (s', q) else none
          | _ => none
      | none => none).getD (s, r)

/-- A granule that another task commits holds a load (12 R257). -/
def committingFor (s : State) (t : Tid) (key : Nat) : Bool := match s.claimOf (granOf key) with
  | some c => c.committing && c.team != t.team
  | none => false

/-- A load of `n` bytes at `a` through address register `reg` (07 R160) for the threads `own`, which `t` is the first of (07
R162). -/
def load (s : State) (t : Tid) (own : List Tid) (reg : Nat) (a : DWord) (n : Nat) (ro nt : Bool) : MemRes :=
  match s.answered t with
  | some x => s.farAnswer t x n
  | none => match s.locate t reg a n Need.load with
    | (s, .hold w) => .hold s w
    | (s, .fault r) => let (s, r) := s.foldFirst t a.toNat n r; .fault s r
    | (s, .scratch off) => .ok s ((s.team t.team).scratch.bytes off n)
    | (s, .mem p leaf va) => match s.admitted t p va n true with
      | .hold s w => .hold s w
      | .fault s r => .fault s r
      | .ok s =>
        let p := (s.placeNow (s.team t.team).ctx p leaf va).1
        if 2 ≤ p.tgt then s.loadFar t own p n va
        else if s.committingFor t p.key then .hold s (.committing (granOf p.key))
        else let (s, b) := s.loadBytes t own p.key n ro nt; .ok s b

end State

/-! ### Stores (07 R159, R160, 08 R185, R199) -/

/-- What admitting a write comes to: a tentative one in a held fold, one at its location, behind a claimed granule of its
unit (25 R381) where that is named; a wait; a trap. -/
inductive Admitted where
  | tentative (s : State) (p : Phys)
  | plain (s : State) (p : Phys) (behind : Option Nat)
  | hold (s : State) (w : Wait)
  | fault (s : State) (r : Request)

namespace State

/-- The unit of a write is copied first under a copy-on-write leaf, unless it is claimed (25 R379, R381). -/
def beforeWrite (s : State) (t : Tid) (p : Phys) (leaf : Option TlbEntry) (va : DWord) (kind : ReqKind) : State × Cowed :=
  match leaf with
  | some e => s.cowBefore (s.team t.team).ctx va.toNat e kind false
  | none => (s, .ok p)

/-- Pages, and log entries, for the splits and the copy of the write's unit are missing (25 R380). -/
def cowShort (s : State) (t : Tid) (p : Phys) (leaf : Option TlbEntry) : Bool :=
  let c := (s.team t.team).ctx
  leaf.any fun e => cowLeaf e && (s.unitClaim p.key).isNone && (s.poolCount c ≤ e.level || s.slogRoom c ≤ e.level)

/-- The write is one of a held fold, or lies in a copy-on-write unit of which the task holds a granule: the writes of the
holding task stay tentative against the original address (08 R185, 25 R381). DEDUCED (log entry 78): so does one to another
granule of the unit, which R381 leaves no other place. -/
def tentative (s : State) (t : Tid) (p : Phys) (leaf : Option TlbEntry) : Bool :=
  s.holds t.team (granOf p.key) || (leaf.any cowLeaf && s.unitOwn t.team p.key)

/-- The write's last causes, in the order of 07 R158: no room for the tentative line (11 R249); poison and the other late
causes; then where it goes, once the splits of its leaf that pages are left for are made (25 R379, R380). -/
def admitWrite (s : State) (t : Tid) (p : Phys) (leaf : Option TlbEntry) (va : DWord) (n : Nat) (kind : ReqKind) (poison : Bool) :
    Admitted :=
  if !s.inFold t.team va.toNat n && s.cowShort t p leaf then match s.beforeWrite t p leaf va kind with
    | (s, .fault r) => .fault s r
    | (s, _) => .fault s ⟨.translation, va, kind, 0, 0⟩
  else match s.touch t va.toNat n with
    | .hold s w => .hold s w
    | .fault s r => .fault s r
    | .ok s =>
      let (p, leaf) := s.placeNow (s.team t.team).ctx p leaf va
      if s.tentative t p leaf then
        match s.shadowRoom t.team (lineOf p.key), s.lateFault p va poison with
        | .misuse, _ => .fault s (Request.of .foldMisuse va)
        | _, some r => .fault s r
        | _, none => .tentative s p
      else match s.lateFault p va poison with
        | some r => .fault s r
        | none => match s.beforeWrite t p leaf va kind with
          | (s, .fault r) => .fault s r
          | (s, .claimed g) => .plain s p (some g)
          | (s, .ok q) => .plain s q none

/-- A write to the scratchpad, which waits while a byte is lent (08 R199). -/
def scratchWrite (s : State) (n off : Nat) (bytes : List Byte) : State :=
  s.modTeam n fun m => { m with scratch := m.scratch.putAll (bytesAt off bytes) }

/-- A store enters the core's store buffer, or waits for room there (11 R239). -/
def intoBuffer (s : State) (t : Tid) (line : Nat) (bytes : List (Nat × Byte)) (relaxed nt : Bool) (cow : Option Nat) : Touch :=
  match s.bufferStore t (s.coreNum t) line bytes relaxed nt cow with
  | (s, true) => .ok s
  | (s, false) => .hold s (.storeRoom line)

/-- A store to memory outside held folds once it is admitted: one to a granule that another task holds waits at the home, in
the buffer (08 R185), and so does one whose unit is claimed (25 R381). -/
def storeAt (s : State) (t : Tid) (p : Phys) (va : DWord) (bytes : List Byte) (nt : Bool) (behind : Option Nat) : Touch :=
  let c := s.coreNum t
  let line := lineOf p.key
  let l := bytesAt p.key bytes
  if p.tgt ≤ 1 then s.intoBuffer t line l true nt (behind.map fun _ => va.toNat)
  else if p.tgt = 2 then
    if s.hostLocked t line then .hold s (.hostLine line)
    else match s.intoBuffer t line l (!(s.thread t).sysRel) nt none with
      | .ok s => .ok (s.modThread t fun x => { x with sysRel := false })
      | x => x
  else if groupPage p then match s.peerWaits t [t] line with
    | some w => .hold s w
    | none =>
      let (s, _) := s.openTxn c line [] [t] va false true
      .ok (s.sendBy t.team (.multicast (p.pa / 2 ^ 36 % 2048) (p.pa % 2 ^ 36) bytes))
  else match s.wcStore t c line va l with
    | (s, true) => .ok s
    | (s, false) => .hold s .tableRoom

/-- A store of bytes at `a` through address register `reg` (07 R160). -/
def store (s : State) (t : Tid) (reg : Nat) (a : DWord) (bytes : List Byte) (nt : Bool) : Touch :=
  let n := bytes.length
  match s.locate t reg a n Need.store with
  | (s, .hold w) => .hold s w
  | (s, .fault r) => let (s, r) := s.foldFirst t a.toNat n r; .fault s r
  | (s, .scratch off) =>
    if s.isLent t.team off n then .hold s (.lent off (off + n)) else .ok (s.scratchWrite t.team off bytes)
  | (s, .mem p leaf va) => match s.admitWrite t p leaf va n .store false with
    | .tentative s p => s.shadowWrite t (lineOf p.key) (bytesAt p.key bytes) va
    | .plain s q g => s.storeAt t q va bytes nt g
    | .hold s w => .hold s w
    | .fault s r => .fault s r

/-! ### Atomics (07 R173 to R176) -/

/-- What asking a line's home for a thread's own write comes to. -/
inductive Turn where
  | go (s : State)
  | hold (s : State) (w : Wait)

/-- The one request that the threads of a group at one bundle make for a line (07 R172, R175). -/
def askerOf (s : State) (t : Tid) : Asker := .group t.team t.grp (s.thread t).pc

/-- The threads' own stores to a line leave the buffer before an atomic or a store at the home that they make together (07
R159, R172, R175). -/
def ownFirst (s : State) (t : Tid) (own : List Tid) (line : Nat) : Turn :=
  let c := s.coreNum t
  let s := own.foldl (fun s u => s.drainWhere c fun e => e.line = line && ownEntry u e) s
  if own.any fun u => s.ownBuffered u c line then .hold s (.ownStore line) else .go s

/-- The turn at the home of a line of a thread, of those that act there together (08 R185, 11 R241, R247). -/
def homeTurn (s : State) (t : Tid) (own : List Tid) (writer : Option Nat) (line : Nat) : Turn :=
  let c := s.coreNum t
  if (s.claimOf (line / 2)).isSome then .hold s (.granule (line / 2))
  else match s.ownFirst t own line with
    | .hold s w => .hold s w
    | .go s => match s.askHome (s.askerOf t) writer line with
      | .refused s => .hold (s.refuse (s.askerOf t) c line t.arg) (.refused line)
      | .wait s => .hold s (.home line)
      | .now s => .go ((s.granted (s.askerOf t) line).touchHome c line false)

/-- The threads of the thread's group whose access in this bundle leads, as `at_` says, to a key that `same` selects, by rising
index: what they do there is one request (07 R172, R175). -/
def mates (s : State) (t : Tid) (i : Instr) (same : Nat → Bool) (at_ : State → Tid → State × Loc) : List Tid :=
  s.cur.threads.filter fun u => u.team = t.team && u.grp = t.grp && (u = t ||
    ((s.decodeTrap u i).isNone && s.governed u i && (s.pendingReg u i).isNone && (match (at_ s u).2 with
      | .mem p _ _ => same p.key
      | _ => false)))

/-- A thread's write at the home of a line, which it awaits (12 R251). -/
def writeHere (s : State) (t : Tid) (line : Nat) (bytes : List (Nat × Byte)) : State :=
  let m := s.team t.team
  (s.homeWrite (some (m.core, [m.ctx])) line bytes).awaitAck m.core line [t]

/-- A private copy of a line is made for a cluster (11 R244), the given copies being gone (12 R256). -/
def makePriv (s : State) (c cl line va : Nat) : State :=
  let s := (s.endGiven none line).recordHolder line none (some cl)
  let data := s.mem.line line
  (s.modCluster cl fun k => { k with privs := k.privs ++ [⟨line, va, data, false⟩] }).l2Fill c (s.cluster cl).slice line (some cl) false

/-- An atomic on the cluster's private copy of a line (07 R176): old bytes to new bytes by `f`. -/
def atomicPriv (s : State) (t : Tid) (key n : Nat) (f : List Byte → List Byte) : MemRes :=
  let m := s.team t.team
  let line := lineOf key
  let old := ((List.range n).map fun i => key % 128 + i).map fun i => match s.priv? m.cluster line with
    | some q => lineByte q.data i
    | none => 0
  let new := bytesAt key (f old)
  .ok ((s.privWrite m.cluster line new).updateL1 m.core [m.ctx] line (overlay new)) old

/-- An atomic on device or pool memory, performed where its scope says (07 R176): old bytes to new bytes by `f`. -/
def atomicAt (s : State) (t : Tid) (own : List Tid) (p : Phys) (va : DWord) (n scope : Nat) (f : List Byte → List Byte) : MemRes :=
  let m := s.team t.team
  let c := m.core
  let line := lineOf p.key
  if scope ≤ 3 ∧ (s.priv? m.cluster line).isSome then match s.ownFirst t own line with
    | .hold s w => .hold s w
    | .go s => s.atomicPriv t p.key n f
  else if scope = 5 ∧ !(s.core c).out.isEmpty then .hold s .fabricIdle
  else match s.homeTurn t own (if scope ≤ 3 then none else some c) line with
    | .hold s w => .hold s w
    | .go s =>
      if scope ≤ 3 then (s.makePriv c m.cluster line va.toNat).atomicPriv t p.key n f
      else
        let old := s.mem.bytes p.key n
        .ok (s.writeHere t line (bytesAt p.key (f old))) old

/-- An atomic in a held fold (08 R185): the committed bytes under the task's own become its tentative ones. -/
def atomicHeld (s : State) (t : Tid) (key : Nat) (va : DWord) (committed : List Byte) (f : List Byte → List Byte) : MemRes :=
  let old := (bytesAt key committed).map fun b => s.shadowByte t.team b.1 b.2
  match s.shadowWrite t (lineOf key) (bytesAt key (f old)) va with
  | .ok s => .ok s old
  | .hold s w => .hold s w
  | .fault s r => .fault s r

end State

end Sys2Proof.Machine
end

