-- ==== Sys2Proof/Machine/Waits.lean ====
section
/-! DEFINITION. When a wait ends (09 R213): the condition each kind of wait holds a thread for, read from the state. -/

namespace Sys2Proof.Machine

/-- Fields of a gate word (08 R191). -/
def gatePhase (g : Quad) : Bool := g.getLsbD 127
def gateBrk (g : Quad) : Bool := g.getLsbD 126
def gateEarr (g : Quad) : Nat := (g.extractLsb' 107 19).toNat
def gateAarr (g : Quad) : Nat := (g.extractLsb' 88 19).toNat
def gateEbytes (g : Quad) : Nat := (g.extractLsb' 44 44).toNat
def gateAbytes (g : Quad) : Nat := (g.extractLsb' 0 44).toNat

namespace State

/-- The gate word at a scratchpad offset of a team. -/
def gateWord (s : State) (n off : Nat) : Quad := BitVec.ofNat 128 ((s.team n).scratch.le off 16)

/-- The special-function queue of a thread's group (06 R148). -/
def sfQueue (t : Tid) : Nat := t.grp % 4

/-- Free entries of a special-function queue of a core. -/
def sfRoom (s : State) (c q : Nat) : Bool := ((s.core c).sfq.filter fun e => e.q = q).length < 16

/-- The wait of a thread has ended. Waits that a step ends (SLEEP, YIELD, a back-off, a page request, a refusal) end
there. -/
def waitOver (s : State) (t : Tid) : Bool :=
  let m := s.team t.team
  let k := s.core m.core
  let x := s.thread t
  match x.wait with
  | .none => true
  | .sleep _ | .yield _ | .backoff _ | .request _ | .queued _ _ | .refused _ => false
  | .barrier n ph => match m.barriers[n]? with
    | some b => b.turns != ph
    | none => true
  | .gate off ph => let g := s.gateWord t.team off; gatePhase g != ph || gateBrk g
  | .job j => match m.jregs[j]? with
    | some r => r.st = .done || r.st = .free
    | none => true
  | .taskEnd => m.taskEnded
  | .claim slot => match assoc m.folds slot with
    | some f => f.st = .held
    | none => true
  | .granule g => (s.claimOf g).isNone || s.holds t.team g
  | .lent lo hi => !s.isLent t.team lo (hi - lo)
  | .copyRoom => k.copyQ.length < 32
  | .sfRoom q => s.sfRoom m.core q
  | .jobRoom => k.jobs.length < 8
  | .slotIdle slot => !(k.jobs.any fun j => j.names t.team slot)
  | .tokens mask => x.tokens.all fun p => p.landed || !mask.getLsbD p.num
  | .release scope => !s.releasePending t scope || s.releaseCanDrain t scope
  | .answer _ _ _ => x.reply != .none
  | .tableRoom => s.tableRoom m.core && s.host.reqs.length < 2048
  | .fabricIdle => k.out.isEmpty
  | .object slot _ => let st := (s.cEntry slot).st; st != 1 && st != 3
  | .directory ctx ident => !s.home.dirs.any fun r => r.ctx = ctx && r.ident = ident && r.answer.isNone
  | .acqr _ => x.reply != .none
  | .sync => s.time.sync
  | .undoRoom => s.undoLines m.ctx = 0 || s.undoUsed m.ctx < s.undoLines m.ctx
  | .hostLine line => !s.hostLocked t line
  | .committing g => match s.claimOf g with
    | some c => !c.committing
    | none => true
  | .home line => let who := s.askerOf t
    !(s.home.txns.any fun r => r.line = line && r.who = who && !r.waits.isEmpty) && !s.backingOff who line
  | .ownStore line => !(s.tids t.team).any fun u => u.grp = t.grp && (s.thread u).wait = .ownStore line && s.ownBuffered u m.core line
  | .storeRoom line => k.sb.length < 16 || k.sb.any fun e => e.line = line
  | .peerStore line => !(s.tids t.team).any fun u => u.grp = t.grp && (s.thread u).wait = .peerStore line &&
    (s.ownOut u m.core line || k.wc.any fun e => e.line = line && wcOwn u e)
  | .route slot => match assoc m.folds slot with
    | some f => f.st != .claiming || (f.grans.filter remoteGran).all fun g => s.routeTo (keyPeer (g * 256))
    | none => true
  | .turn u => let y := s.thread u
    !(y.present && y.pc = x.pc && y.wait.acts)

/-- The thread is in the middle of a bundle: it awaits an answer, its page request is on its way, its write at a home has begun,
or its turn at a locked
host line is to come (07 R175). It has not reached a bundle boundary. -/
def inBundle (s : State) (t : Tid) : Bool :=
  (match (s.thread t).wait with
    | .answer _ _ _ | .acqr _ | .request _ | .home _ => true
    | _ => false) || s.host.locks.any fun l => l.2.contains t

end State

end Sys2Proof.Machine
end

