-- ==== Sys2Proof/Machine/Ending.lean ====
section
/-! DEFINITION. The end of threads, groups, teams, clusters and grids (05 R116, 08 R187, 17 R296). -/

namespace Sys2Proof.Machine

/-- The write is one of a thread's own registers. -/
def Dst.ofThread (i : Nat) : Dst → Bool
  | .v n _ _ | .a n _ _ => n = i
  | _ => false

namespace State

/-- The team has a copy or a job that has not completed (08 R187). -/
def workLeft (s : State) (n : Nat) : Bool :=
  let k := s.core (s.team n).core
  let mine := fun (x : Copy) => x.t.team = n
  k.copyQ.any mine || k.eng0.any mine || k.eng1.any mine || k.jobs.any fun j => j.team = n

/-- The last team of a cluster has ended: its dirty private copies are evicted to their homes (11 R244; log entry 16), one that
cannot be written back now as soon as it can be. -/
def endCluster (s : State) (cl : Nat) : State :=
  if (s.cluster cl).teams.all fun n => (s.team n).status = .ended then
    let s := s.writeBackEach (fun k _ => k = cl) false
    (s.leaveWays fun x => x.cl = some cl).modCluster cl fun k => { k with placed := false }
  else s

/-- A team counts as ended for its grid: STATUS 0x02 once every team has ended (17 R296); a node team's batch is freed
(17 R307), and the context's watchdog restarts (18 R324). -/
def endTeam (s : State) (n : Nat) : State :=
  let m := s.team n
  let s := s.freeBlock n
  let s := s.modTeam n fun m => { m with
    status := .ended, groups := [], scratch := [], slots := [], barriers := [], jregs := [], folds := [], gates := []
    halted := false, request := none, taskEnded := true }
  let s := s.modGrid m.grid fun g => { g with left := g.left - 1 }
  let s := s.modCtx m.ctx fun c => { c with wdCount := 0 }
  let g := s.grid m.grid
  let s : State := match g.ringEntry with
    | some a => if g.left = 0 && !g.dead then s.deviceWrite (a + 9) [2] else s
    | none => s
  let s : State := match m.batch with
    | some b => s.modCtx m.ctx fun c => { c with graph := c.graph.map fun g => { g with batches := g.batches.filter fun x => x != b } }
    | none => s
  (s.endCluster m.cluster).lookDispatch m.ctx

/-- A team whose last thread has exited ends once its task has ended and its copies and jobs have completed (08 R187). -/
def tryEnd (s : State) (n : Nat) : State :=
  let m := s.team n
  if m.status = .resident && (s.tids n).isEmpty && m.taskEnded && !s.workLeft n then s.endTeam n else s

/-- Every present thread but `t` has issued TASKEND (08 R186). -/
def othersArrived (s : State) (t : Tid) : Bool :=
  (s.tids t.team).all fun u => u = t || (s.thread u).wait = .taskEnd

/-- A thread leaves (05 R116): its registers go, and with them what was under way to them; special-function results are
dropped. A uniform or mask result is the group's and lands in its own cycle, also where the thread was its only participant
(R106; log entry 39). The last thread of a group releases its uniform and mask registers. -/
def leave (s : State) (t : Tid) : State :=
  let s := s.modGroup t.team t.grp fun g => { g with pend := g.pend.filter fun e => !e.dst.ofThread t.thr }
  let s := s.modCore (s.coreNum t) fun k => { k with sfq := k.sfq.filter fun e => e.t != t }
  let s := s.modThread t fun _ => Thread.none
  if ((s.groupOf t).threads.all fun x => !x.present) then s.modGroup t.team t.grp fun g => { g with s := [], k := [], pend := [] }
  else s

end State

end Sys2Proof.Machine
end

