-- ==== Sys2Proof/Machine/Numbers.lean ====
section
/-! DEFINITION. Number formats (02): exact values, decoding and rounding of the six floating formats, integers, block
floating point, exact sums and products, correctly rounded quotients and roots. -/

namespace Sys2Proof.Machine

/-! ### Exact values -/

/-- What a floating code stands for: m · 2^e with m > 0 where it is a number. -/
inductive FVal where
  | nan (neg : Bool)
  | inf (neg : Bool)
  | zero (neg : Bool)
  | num (neg : Bool) (m : Nat) (e : Int)
  deriving DecidableEq, Repr

/-- The sign bit. -/
def FVal.neg : FVal → Bool
  | .nan n | .inf n | .zero n | .num n _ _ => n

/-- The value with its sign inverted. -/
def FVal.flip : FVal → FVal
  | .nan n => .nan !n
  | .inf n => .inf !n
  | .zero n => .zero !n
  | .num n m e => .num (!n) m e

/-- An integer as an exact value (02 R36). -/
def FVal.ofInt (x : Int) : FVal := if x = 0 then .zero false else .num (x < 0) x.natAbs 0

/-! ### Formats (02 R26 to R28) -/

/-- A floating format: bits of a code, fraction bits, exponent of the smallest subnormal, the code of the largest finite
value, the code of the canonical NaN. -/
structure FFmt where
  bits : Nat
  fb : Nat
  emin : Int
  max : Nat
  nan : Nat
  deriving DecidableEq, Repr

/-- The format of a code 0x0 to 0x5 (02 R26, R28). -/
def fmtOf : Nat → FFmt
  | 0 => ⟨32, 23, -149, 0x7F7FFFFF, 0x7FC00000⟩
  | 1 => ⟨16, 10, -24, 0x7BFF, 0x7E00⟩
  | 2 => ⟨16, 7, -133, 0x7F7F, 0x7FC0⟩
  | 3 => ⟨8, 3, -9, 0x7E, 0x7F⟩
  | 4 => ⟨8, 2, -16, 0x7B, 0x7E⟩
  | _ => ⟨4, 1, -1, 0x7, 0x7⟩

/-- Bits of an integer format code, and whether it is signed (02 R26). -/
def intFmt : Nat → Nat × Bool
  | 7 => (8, true)
  | 8 => (8, false)
  | 9 => (16, true)
  | 10 => (16, false)
  | 11 => (32, true)
  | _ => (32, false)

/-- The modes an operation runs under: FPCR as read, rm replacing RM (01 R20, R22, 02 R30). -/
structure Modes where
  rm : Nat
  ftz32 : Bool
  ftz16 : Bool
  nzxen : Bool
  nzx : BitVec 16
  deriving DecidableEq, Repr

/-- FPCR's modes with the rounding option of a bundle (02 R30). -/
def Modes.of (fpcr : Word) (rm : Nat) : Modes :=
  ⟨if rm = 0 then (fpcr.extractLsb' 0 3).toNat else rm, fpcr.getLsbD 3, fpcr.getLsbD 4, fpcr.getLsbD 5,
    fpcr.extractLsb' 16 16⟩

/-- Modes that flush nothing (02 R40, R44, 08 R201). -/
def Modes.plain (rm : Nat) : Modes := ⟨rm, false, false, false, 0⟩

/-- Subnormals of the format are flushed (02 R27). -/
def Modes.flushes (m : Modes) : Nat → Bool
  | 0 => m.ftz32
  | 1 | 2 => m.ftz16
  | _ => false

/-- The bit is the sign bit of a code of a format. -/
def signOf (f : FFmt) (c : Nat) : Bool := c / 2 ^ (f.bits - 1) % 2 = 1

/-- The value of a code as encoded (02 R27, R28, R32 to R34), E2M1's extra code apart. -/
def decodeRaw (code c : Nat) : FVal :=
  let f := fmtOf code
  let neg := signOf f c
  let mag := c % 2 ^ (f.bits - 1)
  if f.max < mag then
    if code != 3 && mag = f.max + 1 then .inf neg else .nan neg
  else if mag = 0 then .zero neg
  else
    let frac := mag % 2 ^ f.fb
    let x := mag / 2 ^ f.fb
    if x = 0 then .num neg frac f.emin else .num neg (2 ^ f.fb + frac) (f.emin + ((x - 1 : Nat) : Int))

/-- The magnitude lies below the smallest normal value of the format. -/
def subnormal (f : FFmt) (c : Nat) : Bool := let mag := c % 2 ^ (f.bits - 1); 0 < mag && mag < 2 ^ f.fb

/-- An operand of a format under modes: flushed inputs read as zero (02 R27), E2M1's extra code as NZX or −0 (R34).
DESIGN CHOICE (log entry 75): an NZX that is a negative NaN keeps its sign, so that a saturating conversion to E4M3 gives
−448 (R35). -/
def decodeF (m : Modes) (code c : Nat) : FVal :=
  let f := fmtOf code
  let c := c % 2 ^ f.bits
  if code = 5 && c = 8 then
    if m.nzxen then decodeRaw 1 m.nzx.toNat else .zero true
  else if m.flushes code && subnormal f c then .zero (signOf f c)
  else decodeRaw code c

/-! ### Rounding (02 R30) -/

/-- A quotient is rounded up in magnitude: `r` is what is left of it, of `d`. -/
def roundsUp (rm : Nat) (neg : Bool) (q r d : Nat) : Bool :=
  match rm with
  | 1 => d < 2 * r || (d = 2 * r && q % 2 = 1)
  | 2 => false
  | 3 => neg && r != 0
  | 4 => !neg && r != 0
  | _ => r != 0 && d ≤ 2 * r

/-- m · 2^e as a multiple of 2^lsb, rounded (02 R30). -/
def roundAt (rm : Nat) (neg : Bool) (m : Nat) (e lsb : Int) : Nat :=
  if lsb ≤ e then m * 2 ^ (e - lsb).toNat
  else
    let d := 2 ^ (lsb - e).toNat
    let q := m / d
    if roundsUp rm neg q (m % d) d then q + 1 else q

/-- The magnitude code of m · 2^e in a format of unbounded exponent range (02 R30). -/
def roundCode (f : FFmt) (rm : Nat) (neg : Bool) (m : Nat) (e : Int) : Nat :=
  let lsb := max ((Nat.log2 m : Int) + e - f.fb) f.emin
  roundAt rm neg m e lsb + (lsb - f.emin).toNat * 2 ^ f.fb

/-- A magnitude code with its sign. -/
def withSign (f : FFmt) (neg : Bool) (mag : Nat) : Nat := if neg then 2 ^ (f.bits - 1) + mag else mag

/-- A value as a code of a format: rounded once, overflow by R31 or R35, flushed after rounding (02 R27, R29 to R36). -/
def encodeF (m : Modes) (sat : Bool) (code : Nat) (v : FVal) : Nat :=
  let f := fmtOf code
  let beyond := fun (neg exact : Bool) =>
    -- R31: exact says that the infinity is no overflow
    if sat then withSign f neg f.max
    else if exact then withSign f neg (f.max + 1)
    else match m.rm with
      | 2 => withSign f neg f.max
      | 3 => withSign f neg (if neg then f.max + 1 else f.max)
      | 4 => withSign f neg (if neg then f.max else f.max + 1)
      | _ => withSign f neg (f.max + 1)
  let zero := fun (neg : Bool) => if code = 5 then 0 else withSign f neg 0
  match v with
  | .nan neg =>
    if code = 5 then withSign f neg f.max
    else if code = 3 && sat then withSign f neg f.max
    else f.nan
  | .inf neg =>
    if code = 5 then withSign f neg f.max
    else if code = 3 then (if sat then withSign f neg f.max else f.nan)
    else beyond neg true
  | .zero neg => zero neg
  | .num neg x e =>
    let mag := roundCode f m.rm neg x e
    if mag = 0 then zero neg
    else if f.max < mag then (if code = 3 || code = 5 then withSign f neg f.max else beyond neg false)
    else if m.flushes code && mag < 2 ^ f.fb then zero neg
    else withSign f neg mag

/-- A value rounded to an integer (02 R30): its magnitude. -/
def roundMag (rm : Nat) (neg : Bool) (m : Nat) (e : Int) : Nat := roundAt rm neg m e 0

/-- A value as an integer of a format, clamped (02 R36); NaN and zeros give 0. -/
def toIntF (rm : Nat) (bits : Nat) (signed : Bool) (v : FVal) : Int :=
  let hi : Int := if signed then 2 ^ (bits - 1) - 1 else 2 ^ bits - 1
  let lo : Int := if signed then -(2 ^ (bits - 1)) else 0
  match v with
  | .nan _ | .zero _ => 0
  | .inf neg => if neg then lo else hi
  | .num neg m e =>
    let x : Int := roundMag rm neg m e
    max lo (min hi (if neg then -x else x))

/-! ### Exact arithmetic (06 R136) -/

/-- The exact sum; an exact zero sum of opposite signs is +0, under RDN −0. -/
def addF (rm : Nat) (x y : FVal) : FVal :=
  match x, y with
  | .nan _, _ | _, .nan _ => .nan false
  | .inf a, .inf b => if a = b then .inf a else .nan false
  | .inf a, _ => .inf a
  | _, .inf b => .inf b
  | .zero a, .zero b => if a = b then .zero a else .zero (rm = 3)
  | .zero _, y => y
  | x, .zero _ => x
  | .num a m e, .num b n g =>
    let lo := min e g
    let p : Int := (m * 2 ^ (e - lo).toNat : Nat)
    let q : Int := (n * 2 ^ (g - lo).toNat : Nat)
    let z := (if a then -p else p) + (if b then -q else q)
    if z = 0 then .zero (rm = 3) else .num (z < 0) z.natAbs lo

/-- The exact product. -/
def mulF (x y : FVal) : FVal :=
  match x, y with
  | .nan _, _ | _, .nan _ => .nan false
  | .inf _, .zero _ | .zero _, .inf _ => .nan false
  | .inf a, .inf b | .inf a, .num b _ _ | .num a _ _, .inf b => .inf (a != b)
  | .zero a, .zero b | .zero a, .num b _ _ | .num a _ _, .zero b => .zero (a != b)
  | .num a m e, .num b n g => .num (a != b) (m * n) (e + g)

/-- The quotient, with enough bits and a sticky bit below them to be rounded once (06 R150). -/
def divF (x y : FVal) : FVal :=
  match x, y with
  | .nan _, _ | _, .nan _ => .nan false
  | .inf _, .inf _ | .zero _, .zero _ => .nan false
  | .inf a, .zero b | .inf a, .num b _ _ => .inf (a != b)
  | .zero a, .inf b | .zero a, .num b _ _ | .num a _ _, .inf b => .zero (a != b)
  | .num a _ _, .zero b => .inf (a != b)
  | .num a m e, .num b n g =>
    let z := m * 2 ^ 64
    .num (a != b) (2 * (z / n) + (if z % n = 0 then 0 else 1)) (e - g - 65)

/-- The integer square root of a number below 4^k. -/
def isqrt (n : Nat) : Nat → Nat → Nat
  | 0, r => r
  | k + 1, r => if (r + 2 ^ k) * (r + 2 ^ k) ≤ n then isqrt n k (r + 2 ^ k) else isqrt n k r

/-- The square root, with enough bits and a sticky bit below them to be rounded once (06 R150). -/
def sqrtF (x : FVal) : FVal :=
  match x with
  | .nan _ => .nan false
  | .zero a => .zero a
  | .inf a => if a then .nan false else .inf false
  | .num true _ _ => .nan false
  | .num false m e =>
    -- the exponent is made even; 64 more bits are kept
    let (m, e) := if e % 2 = 0 then (m, e) else (2 * m, e - 1)
    let z := m * 2 ^ 64
    let r := isqrt z 64 0
    .num false (2 * r + (if r * r = z then 0 else 1)) (e / 2 - 33)

/-! ### Operations on FP32, FP16 and BF16 codes (06 R136 to R144) -/

/-- A binary operation on elements of a format, rounded once. -/
def binF (m : Modes) (sat : Bool) (code : Nat) (op : FVal → FVal → FVal) (a b : Nat) : Nat :=
  encodeF m sat code (op (decodeF m code a) (decodeF m code b))

/-- A fused multiply-add on elements of a format, rounded once. -/
def fmaF (m : Modes) (sat : Bool) (code a b d : Nat) : Nat :=
  encodeF m sat code (addF m.rm (mulF (decodeF m code a) (decodeF m code b)) (decodeF m code d))

/-- The two elements of a register apart (02 R37, 06 R144). -/
def packed (op : Nat → Nat → Nat → Nat) (a b d : Word) : Word :=
  let half := fun (x : Word) (i : Nat) => (x.extractLsb' (16 * i) 16).toNat
  BitVec.ofNat 32 (op (half a 0) (half b 0) (half d 0) + 65536 * op (half a 1) (half b 1) (half d 1))

/-- An FP32 input: flushed where the modes say so (02 R27). -/
def flush32 (m : Modes) (x : Word) : Word := if m.ftz32 && subnormal (fmtOf 0) x.toNat then x &&& 0x80000000 else x

/-- The word is a NaN of FP32. -/
def isNan32 (x : Word) : Bool := 0x7F800000 < (x &&& 0x7FFFFFFF).toNat

/-- A number that orders FP32 codes that are no NaN, −0 just below +0. -/
def order32 (x : Word) : Int := if x.getLsbD 31 then -((x &&& 0x7FFFFFFF).toNat : Int) - 1 else (x.toNat : Int)

/-- minimumNumber and maximumNumber (06 R138). -/
def minMax32 (m : Modes) (greater : Bool) (a b : Word) : Word :=
  let a := flush32 m a
  let b := flush32 m b
  if isNan32 a && isNan32 b then 0x7FC00000
  else if isNan32 a then b
  else if isNan32 b then a
  else if (decide (order32 a ≤ order32 b)) != greater then a else b

/-- The class of an FP32 code (06 R140). -/
def class32 (x : Word) : Word :=
  let neg := x.getLsbD 31
  let mag := (x &&& 0x7FFFFFFF).toNat
  if isNan32 x then (if x.getLsbD 22 then 0x200 else 0x100)
  else if mag = 0x7F800000 then (if neg then 0x001 else 0x080)
  else if 0x00800000 ≤ mag then (if neg then 0x002 else 0x040)
  else if mag != 0 then (if neg then 0x004 else 0x020)
  else if neg then 0x008 else 0x010

/-- FRND (06 R141). -/
def roundInt32 (m : Modes) (b : Word) : Word :=
  let b := flush32 m b
  if isNan32 b then 0x7FC00000
  else match decodeRaw 0 b.toNat with
    | .num neg x e =>
      if 0x4B000000 ≤ (b &&& 0x7FFFFFFF).toNat then b
      else
        let n := roundMag m.rm neg x e
        BitVec.ofNat 32 (encodeF m false 0 (if n = 0 then .zero neg else .num neg n 0))
    | _ => b

/-- FSCALE (06 R141). An exponent beyond ±1,000 acts as ±1,000: the result overflows or underflows all the same. -/
def scale32 (m : Modes) (sat : Bool) (a b : Word) : Word :=
  let n := max (-1000) (min 1000 b.toInt)
  BitVec.ofNat 32 (encodeF m sat 0 (match decodeF m 0 a.toNat with
    | .num neg x e => .num neg x (e + n)
    | v => v))

/-! ### Conversions (06 R142, R143) -/

/-- FCVT: the pair's destination and source codes. -/
def convert (m : Modes) (sat : Bool) (dst src : Nat) (x : Nat) : Nat := encodeF m sat dst (decodeF m src x)

/-- The integer of an integer format in the low bits of a word (02 R24, R25). -/
def intOf (code : Nat) (x : Nat) : Int :=
  let (bits, signed) := intFmt code
  let y := x % 2 ^ bits
  if signed && 2 ^ (bits - 1) ≤ y then (y : Int) - 2 ^ bits else y

/-- ICVT. -/
def convertInt (m : Modes) (sat : Bool) (dst src : Nat) (x : Nat) : Nat := encodeF m sat dst (FVal.ofInt (intOf src x))

/-- FICVT: the integer as 32 bits. -/
def convertToInt (m : Modes) (dst src : Nat) (x : Nat) : Word :=
  let (bits, signed) := intFmt dst
  BitVec.ofInt 32 (toIntF m.rm bits signed (decodeF m src x))

/-- An element of a packed register (02 R37). -/
def element (code : Nat) (x : Word) (pos : Nat) : Nat :=
  let w := (fmtOf code).bits
  (x.extractLsb' (w * pos) w).toNat

/-- A packed register with an element replaced (06 R143). -/
def setElement (code : Nat) (d : Word) (pos x : Nat) : Word :=
  let w := (fmtOf code).bits
  let hole := (BitVec.ofNat 32 (2 ^ w - 1)) <<< (w * pos)
  (d &&& ~~~hole) ||| ((BitVec.ofNat 32 x) <<< (w * pos) &&& hole)

/-! ### Block floating point (02 R38 to R41, R46) -/

/-- The floor of log2 of a magnitude, none for zero. -/
def FVal.log : FVal → Option Int
  | .num _ m e => some ((Nat.log2 m : Int) + e)
  | _ => none

/-- Encodes a block to bfp-m (02 R40): the exponent byte and the mantissas. -/
def encodeBlock (rm m : Nat) (xs : List FVal) : Nat × List Int :=
  let bad := xs.any fun x => match x with
    | .nan _ | .inf _ => true
    | _ => false
  let nan := (0xFF, xs.map fun _ => (0 : Int))
  if bad then nan
  else match xs.filterMap FVal.log with
    | [] => (0, xs.map fun _ => (0 : Int))
    | l :: ls =>
      let e := max 0 (ls.foldl max l + 128)
      if 254 < e then nan
      else (e.toNat, xs.map fun x => match x with
        | .num neg y g =>
          let n : Int := roundMag rm neg y (g + (m : Int) - 1 - (e - 127))
          max (-(2 ^ (m - 1))) (min (2 ^ (m - 1) - 1) (if neg then -n else n))
        | _ => 0)

/-- The value of a mantissa of a bfp-m block (02 R38). -/
def blockVal (m e : Nat) (x : Int) : FVal :=
  if e = 0xFF then .nan false
  else if x = 0 then .zero false
  else .num (x < 0) x.natAbs ((e : Int) - 127 - ((m : Int) - 1))

/-- The signed value of the low `m` bits. -/
def sext (m x : Nat) : Int := let y := x % 2 ^ m; if 2 ^ (m - 1) ≤ y then (y : Int) - 2 ^ m else y

end Sys2Proof.Machine
end

