-- ==== Sys2Proof/Machine/Elementary.lean ====
section
/-! DEFINITION. The functions to which 06 R150 gives a bound: their exact values enclosed, and the choice, which the spec
leaves to the implementation, among the FP32 numbers within the bound (log entry 4). A number x stands for x · 2^−160. -/

namespace Sys2Proof.Machine

/-! ### Fixed point -/

/-- 2^160. -/
def fixOne : Int := 0x10000000000000000000000000000000000000000

/-- A product. -/
def fixMul (x y : Int) : Int := x * y / fixOne

/-- m · 2^e, which every FP32 number is exactly. -/
def fixOf (m : Nat) (e : Int) : Int := if 0 ≤ e + 160 then m * 2 ^ (e + 160).toNat else m / 2 ^ (-(e + 160)).toNat

/-- A number as an exact value. -/
def fixVal (x : Int) : FVal := if x = 0 then .zero false else .num (x < 0) x.natAbs (-160)

/-- The sum of terms, each computed from the one before it and its index. -/
def fixSeries (next : Nat → Int → Int) : Nat → Nat → Int → Int
  | 0, _, _ => 0
  | fuel + 1, k, t => t + fixSeries next fuel (k + 1) (next (k + 1) t)

/-- 1/2π in multiples of 2^−320. -/
def turnsPerRadian : Nat := 0x28be60db9391054a7f09d5f47d4d377036d8a5664f10e4107f9458eaf7aef1586dc91b8e909374b8

/-- 2π, log 2 and 2/√π. -/
def fixTwoPi : Int := 0x6487ed5110b4611a62633145c06e0e68948127044
def fixLogTwo : Int := 0xb17217f7d1cf79abc9e3b39803f2f6af40f34326
def fixErfScale : Int := 0x120dd750429b6d11ae3a914fed7fd8688281341d7

/-! ### The functions -/

/-- e^x, for x of at most 1 in magnitude. -/
def fixExp (x : Int) : Int := fixSeries (fun k t => fixMul t x / k) 60 0 fixOne

/-- e^−x for 0 ≤ x. -/
def fixExpNeg (x : Int) : Int :=
  if 128 * fixOne ≤ x then 0
  else Nat.repeat (fun y => fixMul y y) 8 (fixExp (-(x / 256)))

/-- The angle of a magnitude in radians, between −π and π. -/
def fixAngle (m : Nat) (e : Int) : Int :=
  let t := if 0 ≤ e then m * 2 ^ e.toNat * turnsPerRadian else m * turnsPerRadian / 2 ^ (-e).toNat
  let f : Int := (t % 2 ^ 320 / 2 ^ 160 : Nat)
  fixMul (if 2 * f < fixOne then f else f - fixOne) fixTwoPi

/-- The sine and the cosine of an angle between −π and π. -/
def fixSin (x : Int) : Int := fixSeries (fun k t => -fixMul t (fixMul x x) / (2 * k * (2 * k + 1) : Nat)) 40 0 x
def fixCos (x : Int) : Int := fixSeries (fun k t => -fixMul t (fixMul x x) / ((2 * k - 1) * (2 * k) : Nat)) 40 0 fixOne

/-- The hyperbolic tangent of a magnitude. -/
def fixTanh (x : Int) : Int :=
  let y := fixExpNeg (2 * x)
  (fixOne - y) * fixOne / (fixOne + y)

/-- The logistic sigmoid. -/
def fixSigm (neg : Bool) (x : Int) : Int :=
  let y := fixExpNeg x
  (if neg then y else fixOne) * fixOne / (fixOne + y)

/-- The error function of a magnitude; above 8 it is 1 but for less than 2^−90. -/
def fixErf (x : Int) : Int :=
  if 8 * fixOne ≤ x then fixOne
  else
    let q := fixMul x x
    fixMul fixErfScale (fixMul (fixExpNeg q) (fixSeries (fun k t => fixMul t (2 * q) / (2 * k + 1 : Nat)) 200 0 x))

/-- The bits of log2 x below the point, for x from 1 to 2: squaring doubles the logarithm. -/
def fixLogBits : Nat → Int → Int → Int
  | 0, _, acc => acc
  | k + 1, x, acc =>
    let y := fixMul x x
    if 2 * fixOne ≤ y then fixLogBits k (y / 2) (2 * acc + 1) else fixLogBits k y (2 * acc)

/-- log2 (m · 2^e), 0 < m. -/
def fixLog2 (m : Nat) (e : Int) : Int :=
  let l := Nat.log2 m
  (l + e) * fixOne + fixLogBits 80 (m * fixOne / 2 ^ l) 0 * 2 ^ 80

/-- 1/√(m · 2^e), 0 < m. -/
def fixRsq (m : Nat) (e : Int) : Int :=
  (isqrt (if 0 ≤ e then 2 ^ 320 / (m * 2 ^ e.toNat) else 2 ^ 320 * 2 ^ (-e).toNat / m) 240 0 : Nat)

/-! ### Enclosures: the exact value lies between the two numbers -/

/-- What the computation of a value leaves off is at most d, and the value lies between lo and hi. -/
def enclose (lo hi d y : Int) : Int × Int := (max lo (y - d), min hi (y + d))

/-- A value just below a magnitude below 2^−40: the sine and the hyperbolic tangent leave off less than a part in 2^80. -/
def justBelow (x : Int) : Int × Int := (x - x / 2 ^ 80 - 1, x)

/-- The negative of a value, where `neg`. -/
def signed (neg : Bool) (x : Int × Int) : Int × Int := if neg then (-x.2, -x.1) else x

def encloseSin (m : Nat) (e : Int) : Int × Int :=
  if fixOf m e < 2 ^ 120 then justBelow (fixOf m e) else enclose (1 - fixOne) (fixOne - 1) (2 ^ 20) (fixSin (fixAngle m e))
def encloseCos (m : Nat) (e : Int) : Int × Int := enclose (-fixOne) fixOne (2 ^ 20) (min (fixOne - 1) (fixCos (fixAngle m e)))
def encloseTanh (x : Int) : Int × Int :=
  if x < 2 ^ 120 then justBelow x else enclose 0 fixOne (2 ^ 20) (min (fixOne - 1) (fixTanh x))
def encloseSigm (neg : Bool) (x : Int) : Int × Int :=
  let y := fixSigm neg x
  if neg then enclose 0 (fixOne / 2) (2 ^ 20) y else enclose (fixOne / 2) fixOne (2 ^ 20) (min (fixOne - 1) y)
def encloseErf (x : Int) : Int × Int :=
  enclose 0 fixOne (if 4 * fixOne ≤ x then 2 ^ 100 else 2 ^ 32) (min (fixOne - 1) (fixErf x))
def encloseLog2 (m : Nat) (e : Int) : Int × Int := let y := fixLog2 m e; (y - 2 ^ 84, y + 2 ^ 84)

/-- 1/√(m · 2^e), exactly where the root has no rest. -/
def encloseRsq (m : Nat) (e : Int) : Int × Int :=
  let r := fixRsq m e
  (r, if r * r * m * 2 ^ e.toNat = 2 ^ 320 * 2 ^ (-e).toNat then r else r + 1)

/-! ### The choice within a bound -/

/-- A unit in the last place of the FP32 numbers about x. -/
def fixUlp (x : Int) : Int := 2 ^ (max ((Nat.log2 x.natAbs : Int) - 160) (-126) + 137).toNat

/-- The place of an FP32 number in the order of all, −0 just below +0, and the number of a place. -/
def place32 (x : Nat) : Nat := if x < 2 ^ 31 then 2 ^ 31 + x else 2 ^ 32 - 1 - x
def ofPlace32 (p : Nat) : Nat := if p < 2 ^ 31 then 2 ^ 32 - 1 - p else p - 2 ^ 31

/-- An FP32 number from lo to hi that the implementation chooses by the function, the operand and the snapshot (06
R150), flushed under the snapshot. -/
def choose32 (m : Modes) (op : Nat) (a fpcr : Word) (lo hi : FVal) : Word :=
  let p := place32 (encodeF (Modes.plain 4) false 0 lo)
  let q := place32 (encodeF (Modes.plain 3) false 0 hi)
  let free := Config.special op a ((fpcr &&& 0xFFFFFFF8) ||| BitVec.ofNat 32 m.rm)
  flush32 m (BitVec.ofNat 32 (ofPlace32 (p + free.toNat % (q + 1 - p))))

/-- A result within a bound of a value that lies between lo and hi: the bound is drawn inwards by what is left open of the
value, so that no result lies outside it (06 R150). -/
def within (m : Modes) (op : Nat) (a fpcr : Word) (x : Int × Int) (bound : Int) : Word :=
  choose32 m op a fpcr (fixVal (x.2 - bound)) (fixVal (x.1 + bound))

end Sys2Proof.Machine
end

