-- ==== Sys2Proof/Machine/Flags.lean ====
section
/-! DEFINITION. Results and conditions of the integer and mask instructions (05 R97 to R103, 06 R125 to R129): what a
mask bit is written with, saturation, division, shifts, bit fields. The machine has no arithmetic flags; the bits that
instructions compute go to mask registers. -/

namespace Sys2Proof.Machine

/-! ### Conditions -/

/-- The integer conditions (06 R126). -/
def testInt (cond : Nat) (a b : Word) : Bool :=
  match cond with
  | 0 => a == b
  | 1 => a != b
  | 2 => a.slt b
  | 3 => a.sle b
  | 4 => b.slt a
  | 5 => b.sle a
  | 6 => a.ult b
  | 7 => a.ule b
  | 8 => b.ult a
  | _ => b.ule a

/-- FP32 words read as equal where they are the same zero or the same number. -/
def sameF (a b : Word) : Bool := a == b || (a ||| b) &&& 0x7FFFFFFF == 0

/-- The floating conditions, on flushed operands (06 R127). -/
def testFloat (cond : Nat) (a b : Word) : Bool :=
  let un := isNan32 a || isNan32 b
  let eq := sameF a b
  let gt := !eq && decide (order32 b < order32 a)
  let lt := !eq && decide (order32 a < order32 b)
  match cond with
  | 0 => false
  | 1 => !un && eq
  | 2 => !un && gt
  | 3 => !un && (gt || eq)
  | 4 => !un && lt
  | 5 => !un && (lt || eq)
  | 6 => !un && !eq
  | 7 => !un
  | 8 => un
  | 9 => un || eq
  | 10 => un || gt
  | 11 => un || gt || eq
  | 12 => un || lt
  | 13 => un || lt || eq
  | 14 => un || !eq
  | _ => true

/-! ### Saturation (05 R98) -/

/-- An exact value clamped to a signed width. -/
def clampS (n : Nat) (x : Int) : BitVec n := BitVec.ofInt n (max (-(2 ^ (n - 1))) (min (2 ^ (n - 1) - 1) x))

/-- An exact value wrapped, or with sat clamped. -/
def narrow (n : Nat) (sat : Bool) (x : Int) : BitVec n := if sat then clampS n x else BitVec.ofInt n x

/-! ### Integer results (05 R97 to R103) -/

def addI (n : Nat) (sat : Bool) (a b : BitVec n) : BitVec n := narrow n sat (a.toInt + b.toInt)
def subI (n : Nat) (sat : Bool) (a b : BitVec n) : BitVec n := narrow n sat (a.toInt - b.toInt)
def mulI (sat : Bool) (a b : Word) : Word := narrow 32 sat (a.toInt * b.toInt)
def madI (sat : Bool) (a b d : Word) : Word := narrow 32 sat (a.toInt * b.toInt + d.toInt)
def absI (sat : Bool) (b : Word) : Word := narrow 32 sat (b.toInt.natAbs : Int)
def negI (sat : Bool) (b : Word) : Word := narrow 32 sat (-b.toInt)

/-- The exact products as pairs (05 R97). -/
def mulWide (signed : Bool) (a b : Word) : DWord :=
  if signed then BitVec.ofInt 64 (a.toInt * b.toInt) else BitVec.ofNat 64 (a.toNat * b.toNat)
def mulHigh (signed : Bool) (a b : Word) : Word := (mulWide signed a b).extractLsb' 32 32

/-- Division and remainder (05 R99). -/
def quotI (signed : Bool) (a b : Word) : Word :=
  if b == 0 then 0xFFFFFFFF
  else if signed then BitVec.ofInt 32 (Int.tdiv a.toInt b.toInt) else BitVec.ofNat 32 (a.toNat / b.toNat)
def remI (signed : Bool) (a b : Word) : Word :=
  if b == 0 then a
  else if signed then BitVec.ofInt 32 (Int.tmod a.toInt b.toInt) else BitVec.ofNat 32 (a.toNat % b.toNat)

def minS (a b : Word) : Word := if a.sle b then a else b
def maxS (a b : Word) : Word := if a.sle b then b else a
def minN (a b : Word) : Word := if a.ule b then a else b
def maxN (a b : Word) : Word := if a.ule b then b else a

/-- Shifts by an unsigned amount (05 R100). -/
def shlI (a : Word) (n : Nat) : Word := if n < 32 then a <<< n else 0
def shrI (a : Word) (n : Nat) : Word := if n < 32 then a >>> n else 0
def sraI (a : Word) (n : Nat) : Word := a.sshiftRight (min n 31)
def rolI (a : Word) (n : Nat) : Word := a.rotateLeft (n % 32)

/-- Bits below the first 1 from the top; 32 for 0. -/
def clzI (b : Word) : Word := if b == 0 then 32 else BitVec.ofNat 32 (31 - Nat.log2 b.toNat)
/-- Zero bits below the first 1 from the bottom; 32 for 0. -/
def ctzI (b : Word) : Word := if b == 0 then 32 else BitVec.ofNat 32 (Nat.log2 (b &&& (0 - b)).toNat)
/-- The 1 bits of a value. -/
def popcount {n : Nat} (b : BitVec n) : Nat := ((List.range n).filter b.getLsbD).length
/-- Bit i becomes bit 31 − i. -/
def brevI (b : Word) : Word := (List.range 32).foldl (fun x i => if b.getLsbD i then x ||| (1#32 <<< (31 - i)) else x) 0

/-- The width and position of a bit-field control word (05 R101). -/
def fieldW (b : Word) : Nat := min (b.extractLsb' 8 6).toNat 32
def fieldPos (b : Word) : Nat := (b.extractLsb' 0 5).toNat

/-- BFX (05 R101). -/
def bfxI (a b : Word) : Word :=
  let w := fieldW b
  let field := (a.toNat / 2 ^ fieldPos b) % 2 ^ w
  if w = 0 then 0
  else if b.getLsbD 15 && field / 2 ^ (w - 1) % 2 = 1 then BitVec.ofNat 32 (field ||| (2 ^ 32 - 2 ^ w))
  else BitVec.ofNat 32 field

/-- BFI (05 R101). -/
def bfiI (a b d : Word) : Word :=
  let mask := (BitVec.ofNat 32 (2 ^ fieldW b - 1)) <<< fieldPos b
  (d &&& ~~~mask) ||| ((a <<< fieldPos b) &&& mask)

/-- PRMB (05 R102). -/
def prmbI (a b d : Word) : Word :=
  let src : DWord := b ++ a
  let byte := fun (i : Nat) =>
    let n := d.extractLsb' (4 * i) 4
    let x : Byte := src.extractLsb' (8 * (n.extractLsb' 0 3).toNat) 8
    if n.getLsbD 3 then (if x.getLsbD 7 then 0xFF#8 else 0#8) else x
  byte 3 ++ byte 2 ++ byte 1 ++ byte 0

/-- SEL (05 R97). -/
def selI (a b d : Word) : Word := if d == 0 then b else a

/-! ### Immediates (04 R75, 05 R103) -/

/-- A signed immediate of an I word, widened to 30 bits by a W word. -/
def immI (p : Pfx) (imm : BitVec 8) : Int := match p.w with
  | some w => (w ++ imm).toInt
  | none => imm.toInt

/-- A signed immediate of an L word, of which 32 bits are kept. -/
def immL (p : Pfx) (imm : BitVec 15) : Word := match p.w with
  | some w => ((w ++ imm : BitVec 37)).setWidth 32
  | none => imm.signExtend 32

/-- The immediate as an operand. -/
def immW (p : Pfx) (imm : BitVec 8) : Word := BitVec.ofInt 32 (immI p imm)

end Sys2Proof.Machine
end

