-- ==== Sys2Proof/Machine/Integer.lean ====
section
/-! DEFINITION. The integer instructions (05 R94 to R104): each issuing thread's result, computed from the registers as
read at the issue cycle, lands in its d register after the fixed latency. -/

namespace Sys2Proof.Machine

namespace State

/-- Operand B of a T word (05 R94): a vector register, or with u = 1 a uniform register. -/
def opB (s : State) (t : Tid) (f : TF) : Word :=
  if f.u then (s.groupOf t).sreg f.b.toNat else (s.thread t).vreg f.b.toNat

/-- Operand B as a pair. -/
def opB2 (s : State) (t : Tid) (f : TF) : DWord :=
  if f.u then (s.groupOf t).spair f.b.toNat else (s.thread t).vpair f.b.toNat

/-- Operand A of a T word. -/
def opA (s : State) (t : Tid) (f : TF) : Word := (s.thread t).vreg f.a.toNat

/-- Operand D: the fourth operand where it is given (04 R72, 05 R94). -/
def opD (s : State) (t : Tid) (f : TF) : Word := (s.thread t).vreg (f.p.dSource f.d).toNat

/-- A per-thread bundle with a fixed-latency result in a vector register (05 R94). -/
def vecOp (s : State) (i : Instr) (d : Field) (val : State → Tid → Word) : State :=
  s.perThread i fun s t => .done (s.fixedOwn t (s.vdst t d.toNat (val s t)) i.info.lat)

/-- A per-thread bundle with a fixed-latency result in a vector pair. -/
def vecOp2 (s : State) (i : Instr) (d : Field) (val : State → Tid → DWord) : State :=
  s.perThread i fun s t =>
    let x := val s t
    .done ((s.vdst2 t d.toNat x).foldl (fun s d => s.fixedOwn t d i.info.lat) s)

/-- Operands A and B to a result. -/
def vecAB (s : State) (i : Instr) (f : TF) (op : Word → Word → Word) : State :=
  s.vecOp i f.d fun s t => op (s.opA t f) (s.opB t f)

/-- Operands A, B and D to a result. -/
def vecABD (s : State) (i : Instr) (f : TF) (op : Word → Word → Word → Word) : State :=
  s.vecOp i f.d fun s t => op (s.opA t f) (s.opB t f) (s.opD t f)

/-- Operand B to a result. -/
def vecB (s : State) (i : Instr) (f : TF) (op : Word → Word) : State := s.vecOp i f.d fun s t => op (s.opB t f)

/-- Operand A of an I word to a result. -/
def vecI (s : State) (i : Instr) (f : IF) (op : Word → Word) : State :=
  s.vecOp i f.d fun s t => op ((s.thread t).vreg f.a.toNat)

end State

/-- ADD: A + B (R97, R98). -/
def execAdd (f : TF) (s : State) : Host.Outcome State Fault Refusal :=
  .next (s.vecAB (.add f) f (addI 32 f.p.sat))

/-- SUB: A − B (R97, R98). -/
def execSub (f : TF) (s : State) : Host.Outcome State Fault Refusal :=
  .next (s.vecAB (.sub f) f (subI 32 f.p.sat))

/-- MUL: the low word of the product (R97, R98). -/
def execMul (f : TF) (s : State) : Host.Outcome State Fault Refusal :=
  .next (s.vecAB (.mul f) f (mulI f.p.sat))

/-- MULHS: the high word of the signed product (R97). -/
def execMulhs (f : TF) (s : State) : Host.Outcome State Fault Refusal :=
  .next (s.vecAB (.mulhs f) f (mulHigh true))

/-- MULHN: the high word of the unsigned product (R97). -/
def execMulhn (f : TF) (s : State) : Host.Outcome State Fault Refusal :=
  .next (s.vecAB (.mulhn f) f (mulHigh false))

/-- DIVS: the signed quotient (R99). -/
def execDivs (f : TF) (s : State) : Host.Outcome State Fault Refusal :=
  .next (s.vecAB (.divs f) f (quotI true))

/-- DIVN: the unsigned quotient (R99). -/
def execDivn (f : TF) (s : State) : Host.Outcome State Fault Refusal :=
  .next (s.vecAB (.divn f) f (quotI false))

/-- REMS: the signed remainder (R99). -/
def execRems (f : TF) (s : State) : Host.Outcome State Fault Refusal :=
  .next (s.vecAB (.rems f) f (remI true))

/-- REMN: the unsigned remainder (R99). -/
def execRemn (f : TF) (s : State) : Host.Outcome State Fault Refusal :=
  .next (s.vecAB (.remn f) f (remI false))

/-- MINS: the signed lesser (R97). -/
def execMins (f : TF) (s : State) : Host.Outcome State Fault Refusal :=
  .next (s.vecAB (.mins f) f minS)

/-- MINN: the unsigned lesser (R97). -/
def execMinn (f : TF) (s : State) : Host.Outcome State Fault Refusal :=
  .next (s.vecAB (.minn f) f minN)

/-- MAXS: the signed greater (R97). -/
def execMaxs (f : TF) (s : State) : Host.Outcome State Fault Refusal :=
  .next (s.vecAB (.maxs f) f maxS)

/-- MAXN: the unsigned greater (R97). -/
def execMaxn (f : TF) (s : State) : Host.Outcome State Fault Refusal :=
  .next (s.vecAB (.maxn f) f maxN)

/-- AND: A and B (R97). -/
def execAnd (f : TF) (s : State) : Host.Outcome State Fault Refusal :=
  .next (s.vecAB (.and f) f (fun a b => a &&& b))

/-- OR: A or B (R97). -/
def execOr (f : TF) (s : State) : Host.Outcome State Fault Refusal :=
  .next (s.vecAB (.or f) f (fun a b => a ||| b))

/-- XOR: A xor B (R97). -/
def execXor (f : TF) (s : State) : Host.Outcome State Fault Refusal :=
  .next (s.vecAB (.xor f) f (fun a b => a ^^^ b))

/-- ANDN: A and not B (R97). -/
def execAndn (f : TF) (s : State) : Host.Outcome State Fault Refusal :=
  .next (s.vecAB (.andn f) f (fun a b => a &&& ~~~b))

/-- SHL: A shifted left (R100). -/
def execShl (f : TF) (s : State) : Host.Outcome State Fault Refusal :=
  .next (s.vecAB (.shl f) f (fun a b => shlI a b.toNat))

/-- SHR: A shifted right, zero fill (R100). -/
def execShr (f : TF) (s : State) : Host.Outcome State Fault Refusal :=
  .next (s.vecAB (.shr f) f (fun a b => shrI a b.toNat))

/-- SRA: A shifted right, sign fill (R100). -/
def execSra (f : TF) (s : State) : Host.Outcome State Fault Refusal :=
  .next (s.vecAB (.sra f) f (fun a b => sraI a b.toNat))

/-- ROL: A rotated left (R100). -/
def execRol (f : TF) (s : State) : Host.Outcome State Fault Refusal :=
  .next (s.vecAB (.rol f) f (fun a b => rolI a b.toNat))

/-- BFX: a field of A (R101). -/
def execBfx (f : TF) (s : State) : Host.Outcome State Fault Refusal :=
  .next (s.vecAB (.bfx f) f bfxI)

/-- MAD: the low word of A × B + D (R97, R98). -/
def execMad (f : TF) (s : State) : Host.Outcome State Fault Refusal :=
  .next (s.vecABD (.mad f) f (madI f.p.sat))

/-- BFI: D with a field of A (R101). -/
def execBfi (f : TF) (s : State) : Host.Outcome State Fault Refusal :=
  .next (s.vecABD (.bfi f) f bfiI)

/-- PRMB: bytes of B:A chosen by D (R102). -/
def execPrmb (f : TF) (s : State) : Host.Outcome State Fault Refusal :=
  .next (s.vecABD (.prmb f) f prmbI)

/-- SEL: A where D is not zero, else B (R97). -/
def execSel (f : TF) (s : State) : Host.Outcome State Fault Refusal :=
  .next (s.vecABD (.sel f) f selI)

/-- ABS: the absolute value of signed B (R97, R98). -/
def execAbs (f : TF) (s : State) : Host.Outcome State Fault Refusal :=
  .next (s.vecB (.abs f) f (absI f.p.sat))

/-- NEG: 0 − B (R97, R98). -/
def execNeg (f : TF) (s : State) : Host.Outcome State Fault Refusal :=
  .next (s.vecB (.neg f) f (negI f.p.sat))

/-- NOT: not B (R97). -/
def execNot (f : TF) (s : State) : Host.Outcome State Fault Refusal :=
  .next (s.vecB (.not f) f (fun b => ~~~b))

/-- CLZ: leading zero bits of B (R97). -/
def execClz (f : TF) (s : State) : Host.Outcome State Fault Refusal :=
  .next (s.vecB (.clz f) f clzI)

/-- CTZ: trailing zero bits of B (R97). -/
def execCtz (f : TF) (s : State) : Host.Outcome State Fault Refusal :=
  .next (s.vecB (.ctz f) f ctzI)

/-- POPC: the 1 bits of B (R97). -/
def execPopc (f : TF) (s : State) : Host.Outcome State Fault Refusal :=
  .next (s.vecB (.popc f) f (fun b => BitVec.ofNat 32 (popcount b)))

/-- BREV: B with its bits reversed (R97). -/
def execBrev (f : TF) (s : State) : Host.Outcome State Fault Refusal :=
  .next (s.vecB (.brev f) f brevI)

/-- MOV: B (R97). -/
def execMov (f : TF) (s : State) : Host.Outcome State Fault Refusal :=
  .next (s.vecB (.mov f) f id)

/-- ADDI: A plus a signed immediate (R97, R98, R103). -/
def execAddi (f : IF) (s : State) : Host.Outcome State Fault Refusal :=
  .next (s.vecI (.addi f) f fun a => narrow 32 f.p.sat (a.toInt + immI f.p f.imm))

/-- SHLI: as SHL, by an unsigned immediate (R100). -/
def execShli (f : IF) (s : State) : Host.Outcome State Fault Refusal :=
  .next (s.vecI (.shli f) f fun a => shlI a f.imm.toNat)

/-- SHRI: as SHR, by an unsigned immediate (R100). -/
def execShri (f : IF) (s : State) : Host.Outcome State Fault Refusal :=
  .next (s.vecI (.shri f) f fun a => shrI a f.imm.toNat)

/-- SRAI: as SRA, by an unsigned immediate (R100). -/
def execSrai (f : IF) (s : State) : Host.Outcome State Fault Refusal :=
  .next (s.vecI (.srai f) f fun a => sraI a f.imm.toNat)

/-- ADDW: the 64-bit sum of pairs (R97, R98). -/
def execAddw (f : TF) (s : State) : Host.Outcome State Fault Refusal :=
  .next (s.vecOp2 (.addw f) f.d fun s t => addI 64 f.p.sat ((s.thread t).vpair f.a.toNat) (s.opB2 t f))

/-- SUBW: the 64-bit difference of pairs (R97, R98). -/
def execSubw (f : TF) (s : State) : Host.Outcome State Fault Refusal :=
  .next (s.vecOp2 (.subw f) f.d fun s t => subI 64 f.p.sat ((s.thread t).vpair f.a.toNat) (s.opB2 t f))

/-- MULWS: the exact signed product as a pair (R97). -/
def execMulws (f : TF) (s : State) : Host.Outcome State Fault Refusal :=
  .next (s.vecOp2 (.mulws f) f.d fun s t => mulWide true (s.opA t f) (s.opB t f))

/-- MULWN: the exact unsigned product as a pair (R97). -/
def execMulwn (f : TF) (s : State) : Host.Outcome State Fault Refusal :=
  .next (s.vecOp2 (.mulwn f) f.d fun s t => mulWide false (s.opA t f) (s.opB t f))

/-- MOVL: a signed immediate (R103). -/
def execMovl (f : LF) (s : State) : Host.Outcome State Fault Refusal :=
  .next (s.vecOp (.movl f) f.d fun _ _ => immL f.p f.imm)

end Sys2Proof.Machine
end

