-- ==== Sys2Proof/Machine/Uniform.lean ====
section
/-! DEFINITION. The uniform instructions, RFL and RDL (05 R105 to R111): executed once for a group, with a result in a
uniform register at the fixed latency. -/

namespace Sys2Proof.Machine

namespace State

/-- A result in a uniform register lands after the latency, for the threads that executed (05 R106). -/
def uniResult (s : State) (n g : Nat) (ts : List Tid) (d : Nat) (x : Word) (lat : Nat) : State :=
  s.fixed ⟨n, g, 0⟩ (ts.map fun t => t.thr) (.s d x) lat

/-- A convergent bundle with a result in a uniform register (05 R105, R106). -/
def uniOp (s : State) (i : Instr) (d : Field) (val : Group → Word) : State :=
  s.converge i fun s n g ts => .done (s.uniResult n g ts d.toNat (val (s.group n g)) i.info.lat)

/-- Uniform operands A and B to a result. -/
def uniAB (s : State) (i : Instr) (f : TF) (op : Word → Word → Word) : State :=
  s.uniOp i f.d fun g => op (g.sreg f.a.toNat) (g.sreg f.b.toNat)

/-- Uniform operands A, B and D to a result. -/
def uniABD (s : State) (i : Instr) (f : TF) (op : Word → Word → Word → Word) : State :=
  s.uniOp i f.d fun g => op (g.sreg f.a.toNat) (g.sreg f.b.toNat) (g.sreg f.d.toNat)

/-- Uniform operand A of an I word to a result. -/
def uniI (s : State) (i : Instr) (f : IF) (op : Word → Word) : State :=
  s.uniOp i f.d fun g => op (g.sreg f.a.toNat)

/-- The governing mask of a convergent bundle (05 R105). -/
def govern (s : State) (i : Instr) (n g : Nat) : DWord := (s.group n g).mask i.pfx.k

end State

/-- SADD: A + B (R108). -/
def execSadd (f : TF) (s : State) : Host.Outcome State Fault Refusal :=
  .next (s.uniAB (.sadd f) f (addI 32 f.p.sat))

/-- SSUB: A − B (R108). -/
def execSsub (f : TF) (s : State) : Host.Outcome State Fault Refusal :=
  .next (s.uniAB (.ssub f) f (subI 32 f.p.sat))

/-- SMUL: the low word of the product (R108). -/
def execSmul (f : TF) (s : State) : Host.Outcome State Fault Refusal :=
  .next (s.uniAB (.smul f) f (mulI f.p.sat))

/-- SAND: A and B (R108). -/
def execSand (f : TF) (s : State) : Host.Outcome State Fault Refusal :=
  .next (s.uniAB (.sand f) f (fun a b => a &&& b))

/-- SOR: A or B (R108). -/
def execSor (f : TF) (s : State) : Host.Outcome State Fault Refusal :=
  .next (s.uniAB (.sor f) f (fun a b => a ||| b))

/-- SXOR: A xor B (R108). -/
def execSxor (f : TF) (s : State) : Host.Outcome State Fault Refusal :=
  .next (s.uniAB (.sxor f) f (fun a b => a ^^^ b))

/-- SSHL: as SHL (R108). -/
def execSshl (f : TF) (s : State) : Host.Outcome State Fault Refusal :=
  .next (s.uniAB (.sshl f) f (fun a b => shlI a b.toNat))

/-- SSHR: as SHR (R108). -/
def execSshr (f : TF) (s : State) : Host.Outcome State Fault Refusal :=
  .next (s.uniAB (.sshr f) f (fun a b => shrI a b.toNat))

/-- SSRA: as SRA (R108). -/
def execSsra (f : TF) (s : State) : Host.Outcome State Fault Refusal :=
  .next (s.uniAB (.ssra f) f (fun a b => sraI a b.toNat))

/-- SMINS: the signed lesser (R108). -/
def execSmins (f : TF) (s : State) : Host.Outcome State Fault Refusal :=
  .next (s.uniAB (.smins f) f minS)

/-- SMAXS: the signed greater (R108). -/
def execSmaxs (f : TF) (s : State) : Host.Outcome State Fault Refusal :=
  .next (s.uniAB (.smaxs f) f maxS)

/-- SMOV: A (R108). -/
def execSmov (f : TF) (s : State) : Host.Outcome State Fault Refusal :=
  .next (s.uniAB (.smov f) f (fun a _ => a))

/-- SMAD: the low word of A × B + D (R108). -/
def execSmad (f : TF) (s : State) : Host.Outcome State Fault Refusal :=
  .next (s.uniABD (.smad f) f (madI f.p.sat))

/-- SSEL: A where D is not zero, else B (R108). -/
def execSsel (f : TF) (s : State) : Host.Outcome State Fault Refusal :=
  .next (s.uniABD (.ssel f) f selI)

/-- SADDI: A plus a signed immediate (R108, R103). -/
def execSaddi (f : IF) (s : State) : Host.Outcome State Fault Refusal :=
  .next (s.uniI (.saddi f) f fun a => narrow 32 f.p.sat (a.toInt + immI f.p f.imm))

/-- SSHLI: as SHLI (R108). -/
def execSshli (f : IF) (s : State) : Host.Outcome State Fault Refusal :=
  .next (s.uniI (.sshli f) f fun a => shlI a f.imm.toNat)

/-- SSHRI: as SHRI (R108). -/
def execSshri (f : IF) (s : State) : Host.Outcome State Fault Refusal :=
  .next (s.uniI (.sshri f) f fun a => shrI a f.imm.toNat)

/-- SMOVL: a signed immediate (R108, R103). -/
def execSmovl (f : LF) (s : State) : Host.Outcome State Fault Refusal :=
  .next (s.uniOp (.smovl f) f.d fun _ => immL f.p f.imm)

/-- RFL: the vector register of the lowest thread that executes (R109). -/
def execRfl (f : TF) (s : State) : Host.Outcome State Fault Refusal :=
  .next (s.converge (.rfl f) fun s n g ts =>
    let t0 := ts.headD ⟨n, g, 0⟩
    .done (s.uniResult n g ts f.d.toNat ((s.thread t0).vreg f.a.toNat) 4))

/-- RDL: the vector register of the thread a uniform register names (R110). -/
def execRdl (f : TF) (s : State) : Host.Outcome State Fault Refusal :=
  .next (s.converge (.rdl f) fun s n g ts =>
    let k := ((s.group n g).sreg f.b.toNat).toNat
    if (s.team n).width ≤ k then .trap s (Request.of .convergence (BitVec.ofNat 64 k))
    else
      let x := if (s.govern (.rdl f) n g).getLsbD k then (s.thread ⟨n, g, k⟩).vreg f.a.toNat else 0
      .done (s.uniResult n g ts f.d.toNat x 4))

end Sys2Proof.Machine
end

