-- ==== Sys2Proof/Machine/Masks.lean ====
section
/-! DEFINITION. Masks and compares (06 R125 to R130): a compare writes its thread's bit of a mask register; a convergent
mask instruction writes the positions of its governing mask. -/

namespace Sys2Proof.Machine

namespace State

/-- A per-thread bundle that writes its thread's bit of a mask register (06 R125). -/
def bitOp (s : State) (i : Instr) (kd : Nat) (val : State → Tid → Bool) : State :=
  s.perThread i fun s t =>
    .done (s.fixedOwn t (.k kd (bit64 t.thr) (if val s t then bit64 t.thr else 0)) i.info.lat)

/-- Operand B of a K word. -/
def opBK (s : State) (t : Tid) (f : KF) : Word :=
  if f.u then (s.groupOf t).sreg f.b.toNat else (s.thread t).vreg f.b.toNat

/-- The FPCR of a thread under the rounding option of a bundle (01 R22). -/
def modes (s : State) (t : Tid) (p : Pfx) : Modes := Modes.of (s.thread t).fpcr p.rm

/-- A convergent bundle that writes the governed positions of a mask register (06 R129); `val` takes the group and its
governing mask. -/
def maskOp (s : State) (i : Instr) (kd : Nat) (val : Group → DWord → DWord) : State :=
  s.converge i fun s n g ts =>
    let gm := s.govern i n g
    .done (s.fixed ⟨n, g, 0⟩ (ts.map fun t => t.thr) (.k kd gm (val (s.group n g) gm &&& gm)) i.info.lat)

/-- Mask operands a and b to governed positions of kd. -/
def maskAB (s : State) (i : Instr) (f : KF) (op : DWord → DWord → DWord) : State :=
  s.maskOp i f.kd.toNat fun g _ => op (g.mask f.a.toNat) (g.mask f.b.toNat)

end State

/-- CMP: an integer condition of A and B (R125, R126). -/
def execCmp (f : KF) (s : State) : Host.Outcome State Fault Refusal :=
  .next (s.bitOp (.cmp f) f.kd.toNat fun s t => testInt f.cond.toNat ((s.thread t).vreg f.a.toNat) (s.opBK t f))

/-- CMPI: an integer condition of A and the signed 7-bit immediate (R125, R126). -/
def execCmpi (f : KF) (s : State) : Host.Outcome State Fault Refusal :=
  .next (s.bitOp (.cmpi f) f.kd.toNat fun s t =>
    testInt f.cond.toNat ((s.thread t).vreg f.a.toNat) (f.b.signExtend 32))

/-- FCMP: a floating condition of A and B (R125, R127). -/
def execFcmp (f : KF) (s : State) : Host.Outcome State Fault Refusal :=
  .next (s.bitOp (.fcmp f) f.kd.toNat fun s t =>
    let m := s.modes t f.p
    testFloat f.cond.toNat (flush32 m ((s.thread t).vreg f.a.toNat)) (flush32 m (s.opBK t f)))

/-- SCMP: a condition of uniform registers into governed positions (R126, R128). -/
def execScmp (f : KF) (s : State) : Host.Outcome State Fault Refusal :=
  .next (s.maskOp (.scmp f) f.kd.toNat fun g _ =>
    if testInt f.cond.toNat (g.sreg f.a.toNat) (g.sreg f.b.toNat) then BitVec.allOnes 64 else 0)

/-- KAND (R128, R129). -/
def execKand (f : KF) (s : State) : Host.Outcome State Fault Refusal := .next (s.maskAB (.kand f) f fun a b => a &&& b)
/-- KOR (R128, R129). -/
def execKor (f : KF) (s : State) : Host.Outcome State Fault Refusal := .next (s.maskAB (.kor f) f fun a b => a ||| b)
/-- KXOR (R128, R129). -/
def execKxor (f : KF) (s : State) : Host.Outcome State Fault Refusal := .next (s.maskAB (.kxor f) f fun a b => a ^^^ b)
/-- KANDN (R128, R129). -/
def execKandn (f : KF) (s : State) : Host.Outcome State Fault Refusal :=
  .next (s.maskAB (.kandn f) f fun a b => a &&& ~~~b)
/-- KNOT (R128, R129). -/
def execKnot (f : KF) (s : State) : Host.Outcome State Fault Refusal := .next (s.maskAB (.knot f) f fun a _ => ~~~a)
/-- KMOV (R128, R129). -/
def execKmov (f : KF) (s : State) : Host.Outcome State Fault Refusal := .next (s.maskAB (.kmov f) f fun a _ => a)

/-- KFIRST: the lowest set bit of ka under the governing mask (R128, R129). -/
def execKfirst (f : KF) (s : State) : Host.Outcome State Fault Refusal :=
  .next (s.maskOp (.kfirst f) f.kd.toNat fun g gm => let x := g.mask f.a.toNat &&& gm; x &&& (0 - x))

/-- KALL: 1 where ka covers the governing mask (R128, R129). -/
def execKall (f : KF) (s : State) : Host.Outcome State Fault Refusal :=
  .next (s.maskOp (.kall f) f.kd.toNat fun g gm => if g.mask f.a.toNat &&& gm = gm then BitVec.allOnes 64 else 0)

/-- KPOP: the 1 bits of ka under the governing mask (R128). -/
def execKpop (f : TF) (s : State) : Host.Outcome State Fault Refusal :=
  .next (s.uniOp (.kpop f) f.d fun g => BitVec.ofNat 32 (popcount (g.mask f.a.toNat &&& g.mask f.p.k)))

/-- BALLOT: the mask of the participants whose v[a] is not zero, in an s pair (R128, R129). -/
def execBallot (f : TF) (s : State) : Host.Outcome State Fault Refusal :=
  .next (s.converge (.ballot f) fun s n g ts =>
    let x := ts.foldl (fun (m : DWord) t => if (s.thread t).vreg f.a.toNat == 0 then m else m ||| bit64 t.thr) 0
    .done ((s.uniResult n g ts f.d.toNat (x.extractLsb' 0 32) 2).uniResult n g ts (f.d.toNat + 1) (x.extractLsb' 32 32) 2))

/-- KFROM: the thread's bit is v[a] not zero (R125). -/
def execKfrom (f : KF) (s : State) : Host.Outcome State Fault Refusal :=
  .next (s.bitOp (.kfrom f) f.kd.toNat fun s t => (s.thread t).vreg f.a.toNat != 0)

/-- KTOV: all ones or zero by the thread's bit of ka (R128, R129). -/
def execKtov (f : TF) (s : State) : Host.Outcome State Fault Refusal :=
  .next (s.vecOp (.ktov f) f.d fun s t => if ((s.groupOf t).mask f.a.toNat).getLsbD t.thr then 0xFFFFFFFF else 0)

end Sys2Proof.Machine
end

