-- ==== Sys2Proof/Machine/CrossLane.lean ====
section
/-! DEFINITION. Cross-lane instructions (06 R131 to R135) and the block conversions QENC and QDEC (R145, R146): executed
once for a group, each participant's result landing at the latency of the group's width. -/

namespace Sys2Proof.Machine

/-- The nominal latency of a cross-lane result (06 R131). -/
def crossLatency (width : Nat) : Nat := if width ≤ 16 then 8 else if width = 32 then 10 else 12

namespace State

/-- Results of a convergent bundle that land together later, each owned by its threads (04 R85, 06 R131). -/
def laterEach (s : State) (n g : Nat) (ds : List (List Nat × Dst)) (delay : Nat) : State :=
  let (id, s) := s.newId
  let s := s.modGroup n g fun gr => { gr with pend := gr.pend ++ ds.map fun d => ⟨d.2, none, id, d.1, false⟩ }
  s.after delay .variableLatencyResult { team := n, grp := g, id := id }

/-- The source words of the participants (06 R131). -/
def sources (s : State) (ts : List Tid) (a : Field) : List (Nat × Word) :=
  ts.map fun t => (t.thr, (s.thread t).vreg a.toNat)

/-- A convergent bundle with a word for each participant at the cross-lane latency. -/
def crossOp (s : State) (i : Instr) (f : TF) (val : State → List (Nat × Word) → Tid → Word) : State :=
  s.converge i fun s n g ts =>
    let xs := s.sources ts f.a
    .done (s.laterEach n g (ts.map fun t => ([t.thr], s.vdst t f.d.toNat (val s xs t))) (crossLatency (s.team n).width))

/-- The word of a thread of the group: 0 for one that is no participant (06 R131). -/
def fromThread (xs : List (Nat × Word)) (k : Nat) : Word := match xs.find? fun x => x.1 = k with
  | some x => x.2
  | none => 0

/-- A shuffle from a source index; the own word where the index lies outside the group (06 R132). -/
def shuffle (s : State) (i : Instr) (f : TF) (index : Nat → Nat → Option Nat) : State :=
  s.crossOp i f fun s xs t =>
    match index t.thr (s.opB t f).toNat with
    | some k => if k < (s.team t.team).width then fromThread xs k else fromThread xs t.thr
    | none => fromThread xs t.thr

end State

open State

/-- An exact sum, wrapped or clamped once (06 R133). -/
def sumWords (sat : Bool) (xs : List Word) : Word := narrow 32 sat (xs.foldl (fun (n : Int) x => n + x.toInt) 0)

/-- One level of the pairwise tree (06 R135). -/
def treeLevel (m : Modes) : List (Option Word) → List (Option Word)
  | x :: y :: l =>
    (match x, y with
      | none, y => y
      | x, none => x
      | some a, some b => some (BitVec.ofNat 32 (binF m false 0 (addF m.rm) a.toNat b.toNat))) :: treeLevel m l
  | l => l

/-- FREDADD's sum over the positions of a group (06 R135). -/
def treeSum (m : Modes) : Nat → List (Option Word) → Word
  | n + 1, x :: y :: l => treeSum m n (treeLevel m (x :: y :: l))
  | _, l => (l.headD none).getD 0

/-- SHFLI: the word of thread B; an index beyond the width traps CONVERGENCE in every participant (R132, R134). -/
def execShfli (f : TF) (s : State) : Host.Outcome State Fault Refusal :=
  .next (s.converge (.shfli f) fun s n g ts =>
    let w := (s.team n).width
    match (ts.map fun t => (s.opB t f).toNat).find? fun b => w ≤ b with
    | some b => .trap s (Request.of .convergence (BitVec.ofNat 64 b))
    | none =>
      let xs := s.sources ts f.a
      .done (s.laterEach n g (ts.map fun t => ([t.thr], s.vdst t f.d.toNat (fromThread xs (s.opB t f).toNat)))
        (crossLatency w)))

/-- SHFLU: the word of the thread B below (R132). -/
def execShflu (f : TF) (s : State) : Host.Outcome State Fault Refusal :=
  .next (s.shuffle (.shflu f) f fun i b => if b ≤ i then some (i - b) else none)
/-- SHFLD: the word of the thread B above (R132). -/
def execShfld (f : TF) (s : State) : Host.Outcome State Fault Refusal := .next (s.shuffle (.shfld f) f fun i b => some (i + b))
/-- SHFLX: the word of the thread at the index xor B (R132). -/
def execShflx (f : TF) (s : State) : Host.Outcome State Fault Refusal := .next (s.shuffle (.shflx f) f fun i b => some (i ^^^ b))

/-- MATCH: the mask of the participants with the same word, in a pair (R132). -/
def execMatchOp (f : TF) (s : State) : Host.Outcome State Fault Refusal :=
  .next (s.converge (.matchOp f) fun s n g ts =>
    let xs := s.sources ts f.a
    let same := fun (t : Tid) => xs.foldl (fun (m : DWord) x => if x.2 = fromThread xs t.thr then m ||| bit64 x.1 else m) 0
    .done (s.laterEach n g (ts.flatMap fun t => (s.vdst2 t f.d.toNat (same t)).map fun d => ([t.thr], d))
      (crossLatency (s.team n).width)))

/-- REDADD: the sum over participants (R132, R133). -/
def execRedadd (f : TF) (s : State) : Host.Outcome State Fault Refusal :=
  .next (s.crossOp (.redadd f) f fun _ xs _ => sumWords f.p.sat (xs.map fun x => x.2))
/-- REDMIN: the signed minimum (R132). -/
def execRedmin (f : TF) (s : State) : Host.Outcome State Fault Refusal :=
  .next (s.crossOp (.redmin f) f fun _ xs _ => xs.foldl (fun m x => minS m x.2) 0x7FFFFFFF)
/-- REDMAX: the signed maximum (R132). -/
def execRedmax (f : TF) (s : State) : Host.Outcome State Fault Refusal :=
  .next (s.crossOp (.redmax f) f fun _ xs _ => xs.foldl (fun m x => maxS m x.2) 0x80000000)
/-- REDAND (R132). -/
def execRedand (f : TF) (s : State) : Host.Outcome State Fault Refusal :=
  .next (s.crossOp (.redand f) f fun _ xs _ => xs.foldl (fun m x => m &&& x.2) 0xFFFFFFFF)
/-- REDOR (R132). -/
def execRedor (f : TF) (s : State) : Host.Outcome State Fault Refusal :=
  .next (s.crossOp (.redor f) f fun _ xs _ => xs.foldl (fun m x => m ||| x.2) 0)

/-- FREDADD: the fixed-tree sum, in the modes of the lowest participant (R123, R135). -/
def execFredadd (f : TF) (s : State) : Host.Outcome State Fault Refusal :=
  .next (s.crossOp (.fredadd f) f fun s xs t =>
    let m := s.modes ⟨t.team, t.grp, (xs.headD (0, 0)).1⟩ f.p
    let w := (s.team t.team).width
    treeSum m 6 ((List.range w).map fun i => (xs.find? fun x => x.1 = i).map fun x => flush32 m x.2))

/-- SCANADD: the sum over participants up to the thread (R132, R133). -/
def execScanadd (f : TF) (s : State) : Host.Outcome State Fault Refusal :=
  .next (s.crossOp (.scanadd f) f fun _ xs t => sumWords f.p.sat ((xs.filter fun x => x.1 ≤ t.thr).map fun x => x.2))
/-- SCANADDX: the sum over participants below the thread (R132, R133). -/
def execScanaddx (f : TF) (s : State) : Host.Outcome State Fault Refusal :=
  .next (s.crossOp (.scanaddx f) f fun _ xs t => sumWords f.p.sat ((xs.filter fun x => x.1 < t.thr).map fun x => x.2))

/-! ### Block conversions (06 R145, R146) -/

/-- Block length and mantissa width of a blk field. -/
def blkL (imm : BitVec 8) : Nat := if imm.getLsbD 0 then 32 else 16
def blkM (imm : BitVec 8) : Nat := (imm.extractLsb' 4 4).toNat

/-- QENC: one value per thread into blocks across the group (R145). -/
def execQenc (f : IF) (s : State) : Host.Outcome State Fault Refusal :=
  .next (s.converge (.qenc f) fun s n g ts =>
    let w := (s.team n).width
    let l := blkL f.imm
    if w < l then .trap s (Request.of .convergence (BitVec.ofNat 64 w))
    else
      let m := s.modes (ts.headD ⟨n, g, 0⟩) f.p
      let xs := s.sources ts f.a
      let val := fun (i : Nat) => decodeF m 0 (fromThread xs i).toNat
      let blocks := (List.range (w / l)).map fun b => encodeBlock m.rm (blkM f.imm) ((List.range l).map fun i => val (b * l + i))
      let e := (placed 0 blocks).foldl (fun x b => x + b.2.1 * 256 ^ b.1) 0
      let mant := fun (i : Nat) => nthD 0 (nthD (0, []) blocks (i / l)).2 (i % l)
      .done (s.laterEach n g
        ((ts.map fun t => t.thr, .s f.d.toNat (BitVec.ofNat 32 e)) ::
          ts.map fun t => ([t.thr], s.vdst t f.a.toNat (BitVec.ofInt 32 (mant t.thr)))) (crossLatency w)))

/-- QDEC: mantissas and block exponents to FP32 (R146). -/
def execQdec (f : IF) (s : State) : Host.Outcome State Fault Refusal :=
  .next (s.converge (.qdec f) fun s n g ts =>
    let w := (s.team n).width
    let l := blkL f.imm
    if w < l then .trap s (Request.of .convergence (BitVec.ofNat 64 w))
    else
      let m := s.modes (ts.headD ⟨n, g, 0⟩) f.p
      let e := (s.group n g).sreg f.a.toNat
      let val := fun (t : Tid) =>
        let x := sext (blkM f.imm) ((s.thread t).vreg (f.p.dSource f.d).toNat).toNat
        BitVec.ofNat 32 (encodeF m false 0 (blockVal (blkM f.imm) (e.extractLsb' (8 * (t.thr / l)) 8).toNat x))
      .done (s.laterEach n g (ts.map fun t => ([t.thr], s.vdst t f.d.toNat (val t))) (crossLatency w)))

end Sys2Proof.Machine
end

