-- ==== Sys2Proof/Machine/Float.lean ====
section
/-! DEFINITION. The per-thread floating-point instructions (06 R136 to R144): results rounded once, in the modes that
FPCR and the bundle give, landing after six cycles. -/

namespace Sys2Proof.Machine

namespace State

/-- A per-thread floating bundle on operands A, B and D as FP32 codes. -/
def fpABD (s : State) (i : Instr) (f : TF) (op : Modes → Nat → Nat → Nat → Nat) : State :=
  s.vecOp i f.d fun s t =>
    BitVec.ofNat 32 (op (s.modes t f.p) (s.opA t f).toNat (s.opB t f).toNat (s.opD t f).toNat)

/-- A packed floating bundle on elements of operands A, B and D (06 R144). -/
def fpPacked (s : State) (i : Instr) (f : TF) (op : Modes → Nat → Nat → Nat → Nat) : State :=
  s.vecOp i f.d fun s t => packed (op (s.modes t f.p)) (s.opA t f) (s.opB t f) (s.opD t f)

/-- A conversion of operand A of an I word. -/
def fpI (s : State) (i : Instr) (f : IF) (op : Modes → Word → Word) : State :=
  s.vecOp i f.d fun s t => op (s.modes t f.p) ((s.thread t).vreg f.a.toNat)

end State

/-- The destination and source codes of a format pair (02 R26). -/
def pairDst (imm : BitVec 8) : Nat := (imm.extractLsb' 4 4).toNat
def pairSrc (imm : BitVec 8) : Nat := (imm.extractLsb' 0 4).toNat

/-- FADD: A + B (R136, R137). -/
def execFadd (f : TF) (s : State) : Host.Outcome State Fault Refusal :=
  .next (s.fpABD (.fadd f) f fun m a b _ => binF m f.p.sat 0 (addF m.rm) a b)

/-- FSUB: A − B (R136, R137). -/
def execFsub (f : TF) (s : State) : Host.Outcome State Fault Refusal :=
  .next (s.fpABD (.fsub f) f fun m a b _ => binF m f.p.sat 0 (fun x y => addF m.rm x y.flip) a b)

/-- FMUL: A × B (R136, R137). -/
def execFmul (f : TF) (s : State) : Host.Outcome State Fault Refusal :=
  .next (s.fpABD (.fmul f) f fun m a b _ => binF m f.p.sat 0 mulF a b)

/-- FFMA: A × B + D, rounded once (R136, R137). -/
def execFfma (f : TF) (s : State) : Host.Outcome State Fault Refusal :=
  .next (s.fpABD (.ffma f) f fun m a b d => fmaF m f.p.sat 0 a b d)

/-- FMIN: minimumNumber (R138). -/
def execFmin (f : TF) (s : State) : Host.Outcome State Fault Refusal :=
  .next (s.vecOp (.fmin f) f.d fun s t => minMax32 (s.modes t f.p) false (s.opA t f) (s.opB t f))

/-- FMAX: maximumNumber (R138). -/
def execFmax (f : TF) (s : State) : Host.Outcome State Fault Refusal :=
  .next (s.vecOp (.fmax f) f.d fun s t => minMax32 (s.modes t f.p) true (s.opA t f) (s.opB t f))

/-- FABS: B with its sign cleared (R139). -/
def execFabs (f : TF) (s : State) : Host.Outcome State Fault Refusal :=
  .next (s.vecB (.fabs f) f fun b => b &&& 0x7FFFFFFF)

/-- FNEG: B with its sign inverted (R139). -/
def execFneg (f : TF) (s : State) : Host.Outcome State Fault Refusal :=
  .next (s.vecB (.fneg f) f fun b => b ^^^ 0x80000000)

/-- FCLASS: the class of B (R140). -/
def execFclass (f : TF) (s : State) : Host.Outcome State Fault Refusal :=
  .next (s.vecB (.fclass f) f class32)

/-- FRND: B rounded to an integral value (R141). -/
def execFrnd (f : TF) (s : State) : Host.Outcome State Fault Refusal :=
  .next (s.vecOp (.frnd f) f.d fun s t => roundInt32 (s.modes t f.p) (s.opB t f))

/-- FSCALE: A × 2^B (R141). -/
def execFscale (f : TF) (s : State) : Host.Outcome State Fault Refusal :=
  .next (s.vecOp (.fscale f) f.d fun s t => scale32 (s.modes t f.p) f.p.sat (s.opA t f) (s.opB t f))

/-- FCVT: between floating formats (R142). -/
def execFcvt (f : IF) (s : State) : Host.Outcome State Fault Refusal :=
  .next (s.fpI (.fcvt f) f fun m x => BitVec.ofNat 32 (convert m f.p.sat (pairDst f.imm) (pairSrc f.imm) x.toNat))

/-- ICVT: from an integer format (R142). -/
def execIcvt (f : IF) (s : State) : Host.Outcome State Fault Refusal :=
  .next (s.fpI (.icvt f) f fun m x => BitVec.ofNat 32 (convertInt m f.p.sat (pairDst f.imm) (pairSrc f.imm) x.toNat))

/-- FICVT: to an integer format, clamped (R142). -/
def execFicvt (f : IF) (s : State) : Host.Outcome State Fault Refusal :=
  .next (s.fpI (.ficvt f) f fun m x => convertToInt m (pairDst f.imm) (pairSrc f.imm) x.toNat)

/-- HADD2: two FP16 elements (R144). -/
def execHadd2 (f : TF) (s : State) : Host.Outcome State Fault Refusal :=
  .next (s.fpPacked (.hadd2 f) f fun m a b _ => binF m f.p.sat 1 (addF m.rm) a b)

/-- HSUB2: two FP16 elements (R144). -/
def execHsub2 (f : TF) (s : State) : Host.Outcome State Fault Refusal :=
  .next (s.fpPacked (.hsub2 f) f fun m a b _ => binF m f.p.sat 1 (fun x y => addF m.rm x y.flip) a b)

/-- HMUL2: two FP16 elements (R144). -/
def execHmul2 (f : TF) (s : State) : Host.Outcome State Fault Refusal :=
  .next (s.fpPacked (.hmul2 f) f fun m a b _ => binF m f.p.sat 1 mulF a b)

/-- HFMA2: two FP16 elements (R144). -/
def execHfma2 (f : TF) (s : State) : Host.Outcome State Fault Refusal :=
  .next (s.fpPacked (.hfma2 f) f fun m a b d => fmaF m f.p.sat 1 a b d)

/-- BADD2: two BF16 elements (R144). -/
def execBadd2 (f : TF) (s : State) : Host.Outcome State Fault Refusal :=
  .next (s.fpPacked (.badd2 f) f fun m a b _ => binF m f.p.sat 2 (addF m.rm) a b)

/-- BMUL2: two BF16 elements (R144). -/
def execBmul2 (f : TF) (s : State) : Host.Outcome State Fault Refusal :=
  .next (s.fpPacked (.bmul2 f) f fun m a b _ => binF m f.p.sat 2 mulF a b)

/-- BFMA2: two BF16 elements (R144). -/
def execBfma2 (f : TF) (s : State) : Host.Outcome State Fault Refusal :=
  .next (s.fpPacked (.bfma2 f) f fun m a b d => fmaF m f.p.sat 2 a b d)

/-- FPK: A from FP32 into an element of D (R143). -/
def execFpk (f : IF) (s : State) : Host.Outcome State Fault Refusal :=
  .next (s.vecOp (.fpk f) f.d fun s t =>
    let x := convert (s.modes t f.p) f.p.sat (pairDst f.imm) 0 ((s.thread t).vreg f.a.toNat).toNat
    setElement (pairDst f.imm) ((s.thread t).vreg (f.p.dSource f.d).toNat) (f.imm.extractLsb' 0 3).toNat x)

/-- FUPK: an element of A widened to FP32 (R143). -/
def execFupk (f : IF) (s : State) : Host.Outcome State Fault Refusal :=
  .next (s.fpI (.fupk f) f fun m x =>
    BitVec.ofNat 32 (convert m false 0 (pairDst f.imm) (element (pairDst f.imm) x (f.imm.extractLsb' 0 3).toNat)))

end Sys2Proof.Machine
end

