-- ==== Sys2Proof/Machine/Special.lean ====
section
/-! DEFINITION. The special-function queue (06 R148 to R153): issues under a token, the results, SFWAIT and SFTEST, and
the landing of a queued result. -/

namespace Sys2Proof.Machine

/-! ### Values (06 R150) -/

/-- The word of a value under the snapshot. -/
def word32 (m : Modes) (v : FVal) : Word := BitVec.ofNat 32 (encodeF m false 0 v)

/-- 1.0 -/
def one32 : FVal := .num false 1 0

/-- A signed zero, and a signed one. -/
def zero32 (neg : Bool) : Word := if neg then 0x80000000 else 0
def unit32 (neg : Bool) : Word := if neg then 0xBF800000 else 0x3F800000

/-- SFRSQ: within 1 ulp. -/
def rsqVal (m : Modes) (a fpcr : Word) : Word :=
  match decodeF m 0 a.toNat with
  | .nan _ => 0x7FC00000
  | .zero neg => if neg then 0xFF800000 else 0x7F800000
  | .inf neg => if neg then 0x7FC00000 else 0
  | .num true _ _ => 0x7FC00000
  | .num false x e => let y := encloseRsq x e; within m 0x121 a fpcr y (fixUlp y.1)

/-- SFEXP2: integers and overflow exactly, the others within 2 ulp. With n the integer below A, the result is 2^n times a
number from 1 to 2; below −160 the bound admits the same numbers as at −160. -/
def exp2Val (m : Modes) (a fpcr : Word) : Word :=
  match decodeF m 0 a.toNat with
  | .nan _ => 0x7FC00000
  | .inf neg => if neg then 0 else 0x7F800000
  | .zero _ => 0x3F800000
  | .num neg x e =>
    let v := if neg then -fixOf x e else fixOf x e
    let n := v / fixOne
    let f := v % fixOne
    if 128 ≤ n then 0x7F800000
    else if f = 0 && -149 ≤ n then word32 m (.num false 1 n)
    else
      let n := max n (-160)
      let y := enclose fixOne (2 * fixOne) (2 ^ 9) (fixExp (fixMul f fixLogTwo))
      let b := 2 ^ (max n (-126) - n + 138).toNat
      let scaled := fun (z : Int) => if z = 0 then FVal.zero false else .num (z < 0) z.natAbs (n - 160)
      choose32 m 0x123 a fpcr (scaled (y.2 - b)) (scaled (y.1 + b))

/-- SFLOG2: powers of two exactly, from 0.5 to 2 within 2^−22, the others within 2 ulp. -/
def log2Val (m : Modes) (a fpcr : Word) : Word :=
  match decodeF m 0 a.toNat with
  | .nan _ => 0x7FC00000
  | .inf neg => if neg then 0x7FC00000 else 0x7F800000
  | .zero _ => 0xFF800000
  | .num true _ _ => 0x7FC00000
  | .num false x e =>
    if 2 ^ Nat.log2 x = x then word32 m (FVal.ofInt ((Nat.log2 x : Int) + e))
    else
      let y := encloseLog2 x e
      within m 0x124 a fpcr y (if (Nat.log2 x : Int) + e = 0 || (Nat.log2 x : Int) + e = -1 then 2 ^ 138 else 2 * fixUlp y.1)

/-- A function with listed values at zeros and infinities; `val` encloses a number's value and gives its bound. -/
def listedVal (m : Modes) (op : Nat) (a fpcr : Word) (zero inf : Bool → Word) (val : Bool → Nat → Int → (Int × Int) × Int) : Word :=
  match decodeF m 0 a.toNat with
  | .nan _ => 0x7FC00000
  | .zero neg => zero neg
  | .inf neg => inf neg
  | .num neg x e => within m op a fpcr (val neg x e).1 (val neg x e).2

/-- SFSIN and SFCOS: within 2^−22. -/
def sinVal (m : Modes) (a fpcr : Word) : Word :=
  listedVal m 0x125 a fpcr zero32 (fun _ => 0x7FC00000) fun neg x e => (signed neg (encloseSin x e), 2 ^ 138)
def cosVal (m : Modes) (a fpcr : Word) : Word :=
  listedVal m 0x126 a fpcr (fun _ => 0x3F800000) (fun _ => 0x7FC00000) fun _ x e => (encloseCos x e, 2 ^ 138)

/-- SFTANH: within 2 ulp. -/
def tanhVal (m : Modes) (a fpcr : Word) : Word :=
  listedVal m 0x127 a fpcr zero32 unit32 fun neg x e =>
    let y := encloseTanh (fixOf x e)
    (signed neg y, 2 * fixUlp y.1)

/-- SFSIGM and SFERF: within 2^−23. -/
def sigmVal (m : Modes) (a fpcr : Word) : Word :=
  listedVal m 0x128 a fpcr (fun _ => 0x3F000000) (fun neg => if neg then 0 else 0x3F800000)
    fun neg x e => (encloseSigm neg (fixOf x e), 2 ^ 137)
def erfVal (m : Modes) (a fpcr : Word) : Word :=
  listedVal m 0x129 a fpcr zero32 unit32 fun neg x e => (signed neg (encloseErf (fixOf x e)), 2 ^ 137)

/-- The cycles within which a special-function result lands; nominally 12, or 16 for SFDIV, after its entry starts
(06 R148, log entry 3). -/
def sfBound : Nat := 4096

namespace State

/-- Issues a special function (06 R148, R149): the token must be free, the queue have room; the result is computed from
the sources and FPCR as read now. -/
def sfOp (s : State) (i : Instr) (f : IF) (val : Modes → Word → Word → Word → Word) : State :=
  s.perThread i fun s t =>
    let x := s.thread t
    let tok := f.imm.toNat
    let c := s.coreNum t
    let q := sfQueue t
    if x.tokens.any fun k => k.num = tok then s.fail .tokenMisuse (BitVec.ofNat 64 tok)
    else if !s.sfRoom c q then .hold s (.sfRoom q)
    else
      let v := val (s.modes t f.p) (x.vreg f.a.toNat) (x.vreg (f.p.dSource f.d).toNat) x.fpcr
      let phys := physOf x.base f.d.toNat
      let (id, s) := s.newId
      let s := s.modCore c fun k => { k with sfq := k.sfq ++ [⟨id, q, t, tok, phys, v⟩] }
      let s := s.modThread t fun x => { x with tokens := x.tokens ++ [⟨tok, phys, false⟩] }
      .done (s.soon sfBound .sfResult { core := c, id := id })

end State

/-- SFRCP: 1/A, correctly rounded (R150). -/
def execSfrcp (f : IF) (s : State) : Host.Outcome State Fault Refusal :=
  .next (s.sfOp (.sfrcp f) f fun m a _ _ => word32 m (divF one32 (decodeF m 0 a.toNat)))

/-- SFRSQ: 1/√A (R150). -/
def execSfrsq (f : IF) (s : State) : Host.Outcome State Fault Refusal :=
  .next (s.sfOp (.sfrsq f) f fun m a _ p => rsqVal m a p)

/-- SFSQRT: √A, correctly rounded (R150). -/
def execSfsqrt (f : IF) (s : State) : Host.Outcome State Fault Refusal :=
  .next (s.sfOp (.sfsqrt f) f fun m a _ _ => word32 m (sqrtF (decodeF m 0 a.toNat)))

/-- SFEXP2: 2^A (R150). -/
def execSfexp2 (f : IF) (s : State) : Host.Outcome State Fault Refusal :=
  .next (s.sfOp (.sfexp2 f) f fun m a _ p => exp2Val m a p)

/-- SFLOG2: log2 A (R150). -/
def execSflog2 (f : IF) (s : State) : Host.Outcome State Fault Refusal :=
  .next (s.sfOp (.sflog2 f) f fun m a _ p => log2Val m a p)

/-- SFSIN: sin A (R150). -/
def execSfsin (f : IF) (s : State) : Host.Outcome State Fault Refusal :=
  .next (s.sfOp (.sfsin f) f fun m a _ p => sinVal m a p)

/-- SFCOS: cos A (R150). -/
def execSfcos (f : IF) (s : State) : Host.Outcome State Fault Refusal :=
  .next (s.sfOp (.sfcos f) f fun m a _ p => cosVal m a p)

/-- SFTANH: tanh A (R150). -/
def execSftanh (f : IF) (s : State) : Host.Outcome State Fault Refusal :=
  .next (s.sfOp (.sftanh f) f fun m a _ p => tanhVal m a p)

/-- SFSIGM: the logistic sigmoid of A (R150). -/
def execSfsigm (f : IF) (s : State) : Host.Outcome State Fault Refusal :=
  .next (s.sfOp (.sfsigm f) f fun m a _ p => sigmVal m a p)

/-- SFERF: erf A (R150). -/
def execSferf (f : IF) (s : State) : Host.Outcome State Fault Refusal :=
  .next (s.sfOp (.sferf f) f fun m a _ p => erfVal m a p)

/-- SFDIV: D ÷ A, correctly rounded (R150). -/
def execSfdiv (f : IF) (s : State) : Host.Outcome State Fault Refusal :=
  .next (s.sfOp (.sfdiv f) f fun m a d _ => word32 m (divF (decodeF m 0 d.toNat) (decodeF m 0 a.toNat)))

/-- SFWAIT: waits until the named tokens have landed and frees them (R151). -/
def execSfwait (f : IF) (s : State) : Host.Outcome State Fault Refusal :=
  .next (s.perThread (.sfwait f) fun s t =>
    if (s.thread t).tokens.all fun p => p.landed || !f.imm.getLsbD p.num then
      .done (s.modThread t fun x => { x with tokens := x.tokens.filter fun p => !f.imm.getLsbD p.num })
    else .hold s (.tokens f.imm))

/-- SFTEST: which named tokens are free or landed in every participant (R152). -/
def execSftest (f : IF) (s : State) : Host.Outcome State Fault Refusal :=
  .next (s.converge (.sftest f) fun s n g ts =>
    let ready := fun (i : Nat) => ts.all fun t => (s.thread t).tokens.all fun p => p.num != i || p.landed
    let x := (List.range 8).foldl (fun (x : Word) i => if f.imm.getLsbD i && ready i then x ||| (1#32 <<< i) else x) 0
    .done (s.uniResult n g ts f.d.toNat x 4))

/-- SF_RESULT: a queued result lands in its register and frees its entry (R148); a fixed-latency write to the register
issued before it no longer lands (R149). -/
def execSfResult (s : State) : Host.Outcome State Fault Refusal :=
  .next (
    let c := s.arg.core
    match (s.core c).sfq.find? fun e => e.id = s.arg.id with
    | none => s
    | some e =>
      let s := s.modCore c fun k => { k with sfq := k.sfq.filter fun x => x.id != e.id }
      let s := s.modGroup e.t.team e.t.grp fun g => g.landSfResult (.v e.t.thr e.phys e.val)
      s.modThread e.t fun x => { x with tokens := x.tokens.map fun k => if k.num = e.tok then { k with landed := true } else k })

end Sys2Proof.Machine
end

