-- ==== Sys2Proof/Machine/Control.lean ====
section
/-! DEFINITION. Control instructions (05 R112 to R121): branches, calls, EXIT, YIELD, SLEEP, WBASE and regions, and
the ends of the waits that YIELD and SLEEP begin. -/

namespace Sys2Proof.Machine

namespace State

/-- The target of a J, C or Z branch (04 R71). -/
def target (s : State) (disp : DWord) : DWord := s.cur.opPc + 4 * disp

/-- A per-thread branch on a condition read at the issue cycle (05 R114). -/
def branch (s : State) (i : Instr) (disp : DWord) (taken : State → Tid → Bool) : State :=
  s.control i fun s t => if taken s t then .jump s (s.target disp) else .done s

/-- The write of the return address to a15 (05 R115). -/
def linkTo (s : State) (t : Tid) : State := s.fixedOwn t (.a t.thr 15 ⟨s.cur.next, Tether.clear⟩) 4

/-- A jump to the visible value of an address register; a misaligned target traps first (04 R67, 05 R115). -/
def jumpTo (s : State) (i : Instr) (n : Nat) (link : Bool) : State :=
  s.control i fun s t =>
    let a := ((s.thread t).areg n).val
    if a.extractLsb' 0 2 != 0 then s.fail .misaligned a
    else .jump (if link then s.linkTo t else s) a

end State

/-- BRA (R114). -/
def execBra (f : JF) (s : State) : Host.Outcome State Fault Refusal :=
  .next (s.branch (.bra f) (f.disp.signExtend 64) fun _ _ => true)

/-- BRK: taken where the thread's bit of k equals sense (R114). -/
def execBrk (f : CF) (s : State) : Host.Outcome State Fault Refusal :=
  .next (s.branch (.brk f) (f.disp.signExtend 64) fun s t => ((s.groupOf t).mask f.k.toNat).getLsbD t.thr == f.sense)

/-- BRZ: taken where v[a] is zero (R114). -/
def execBrz (f : ZF) (s : State) : Host.Outcome State Fault Refusal :=
  .next (s.branch (.brz f) (f.disp.signExtend 64) fun s t => (s.thread t).vreg f.a.toNat == 0)

/-- BRNZ: taken where v[a] is not zero (R114). -/
def execBrnz (f : ZF) (s : State) : Host.Outcome State Fault Refusal :=
  .next (s.branch (.brnz f) (f.disp.signExtend 64) fun s t => (s.thread t).vreg f.a.toNat != 0)

/-- CALL: a branch that writes the return address to a15 (R115). -/
def execCall (f : JF) (s : State) : Host.Outcome State Fault Refusal :=
  .next (s.control (.call f) fun s t => .jump (s.linkTo t) (s.target (f.disp.signExtend 64)))

/-- CALLA: jumps to a[a] as it was and writes the return address to a15 (R115). -/
def execCalla (f : TF) (s : State) : Host.Outcome State Fault Refusal := .next (s.jumpTo (.calla f) f.a.toNat true)
/-- JMPA: jumps to a[a] (R115). -/
def execJmpa (f : TF) (s : State) : Host.Outcome State Fault Refusal := .next (s.jumpTo (.jmpa f) f.a.toNat false)
/-- RET: jumps to a15 (R115). -/
def execRet (f : TF) (s : State) : Host.Outcome State Fault Refusal := .next (s.jumpTo (.ret f) 15 false)

/-- EXIT: the thread ends; the last present thread ends the task first (05 R116, 08 R186, R187). A fault of that commit is
the thread's (log entry 17). -/
def execExit (f : TF) (s : State) : Host.Outcome State Fault Refusal :=
  .next (s.control (.exit f) fun s t =>
    let ends := !(s.team t.team).taskEnded && s.othersArrived t
    match (if ends then s.endTask t.team else (s, .ok)) with
    | (s, .fault r) => .trap s r
    | (s, .busy line) => .hold (s.refuse (.commit t.team) (s.coreNum t) line t.arg) (.refused line)
    | (s, .ok) => .away (((s.leave t).lookSave t.team).tryEnd t.team))

/-- YIELD: not ready until another entry issues or 8 cycles pass (R117). -/
def execYield (f : TF) (s : State) : Host.Outcome State Fault Refusal :=
  .next (s.perThread (.yield f) fun s t =>
    let s := s.retire t s.cur.next false
    let til := s.cycle + 8
    .away ((s.after 8 .yieldExpiry { t.arg with len := til }).setWait t (.yield til)))

/-- NOP: no effect (R117). -/
def execNop (f : TF) (s : State) : Host.Outcome State Fault Refusal := .next (s.perThread (.nop f) fun s _ => .done s)

/-- WBASE: sets the window base, or traps WINDOW_RANGE (R119). -/
def execWbase (f : IF) (s : State) : Host.Outcome State Fault Refusal :=
  .next (s.perThread (.wbase f) fun s t =>
    let b := 16 * f.imm.toNat
    if b < 16 || (s.team t.team).vregs < b + 112 then s.fail .windowRange (BitVec.ofNat 64 b)
    else .done (s.modThread t fun x => { x with base := b }))

/-- RGN: the region entry is the bundle's own address (R121). -/
def execRgn (f : IF) (s : State) : Host.Outcome State Fault Refusal :=
  .next (s.perThread (.rgn f) fun s t => .done (s.beginRegion t s.cur.pc))

/-- SLEEP: not ready for 16 × imm8 cycles; 0 acts as NOP (R118). -/
def execSleep (f : IF) (s : State) : Host.Outcome State Fault Refusal :=
  .next (s.perThread (.sleep f) fun s t =>
    if f.imm = 0 then .done s
    else
      let s := s.retire t s.cur.next false
      let til := s.cycle + 1 + 16 * f.imm.toNat
      .away ((s.after (1 + 16 * f.imm.toNat) .sleepExpiry { t.arg with len := til }).setWait t (.sleep til)))

/-- SLEEP_EXPIRY: the thread is ready again (R118). -/
def execSleepExpiry (s : State) : Host.Outcome State Fault Refusal :=
  .next (if (s.thread s.arg.tid).wait = .sleep s.arg.len then s.modThread s.arg.tid fun x => { x with wait := .none } else s)

/-- YIELD_EXPIRY: eight cycles have passed (R117). -/
def execYieldExpiry (s : State) : Host.Outcome State Fault Refusal :=
  .next (match (s.thread s.arg.tid).wait with
    | .yield til => if til = s.arg.len then s.modThread s.arg.tid fun x => { x with wait := .none } else s
    | _ => s)

end Sys2Proof.Machine
end

