-- ==== Sys2Proof/Machine/Memory.lean ====
section
/-! DEFINITION. Loads and stores (07 R154 to R163): LD, ST, LDS, STS, LDO, STO, LDU and PREF. -/

namespace Sys2Proof.Machine

namespace State

/-- The address of an address-register form: the visible value plus the scaled immediate (07 R154). -/
def addrA (s : State) (t : Tid) (f : IF) (size : Nat) : DWord :=
  ((s.thread t).areg f.a.toNat).val + BitVec.ofInt 64 (immI f.p f.imm * size)

/-- The exact offset of a scratchpad-offset form (07 R154, R161). -/
def offS (s : State) (t : Tid) (f : IF) (size : Nat) : Int :=
  ((s.thread t).vreg f.a.toNat).toNat + immI f.p f.imm * size

/-- The address of a uniform-base form (07 R154). -/
def addrO (s : State) (t : Tid) (f : TF) : DWord :=
  (s.groupOf t).spair f.a.toNat + ((s.thread t).vreg f.b.toNat).zeroExtend 64

/-- A word of loaded bytes, sign-extended or zero-extended (02 R25). -/
def extend (signed : Bool) (b : List Byte) : Word :=
  let n := leNat b
  let w := 2 ^ (8 * b.length)
  if signed && w ≤ 2 * n then BitVec.ofInt 32 ((n : Int) - w) else BitVec.ofNat 32 n

/-- The destinations of loaded bytes: a word, a pair, a quad (07 R160). -/
def loadDst (s : State) (t : Tid) (d : Nat) (signed : Bool) (b : List Byte) : List Dst :=
  match b.length with
  | 8 => s.vdst2 t d (BitVec.ofNat 64 (leNat b))
  | 16 => s.vdst4 t d (BitVec.ofNat 128 (leNat b))
  | _ => [s.vdst t d (extend signed b)]

/-- The low bytes of a source register, pair or quad (07 R160). -/
def storeSrc (s : State) (t : Tid) (d : Nat) (n : Nat) : List Byte :=
  let x := s.thread t
  leBytes n (match n with
    | 8 => (x.vpair d).toNat
    | 16 => (x.vquad d).toNat
    | _ => (x.vreg d).toNat)

/-- What a load comes to for its thread. -/
def loaded (t : Tid) (ds : State → List Byte → List Dst) : MemRes → Res
  | .ok s b => .done (s.landLater t [t.thr] (ds s b))
  | .hold s w => .hold s w
  | .fault s r => .trap s r

/-- What a store comes to for its thread. -/
def stored : Touch → Res
  | .ok s => .done s
  | .hold s w => .hold s w
  | .fault s r => .trap s r

/-- LD: `n` bytes through an address register (07 R160). -/
def ldOp (s : State) (i : Instr) (f : IF) (n : Nat) (signed : Bool) : State :=
  s.perThread i fun s t =>
    loaded t (fun s b => s.loadDst t f.d.toNat signed b) (s.load t [t] f.a.toNat (s.addrA t f n) n f.p.ro f.p.nt)

/-- ST: `n` bytes through an address register (07 R160). -/
def stOp (s : State) (i : Instr) (f : IF) (n : Nat) : State :=
  s.perThread i fun s t => stored (s.store t f.a.toNat (s.addrA t f n) (s.storeSrc t f.d.toNat n) f.p.nt)

/-- The checks of a scratchpad-offset access: alignment, then the size of the scratchpad (07 R156, R161). -/
def scratchCheck (s : State) (t : Tid) (off : Int) (n : Nat) : Option Request :=
  let a := BitVec.ofInt 64 (windowBase + off)
  if a.toNat % n != 0 then some (Request.of .misaligned a)
  else if off < 0 || ((s.team t.team).scratchSize : Int) < off + n then some (Request.of .accessViolation a)
  else none

/-- LDS (07 R160, R161). -/
def ldsOp (s : State) (i : Instr) (f : IF) (n : Nat) : State :=
  s.perThread i fun s t =>
    let off := s.offS t f n
    match s.scratchCheck t off n with
    | some r => .trap s r
    | none => .done (s.landLater t [t.thr] (s.loadDst t f.d.toNat false ((s.team t.team).scratch.bytes off.toNat n)))

/-- STS (07 R160, R161); a lent byte holds it (08 R199). -/
def stsOp (s : State) (i : Instr) (f : IF) (n : Nat) : State :=
  s.perThread i fun s t =>
    let off := s.offS t f n
    match s.scratchCheck t off n with
    | some r => .trap s r
    | none =>
      if s.isLent t.team off.toNat n then .hold s (.lent off.toNat (off.toNat + n))
      else .done (s.scratchWrite t.team off.toNat (s.storeSrc t f.d.toNat n))

/-- LDO (07 R160). -/
def ldoOp (s : State) (i : Instr) (f : TF) (n : Nat) : State :=
  s.perThread i fun s t =>
    loaded t (fun s b => s.loadDst t f.d.toNat false b) (s.load t [t] 0 (s.addrO t f) n f.p.ro f.p.nt)

/-- STO (07 R160). -/
def stoOp (s : State) (i : Instr) (f : TF) (n : Nat) : State :=
  s.perThread i fun s t => stored (s.store t 0 (s.addrO t f) (s.storeSrc t f.d.toNat n) f.p.nt)

/-- Where a line that a prefetch names lies, if nothing faults (07 R163): a current tether, a mapped page that may be
read, a resident object. -/
def prefetchAt (s : State) (t : Tid) (reg : Nat) (a : DWord) : Option Phys :=
  let m := s.team t.team
  let r := (s.thread t).areg reg
  let plain := match s.plainPhys m.core m.ctx a.toNat 1 Need.load with
    | (_, .ok p _) => some p
    | _ => none
  if placeOf a.toNat = .tether then
    if r.sh.v then match s.tetherCurrent m.ctx r with
      | some (_, e) => if e.baseVa ≤ a.toNat ∧ a.toNat < e.baseVa + e.size then some ⟨0, 0, e.back + (a.toNat - e.baseVa), false⟩ else none
      | none => none
    else plain
  else if r.sh.v && (s.tetherCurrent m.ctx r).isNone then none
  else plain

/-- Brings a line of device or pool memory into L1, or into its home slice alone (07 R163), unless it is there, poisoned, or in
a granule that the task holds, whose lines no L1 holds (11 R248). -/
def prefetch (s : State) (t : Tid) (p : Phys) (va : DWord) (intoL1 : Bool) : State :=
  let m := s.team t.team
  let line := lineOf p.key
  if 2 ≤ p.tgt || (s.lateFault p va true).isSome then s
  else if !intoL1 then s.touchHome m.core line false
  else if s.holds t.team (granOf p.key) || (s.core m.core).l1.any (fun x => x.line = line && x.ctx = m.ctx) then s
  else
    match s.priv? m.cluster line with
    | some q => s.fillLoose m.core m.ctx line q.data false false
    | none =>
      let data := s.mem.line line
      (s.touchHome m.core line false).fillLoose m.core m.ctx line data false false

/-- The answer that a wait names comes to every participant of a convergent load (07 R162). -/
def awaitedBy (s : State) (w : Wait) (ts : List Tid) : State := match w with
  | .answer id _ _ =>
    let s := ts.foldl (fun s u => s.modThread u fun x => { x with sent := (s.thread (ts.headD u)).sent }) s
    let s := s.modHost fun h => { h with reqs := h.reqs.map fun r => if r.id = id then { r with waiters := ts } else r }
    match ts with
    | [] => s
    | t :: _ => s.modCore (s.coreNum t) fun k => { k with out := k.out.map fun x => if x.id = id then { x with waiters := ts } else x }
  | _ => s

end State

open State

/-- LD.S8 (R160). -/
def execLdS8 (f : IF) (s : State) : Host.Outcome State Fault Refusal := .next (s.ldOp (.ldS8 f) f 1 true)

/-- LD.B8 (R160). -/
def execLdB8 (f : IF) (s : State) : Host.Outcome State Fault Refusal := .next (s.ldOp (.ldB8 f) f 1 false)

/-- LD.S16 (R160). -/
def execLdS16 (f : IF) (s : State) : Host.Outcome State Fault Refusal := .next (s.ldOp (.ldS16 f) f 2 true)

/-- LD.B16 (R160). -/
def execLdB16 (f : IF) (s : State) : Host.Outcome State Fault Refusal := .next (s.ldOp (.ldB16 f) f 2 false)

/-- LD.B32 (R160). -/
def execLdB32 (f : IF) (s : State) : Host.Outcome State Fault Refusal := .next (s.ldOp (.ldB32 f) f 4 false)

/-- LD.B64 (R160). -/
def execLdB64 (f : IF) (s : State) : Host.Outcome State Fault Refusal := .next (s.ldOp (.ldB64 f) f 8 false)

/-- LD.B128 (R160). -/
def execLdB128 (f : IF) (s : State) : Host.Outcome State Fault Refusal := .next (s.ldOp (.ldB128 f) f 16 false)

/-- ST.B8 (R160). -/
def execStB8 (f : IF) (s : State) : Host.Outcome State Fault Refusal := .next (s.stOp (.stB8 f) f 1)

/-- ST.B16 (R160). -/
def execStB16 (f : IF) (s : State) : Host.Outcome State Fault Refusal := .next (s.stOp (.stB16 f) f 2)

/-- ST.B32 (R160). -/
def execStB32 (f : IF) (s : State) : Host.Outcome State Fault Refusal := .next (s.stOp (.stB32 f) f 4)

/-- ST.B64 (R160). -/
def execStB64 (f : IF) (s : State) : Host.Outcome State Fault Refusal := .next (s.stOp (.stB64 f) f 8)

/-- ST.B128 (R160). -/
def execStB128 (f : IF) (s : State) : Host.Outcome State Fault Refusal := .next (s.stOp (.stB128 f) f 16)

/-- LDS.B32 (R160, R161). -/
def execLdsB32 (f : IF) (s : State) : Host.Outcome State Fault Refusal := .next (s.ldsOp (.ldsB32 f) f 4)

/-- LDS.B64 (R160, R161). -/
def execLdsB64 (f : IF) (s : State) : Host.Outcome State Fault Refusal := .next (s.ldsOp (.ldsB64 f) f 8)

/-- LDS.B128 (R160, R161). -/
def execLdsB128 (f : IF) (s : State) : Host.Outcome State Fault Refusal := .next (s.ldsOp (.ldsB128 f) f 16)

/-- STS.B32 (R160, R161). -/
def execStsB32 (f : IF) (s : State) : Host.Outcome State Fault Refusal := .next (s.stsOp (.stsB32 f) f 4)

/-- STS.B64 (R160, R161). -/
def execStsB64 (f : IF) (s : State) : Host.Outcome State Fault Refusal := .next (s.stsOp (.stsB64 f) f 8)

/-- STS.B128 (R160, R161). -/
def execStsB128 (f : IF) (s : State) : Host.Outcome State Fault Refusal := .next (s.stsOp (.stsB128 f) f 16)

/-- LDO.B16 (R160). -/
def execLdoB16 (f : TF) (s : State) : Host.Outcome State Fault Refusal := .next (s.ldoOp (.ldoB16 f) f 2)

/-- LDO.B32 (R160). -/
def execLdoB32 (f : TF) (s : State) : Host.Outcome State Fault Refusal := .next (s.ldoOp (.ldoB32 f) f 4)

/-- STO.B16 (R160). -/
def execStoB16 (f : TF) (s : State) : Host.Outcome State Fault Refusal := .next (s.stoOp (.stoB16 f) f 2)

/-- STO.B32 (R160). -/
def execStoB32 (f : TF) (s : State) : Host.Outcome State Fault Refusal := .next (s.stoOp (.stoB32 f) f 4)

/-- LDU: four bytes once for the group into a uniform register (R162). -/
def execLdu (f : IF) (s : State) : Host.Outcome State Fault Refusal :=
  .next (s.converge (.ldu f) fun s n g ts =>
    let t := ts.headD ⟨n, g, 0⟩
    let a := (s.group n g).spair f.a.toNat + BitVec.ofInt 64 (immI f.p f.imm * 4)
    match s.load t ts 0 a 4 f.p.ro f.p.nt with
    | .ok s b => .done (s.landLater t (ts.map fun t => t.thr) [.s f.d.toNat (extend false b)])
    | .hold s w => .hold (s.awaitedBy w ts) w
    | .fault s r => .trap s r)

/-- PREF: level 0 brings the line into L1, level 1 into its home slice alone (R163). -/
def execPref (f : IF) (s : State) : Host.Outcome State Fault Refusal :=
  .next (s.perThread (.pref f) fun s t =>
    let a := s.addrA t f 128
    .done (match s.prefetchAt t f.a.toNat a with
      | some p => s.prefetch t p a (f.d = 0)
      | none => s))

end Sys2Proof.Machine
end

