-- ==== Sys2Proof/Machine/Pointers.lean ====
section
/-! DEFINITION. Pointers (07 R164 to R168): LDP, STP and the register-only pointer instructions. -/

namespace Sys2Proof.Machine

/-- The 16 bytes that STP stores of an address register (07 R165). -/
def AReg.brand (a : AReg) : Quad :=
  if a.sh.v then (1#1 ++ a.sh.ident ++ (a.val - BitVec.ofNat 64 (a.sh.base.toNat * 65536))).cast (by decide)
  else a.val.zeroExtend 128

/-- The key by which pointers compare: tethered, identity, and the offset with its sign bit inverted so that it orders
as unsigned; an untethered register's address orders unsigned (07 R167). -/
def AReg.key (a : AReg) : Nat × Nat × Nat :=
  if a.sh.v then
    (1, a.sh.ident.toNat, ((a.val - BitVec.ofNat 64 (a.sh.base.toNat * 65536)) ^^^ 0x8000000000000000).toNat)
  else (0, 0, a.val.toNat)

/-- Keys compared field by field (07 R167). -/
def keyLess (x y : Nat × Nat × Nat) : Bool :=
  x.1 < y.1 || (x.1 = y.1 && (x.2.1 < y.2.1 || (x.2.1 = y.2.1 && x.2.2 < y.2.2)))

/-- The difference of two pointers (07 R168). -/
def AReg.sub (a b : AReg) : DWord :=
  if a.sh.v && b.sh.v && a.sh.ident == b.sh.ident then
    (a.val - BitVec.ofNat 64 (a.sh.base.toNat * 65536)) - (b.val - BitVec.ofNat 64 (b.sh.base.toNat * 65536))
  else if !a.sh.v && !b.sh.v then a.val - b.val
  else 0x8000000000000000

namespace State

/-- A per-thread bundle with a fixed-latency result in an address register. -/
def ptrOp (s : State) (i : Instr) (d : Field) (val : State → Tid → AReg) : State :=
  s.perThread i fun s t => .done (s.fixedOwn t (.a t.thr d.toNat (val s t)) i.info.lat)

/-- An address register by field. -/
def ptr (s : State) (t : Tid) (n : Field) : AReg := (s.thread t).areg n.toNat

/-- What LDP makes of the 16 bytes loaded (07 R164); `va` is the address of the access. -/
def tetherLoaded (s : State) (t : Tid) (d : Nat) (va : DWord) (q : Quad) : Res :=
  if !q.getLsbD 127 then
    .done (s.landLater t [t.thr] [.a t.thr d ⟨q.extractLsb' 0 64, Tether.clear⟩])
  else
    let ident := q.extractLsb' 64 63
    match s.needObject t ident va .load 0 with
    | (s, .slot k) =>
      let e := s.cEntry k
      let a : AReg := ⟨BitVec.ofNat 64 e.baseVa + q.extractLsb' 0 64, ⟨true, ident, e.base, e.gen⟩⟩
      .done ((s.tethered k).landLater t [t.thr] [.a t.thr d a])
    | (s, .hold w) => .hold s w
    | (s, .fault r) => .trap s r

end State

open State

/-- LDP: loads a pointer and tethers a brand (R164). -/
def execLdp (f : IF) (s : State) : Host.Outcome State Fault Refusal :=
  .next (s.perThread (.ldp f) fun s t =>
    let a := s.addrA t f 16
    match s.load t [t] f.a.toNat a 16 f.p.ro f.p.nt with
    | .ok s b => s.tetherLoaded t f.d.toNat (s.addrA t f 16) (BitVec.ofNat 128 (leNat b))
    | .hold s w => .hold s w
    | .fault s r => .trap s r)

/-- STP: stores an address register as a brand or a raw pointer (R165). -/
def execStp (f : IF) (s : State) : Host.Outcome State Fault Refusal :=
  .next (s.perThread (.stp f) fun s t =>
    stored (s.store t f.a.toNat (s.addrA t f 16) (leBytes 16 (s.ptr t f.d).brand.toNat) f.p.nt))

/-- ADDA: the value plus a signed offset, the shadow kept (R166). -/
def execAdda (f : TF) (s : State) : Host.Outcome State Fault Refusal :=
  .next (s.ptrOp (.adda f) f.d fun s t => let a := s.ptr t f.a; { a with val := a.val + (s.opB t f).signExtend 64 })

/-- ADDAI: the value plus a signed immediate, the shadow kept (R166). -/
def execAddai (f : IF) (s : State) : Host.Outcome State Fault Refusal :=
  .next (s.ptrOp (.addai f) f.d fun s t =>
    let a := s.ptr t f.a; { a with val := a.val + BitVec.ofInt 64 (immI f.p f.imm) })

/-- MOVA: value and shadow (R166). -/
def execMova (f : TF) (s : State) : Host.Outcome State Fault Refusal :=
  .next (s.ptrOp (.mova f) f.d fun s t => s.ptr t f.a)

/-- MOVAV: the value into a v pair (R166). -/
def execMovav (f : TF) (s : State) : Host.Outcome State Fault Refusal :=
  .next (s.vecOp2 (.movav f) f.d fun s t => (s.ptr t f.a).val)

/-- MOVVA: the value from a pair, the shadow clear (R166). -/
def execMovva (f : TF) (s : State) : Host.Outcome State Fault Refusal :=
  .next (s.ptrOp (.movva f) f.d fun s t => ⟨s.opB2 t f, Tether.clear⟩)

/-- CMPA: compares pointers by key into the thread's bit (R167). -/
def execCmpa (f : KF) (s : State) : Host.Outcome State Fault Refusal :=
  .next (s.bitOp (.cmpa f) f.kd.toNat fun s t =>
    let x := (s.ptr t f.a).key
    let y := (s.ptr t f.b).key
    match f.cond.toNat with
    | 0 => x = y
    | 1 => x != y
    | 2 => keyLess x y
    | _ => keyLess x y || x = y)

/-- SUBA: the signed difference of two pointers into a v pair (R168). -/
def execSuba (f : TF) (s : State) : Host.Outcome State Fault Refusal :=
  .next (s.vecOp2 (.suba f) f.d fun s t => (s.ptr t f.a).sub (s.ptr t f.b))

/-- IDA: the 16 bytes STP would store, into a v quad (R166). -/
def execIda (f : TF) (s : State) : Host.Outcome State Fault Refusal :=
  .next (s.perThread (.ida f) fun s t =>
    .done ((s.vdst4 t f.d.toNat (s.ptr t f.a).brand).foldl (fun s d => s.fixedOwn t d 4) s))

end Sys2Proof.Machine
end

