-- ==== Sys2Proof/Machine/Delivery.lean ====
section
/-! DEFINITION. Delivering stores (07 R169 to R172, 11 R238 to R241, R246): STDL, the arrival of a delivered line at an
L1, invalidations, drop notices and the merging of directory regions. -/

namespace Sys2Proof.Machine

namespace State

/-- The core of index 0 of a team's cluster. -/
def originOf (s : State) (n : Nat) : Nat :=
  let m := s.team n
  let k := s.cluster m.cluster
  let here := coreAt k.rows k.cols 0 m.inCluster
  m.core - here

/-- The destination cores of a code (07 R170); none where it traps DELIVERY_CODE. -/
def destinations (s : State) (n : Nat) (code : Word) : Option (List Nat) :=
  let m := s.team n
  let k := s.cluster m.cluster
  if code.extractLsb' 12 3 != 0 then none
  else if code.getLsbD 15 then
    let c := (code.extractLsb' 0 11).toNat
    if code.getLsbD 11 || 1536 ≤ c then none else some [c]
  else
    let bits := (List.range 12).filter fun i => code.getLsbD i
    if bits.any fun i => m.nClTeams ≤ i then none
    else some (bits.map fun i => coreAt k.rows k.cols (s.originOf n) i)

/-- Refused fills are counted in the storing team, saturating (01 R17, R19, 07 R171). -/
def countRefused (s : State) (n k : Nat) : State :=
  s.modTeam n fun m => { m with
    dlvref := refusedAdd m.dlvref k, dlvNow := (s.cycle, k + if m.dlvNow.1 = s.cycle then m.dlvNow.2 else 0) }

/-- A delivery of the line by the thread's group in this bundle (07 R172). -/
def sibling (s : State) (t : Tid) (line : Nat) (f : Flight) : Bool :=
  f.line = line && f.since = s.cycle && f.t.team = t.team && f.t.grp = t.grp

/-- The line goes to its destinations: one fill for each core for the stores of a group in one bundle (07 R169, R172). -/
def sendLine (s : State) (t : Tid) (line : Nat) (cores : List Nat) : State :=
  let data := s.mem.line line
  let s := s.modHome fun h => { h with
    flights := h.flights.map fun f => if s.sibling t line f then { f with data := data, stale := false } else f }
  cores.foldl (fun s c =>
    let s := s.recordHolder line (some c) none
    if s.home.flights.any fun f => s.sibling t line f && f.core = c then s
    else
      let (id, s) := s.newId
      let s := s.modHome fun h => { h with flights := h.flights ++ [⟨id, c, (s.team t.team).ctx, line, data, t, s.cycle, false⟩] }
      s.sendLineMsg c line .givenFill id) s

/-- A lower thread of the group has stored to the line that the thread names in this bundle (07 R172). -/
def combined (s : State) (t : Tid) (i : Instr) (reg : Nat) : Bool :=
  let at_ := fun (u : Tid) => lineOf ((s.thread u).areg reg).val.toNat
  (s.cur.threads.takeWhile fun u => u != t).any fun u =>
    u.team = t.team && u.grp = t.grp && s.governed u i && (s.thread u).since = s.cycle + 1 && at_ u = at_ t

/-- A delivering store at the home of its line (07 R169, R172), which `own` make together: their own stores and every private
copy of the line reach the home first; a poisoned line is not sent (27 R400). -/
def deliverAt (s : State) (t : Tid) (own : List Tid) (p : Phys) (va : DWord) (bytes : List Byte) (cores : List Nat) : Touch :=
  let line := lineOf p.key
  let send := fun (s : State) =>
    let s := s.writeHere t line (bytesAt p.key bytes)
    Touch.ok (if s.poisoned line then s else s.sendLine t line cores)
  if s.home.flights.any (s.sibling t line) then send s
  else match s.homeTurn t own (some (s.coreNum t)) line with
    | .hold s w => .hold s w
    | .go s => match s.writeBackAll (fun _ p => p.line = line) false with
      | (s, .fault r) => .fault s { r with addr := va }
      | (s, .claimed g) => .hold s (.granule g)
      | (s, .busy cl l) => .hold (s.refuse (.slice cl) (s.coreNum t) l t.arg) (.refused l)
      | (s, .ok) => send s

/-- A delivering store of bytes for one thread (07 R169, R170, R172). A tentative one sends no line, and counts a refusal for
each destination once for its group (08 R185). -/
def deliverStore (s : State) (t : Tid) (i : Instr) (reg : Nat) (code : Word) (bytes : List Byte) : Touch :=
  let n := bytes.length
  let a := ((s.thread t).areg reg).val
  let at_ := fun (s : State) (u : Tid) => s.locate u reg ((s.thread u).areg reg).val n Need.store
  if a.toNat % n != 0 then .fault s (Request.of .misaligned a)
  else match s.destinations t.team code with
  | none => .fault s (Request.of .deliveryCode (code.zeroExtend 64))
  | some cores => match at_ s t with
    | (s, .hold w) => .hold s w
    | (s, .fault r) => let (s, r) := s.foldFirst t a.toNat n r; .fault s r
    | (s, .scratch _) => .fault s (Request.of .accessViolation a)
    | (s, .mem p leaf va) =>
      if 2 ≤ p.tgt then .fault s (Request.of .accessViolation va)
      else match s.admitWrite t p leaf va n .store false with
      | .hold s w => .hold s w
      | .fault s r => .fault s r
      | .plain s _ (some g) => .hold s (.granule g)
      | .plain s q none => s.deliverAt t (s.mates t i (fun k => lineOf k = lineOf q.key) at_) q va bytes cores
      | .tentative s p => match s.shadowWrite t (lineOf p.key) (bytesAt p.key bytes) va with
        | .ok s => .ok (if s.combined t i reg then s else s.countRefused t.team cores.length)
        | x => x

/-- STDL of `n` bytes. -/
def stdlOp (s : State) (i : Instr) (f : TF) (n : Nat) : State :=
  s.perThread i fun s t =>
    stored (s.deliverStore t i f.a.toNat ((s.groupOf t).sreg f.b.toNat) (s.storeSrc t f.d.toNat n))

/-! ### Arrivals (07 R171, 11 R238, R240, R241) -/

/-- A destination refuses a given line (07 R171). -/
def refusesGiven (s : State) (c ctx : Nat) : Bool :=
  let k := s.core c
  32 ≤ (k.l1.filter fun x => x.given && !x.hit && x.ctx = ctx).length ||
  k.fills.any (fun f => f < s.cycle && s.cycle ≤ f + 3) ||
  !((s.residents c).any fun n => (s.team n).ctx = ctx)

/-- Installs a given line in one of the two injection ways of its set, the core's one copy of it (11 R237, R240). -/
def installGiven (s : State) (f : Flight) : State :=
  let c := f.core
  let set := s.l1Set c f.line
  let s := s.dropL1 c fun x => x.line = f.line
  let ways := (s.core c).l1.filter fun x => x.given && s.l1Set c x.line = set
  let victim : Option L1Line := if ways.length < 2 then none
    else match ways.find? fun x => x.hit with
      | some x => some x
      | none => (sortBy (fun (x : L1Line) => x.since) ways).head?
  let s := match victim with
    | some v => s.dropL1 c fun x => x = v
    | none => s
  s.modCore c fun k => { k with
    l1 := k.l1 ++ [⟨f.ctx, f.line, f.data, true, false, false, false, s.cycle⟩]
    fills := s.noteFill k.fills }

end State

open State

/-- STDL.B32 (R169). -/
def execStdlB32 (f : TF) (s : State) : Host.Outcome State Fault Refusal := .next (s.stdlOp (.stdlB32 f) f 4)
/-- STDL.B64 (R169). -/
def execStdlB64 (f : TF) (s : State) : Host.Outcome State Fault Refusal := .next (s.stdlOp (.stdlB64 f) f 8)
/-- STDL.B128 (R169). -/
def execStdlB128 (f : TF) (s : State) : Host.Outcome State Fault Refusal := .next (s.stdlOp (.stdlB128 f) f 16)

/-- GIVEN_FILL: a delivered line is installed or refused (R171); where a later write has invalidated it, the invalidation follows
it at once (11 R241). -/
def execGivenFill (s : State) : Host.Outcome State Fault Refusal :=
  .next (match s.home.flights.find? fun f => f.id = s.arg.id with
    | none => s
    | some f =>
      let s := s.modHome fun h => { h with flights := h.flights.filter fun x => x.id != f.id }
      if s.refusesGiven f.core f.ctx then s.countRefused f.t.team 1
      else if f.stale then (s.installGiven f).dropL1 f.core fun x => x.given && x.line = f.line
      else s.installGiven f)

/-- DROP_NOTICE: the home forgets a holder that holds no given line of the region any more (11 R238, R246). -/
def execDropNotice (s : State) : Host.Outcome State Fault Refusal :=
  .next (
    let c := s.arg.core
    match s.region? (s.arg.addr * 128) with
    | none => s
    | some r =>
      let held := (s.core c).l1.any fun x => x.given && r.addr ≤ x.line * 128 && x.line * 128 < r.addr + r.size &&
        s.homeSlice (x.line * 128) = r.slice
      let coming := s.home.flights.any fun f => f.core = c && r.addr ≤ f.line * 128 && f.line * 128 < r.addr + r.size
      if held || coming then s
      else s.modHome fun h => { h with dir := h.dir.map fun x => if x = r then { x with given := x.given.filter fun k => k != c } else x })

/-- LINE_INVALIDATION: the given copies of a line on a core go; the write that sent it is performed once the last of its
invalidations has arrived (11 R241, R246). -/
def execLineInvalidation (s : State) : Host.Outcome State Fault Refusal :=
  .next (
    let line := s.arg.addr
    let s := (s.dropL1 s.arg.core fun x => x.given && x.line = line).invalidated s.arg.core s.arg.id
    match s.home.txns.find? fun x => x.id = s.arg.id && x.waits.isEmpty && !x.done with
    | some ⟨_, _, .buffer c, _, _⟩ => s.drainWhere c fun e => e.line = line
    | _ => s)

/-- REGION_MERGE: two sibling regions without a conflict for 2^20 cycles become one, which may merge in turn (11 R246). -/
def execRegionMerge (s : State) : Host.Outcome State Fault Refusal :=
  .next (
    let size := s.arg.len
    let base := s.arg.addr / (2 * size) * (2 * size)
    let part := fun (a : Nat) => s.home.dir.find? fun r => r.slice = s.arg.id && r.size = size && r.addr = a && r.quiet + 2 ^ 20 ≤ s.cycle
    if 65536 ≤ size then s
    else match part base, part (base + size) with
    | some x, some y =>
      let quiet := max x.quiet y.quiet
      let s := s.modHome fun h => { h with dir :=
        (h.dir.filter fun r => r != x && r != y) ++
          [⟨x.slice, base, 2 * size, distinct (x.given ++ y.given), distinct (x.privs ++ y.privs), quiet⟩] }
      s.after (max 1 (quiet + 2 ^ 20 - s.cycle)) .regionMerge { addr := base, len := 2 * size, id := x.slice }
    | _, _ => s)

end Sys2Proof.Machine
end

