-- ==== Sys2Proof/Machine/Atomics.lean ====
section
/-! DEFINITION. Atomics (07 R173 to R176, 23 R358, R360): on the scratchpad, at the cluster's slice or the home, over the
host port as AtomicOps or demoted, and at a peer module. -/

namespace Sys2Proof.Machine

/-- What an atomic computes: the old value, B and C to the new value. -/
abbrev AtomFn := DWord → DWord → DWord → DWord

/-- A 32-bit operation on the low words. -/
def on32 (op : Word → Word → Word → Word) : AtomFn := fun o b c =>
  (op (o.extractLsb' 0 32) (b.extractLsb' 0 32) (c.extractLsb' 0 32)).zeroExtend 64

/-- How a host window performs an operation (23 R358). -/
inductive HostForm where
  | add
  | swap
  | cas
  | none
  deriving DecidableEq, Repr

/-- One thread's atomic: its address, width, scope, operands and operation. -/
structure Atom where
  a : DWord
  reg : Nat
  n : Nat
  scope : Nat
  b : DWord
  c : DWord
  fn : AtomFn
  form : HostForm
  op : Nat

/-- The new bytes for the old bytes. -/
def Atom.step (x : Atom) (old : List Byte) : List Byte :=
  leBytes x.n (x.fn (BitVec.ofNat 64 (leNat old)) x.b x.c).toNat

namespace State

/-- The operands of a thread for an atomic (07 R173). -/
def atomOf (s : State) (t : Tid) (f : TF) (w64 : Bool) (fn : AtomFn) (form : HostForm) (op : Nat) : Atom :=
  let reg := f.a.toNat % 16
  let d := (f.p.dSource f.d).toNat
  { a := ((s.thread t).areg reg).val, reg := reg, n := if w64 then 8 else 4, scope := scopeOf f.p.rm
    b := if w64 then s.opB2 t f else (s.opB t f).zeroExtend 64
    c := if d = 0 then 0 else if w64 then (s.thread t).vpair d else ((s.thread t).vreg d).zeroExtend 64
    fn := fn, form := form, op := op }

/-- Where a thread's atomic leads. -/
def atomAt (atom : State → Tid → Atom) (s : State) (u : Tid) : State × Loc :=
  let x := atom s u
  s.locate u x.reg x.a x.n Need.atomic

/-- The threads of the group that take a turn at the same location in this bundle, by rising index (07 R175). -/
def turnMates (s : State) (t : Tid) (i : Instr) (key : Nat) (atom : State → Tid → Atom) : List Tid :=
  s.mates t i (fun k => k = key) (atomAt atom)

/-- The turns of the threads before `t` in a list of waiters. -/
def turnsBefore (s : State) (ts : List Tid) (t : Tid) (atom : State → Tid → Atom) : List (DWord × DWord) :=
  (ts.takeWhile fun u => u != t).map fun u => let x := atom s u; (x.b, x.c)

/-- The value a thread receives: the value read, after the turns before its own (07 R175). -/
def afterTurns (x : Atom) (o : List Byte) (before : List (DWord × DWord)) : List Byte :=
  before.foldl (fun o p => leBytes x.n (x.fn (BitVec.ofNat 64 (leNat o)) p.1 p.2).toNat) o

/-- The turns before a thread's own, as it noted them when it began to wait. -/
def noted (s : State) (t : Tid) : List (DWord × DWord) := match (s.thread t).wait with
  | .answer _ before _ => before
  | _ => []

/-- The answer that the thread awaits is the read of a turn that it completes itself (23 R360, 08 R185). -/
def demotedTurn (s : State) (t : Tid) : Bool := match (s.thread t).wait with
  | .answer _ _ d => d
  | _ => false

/-- The host page is in the UR list (23 R360). -/
def inUr (s : State) (pa : Nat) : Bool := s.host.ur.contains (pa / 65536)

/-- Adds a host page to the UR list of 64 (23 R360). -/
def addUr (s : State) (pa : Nat) : State :=
  if s.inUr pa then s else s.modHost fun h => { h with ur := ((pa / 65536) :: h.ur).take 64 }

/-- The thread's turn at a locked host line is over; after the last the stores that await the line drain. -/
def unlock (s : State) (t : Tid) (line : Nat) : State :=
  if s.host.locks.any fun l => l.1 = line && l.2 = [t] then
    (s.modHost fun h => { h with locks := h.locks.filter fun l => l.1 != line }).unlockLine line
  else s.modHost fun h => { h with locks := h.locks.map fun l => if l.1 = line then (l.1, l.2.filter fun u => u != t) else l }

/-- A turn at a host line: the line is locked for the group's threads, in order, once their stores to it have left, and the
first sends its request (23 R358 to R360). -/
def hostTurn (s : State) (t : Tid) (i : Instr) (p : Phys) (va : DWord) (x : Atom) (op : Option HostOp)
    (atom : State → Tid → Atom) : MemRes :=
  let line := lineOf p.key
  let mine := s.host.locks.any fun l => l.1 = line
  if s.hostLocked t line then .hold s (.hostLine line)
  else if 2048 ≤ s.host.reqs.length then .hold s (if mine then .hostLine line else .tableRoom)
  else
    let s : State := if mine then s
      else
        let ts := s.turnMates t i p.key atom
        (s.flushHost (s.coreNum t) ts line (p.key % 128) x.n).modHost fun h => { h with locks := h.locks ++ [(line, ts)] }
    let (s, id) := (s.noteSent t p va).hostRequest [t] p.pa x.n op x.b x.c false
    .hold s (.answer id [] op.isNone)

/-- AADD on a host window: one AtomicOp with the sum of the group's operands, at the atomic's width (07 R175, 23 R358). -/
def hostAdd (s : State) (t : Tid) (i : Instr) (p : Phys) (va : DWord) (x : Atom) (atom : State → Tid → Atom) : MemRes :=
  let line := lineOf p.key
  match s.host.reqs.find? fun r => r.waiters.contains t && r.since = s.cycle with
  | some r => .hold (s.noteSent t p va) (.answer r.id (s.turnsBefore r.waiters t atom) false)
  | none =>
    if s.hostLocked t line then .hold s (.hostLine line)
    else if 2048 ≤ s.host.reqs.length then .hold s .tableRoom
    else
      let ts := s.turnMates t i p.key atom
      let sum := ts.foldl (fun n u => n + (atom s u).b.toNat) 0
      let (s, id) := ((s.flushHost (s.coreNum t) ts line (p.key % 128) x.n).noteSent t p va).hostRequest ts p.pa x.n (some .fetchAdd)
        (BitVec.ofNat 64 (sum % 2 ^ (8 * x.n))) 0 false
      .hold s (.answer id [] false)

/-- An atomic on a host window without an AtomicOp: demoted where its page says so, otherwise a trap (23 R360). -/
def hostDemoted (s : State) (t : Tid) (i : Instr) (p : Phys) (va : DWord) (x : Atom) (atom : State → Tid → Atom) : MemRes :=
  if p.demote then s.hostTurn t i p va x none atom
  else .fault (s.unlock t (lineOf p.key)) (Request.of .hostAtomicUnsupported va)

/-- An atomic on a host window (23 R358, R360), always at system scope. -/
def atomicHost (s : State) (t : Tid) (i : Instr) (p : Phys) (va : DWord) (x : Atom) (atom : State → Tid → Atom) : MemRes :=
  if s.inUr p.pa then s.hostDemoted t i p va x atom
  else match x.form with
    | .add => s.hostAdd t i p va x atom
    | .swap => s.hostTurn t i p va x (some .swap) atom
    | .cas => s.hostTurn t i p va x (some .cas) atom
    | .none => s.hostDemoted t i p va x atom

/-- An atomic at a peer module: one request with the turns of the group's threads, whose own stores to the line have arrived
there before it leaves (07 R159, R175, R176, 23 R368). -/
def atomicPeer (s : State) (t : Tid) (i : Instr) (p : Phys) (va : DWord) (x : Atom) (atom : State → Tid → Atom) : MemRes :=
  let c := s.coreNum t
  let line := lineOf p.key
  match (s.core c).out.find? fun r => r.waiters.contains t && r.since = s.cycle with
  | some r => .hold (s.noteSent t p va) (.answer r.id (s.turnsBefore r.waiters t atom) false)
  | none =>
    let ts := s.turnMates t i p.key atom
    let mine := fun (e : WcEntry) => e.line = line && ts.any fun u => wcOwn u e
    let s := s.wcDrain c mine
    if (s.core c).wc.any mine || ts.any fun u => s.ownOut u c line then .hold s (.peerStore line)
    else if !s.tableRoom c then .hold s .tableRoom
    else
      let (s, id) := (s.noteSent t p va).openTxn c line ts ts va false false
      .hold (s.sendBy t.team (.atomic p.peer p.pa x.op x.n (ts.map fun u => ((atom s u).b, (atom s u).c)))) (.answer id [] false)

/-- The answer to an atomic of a host window or a peer (23 R359, R360, R368): the old value; of a read, the turn that the thread
completes itself, demoted or tentative in a held fold (08 R185); an AtomicOp that the host refuses is demoted. -/
def atomicAnswered (s : State) (t : Tid) (i : Instr) (y : Sent) (x : Atom) (atom : State → Tid → Atom) : MemRes :=
  let p := sentTo y
  let line := lineOf p.key
  match (s.thread t).reply with
  | .data o =>
    if p.tgt = 3 && s.demotedTurn t then match s.farAnswer t y x.n with
      | .ok s b => s.atomicHeld t p.key y.va b x.step
      | r => r
    else
      let old := afterTurns x (replyBytes o x.n) (s.noted t)
      if !s.demotedTurn t then .ok (s.unlock t line) old
      else
        -- the write is posted with Relaxed Ordering clear, then the lock passes on
        let s := s.modHost fun h => { h with posted := h.posted ++
          [⟨p.pa / 128 * 128, (bytesAt (p.pa % 128) (x.step old)), false, some t, false⟩] }
        .ok (s.unlock t line) old
  | .failed c => .fault (s.unlock t line) (Request.of c y.va)
  | _ => (s.addUr p.pa).hostDemoted t i p y.va x atom

/-- An atomic in a held fold (08 R185), which at a peer reads the committed value first. -/
def atomicFold (s : State) (t : Tid) (p : Phys) (va : DWord) (x : Atom) : MemRes :=
  if p.tgt ≤ 1 then
    let committed := if s.holds t.team (granOf p.key) then s.mem.bytes p.key x.n
      else ((List.range x.n).map fun i => p.key % 128 + i).map fun i => lineByte (s.slotLine (s.team t.team).cluster (lineOf p.key)) i
    s.atomicHeld t p.key va committed x.step
  else match s.loadFar t [t] p x.n va with
    | .hold s (.answer id before _) => .hold s (.answer id before true)
    | r => r

/-- A thread's atomic (07 R173 to R176). -/
def atomic (s : State) (t : Tid) (i : Instr) (atom : State → Tid → Atom) : MemRes :=
  let x := atom s t
  match s.answered t with
  | some y => s.atomicAnswered t i y x atom
  | none => match s.locate t x.reg x.a x.n Need.atomic with
    | (s, .hold w) => .hold s w
    | (s, .fault r) => let (s, r) := s.foldFirst t x.a.toNat x.n r; .fault s r
    | (s, .scratch off) =>
      if s.isLent t.team off x.n then .hold s (.lent off (off + x.n))
      else
        let old := (s.team t.team).scratch.bytes off x.n
        .ok (s.scratchWrite t.team off (x.step old)) old
    | (s, .mem p leaf va) =>
      if groupPage p then .fault s (Request.of .accessViolation va)
      else match s.admitWrite t p leaf va x.n .atomic true with
      | .hold s w => .hold s w
      | .fault s r => .fault s r
      | .tentative s p => s.atomicFold t p va x
      | .plain s _ (some g) => .hold s (.granule g)
      | .plain s q none =>
        if q.tgt ≤ 1 then s.atomicAt t (s.mates t i (fun k => lineOf k = lineOf q.key) (atomAt atom)) q va x.n x.scope x.step
        else if q.tgt = 2 then s.atomicHost t i q va x atom
        else s.atomicPeer t i q va x atom

/-- An atomic bundle: the old value goes to d unless d is v0 (07 R173). -/
def atomOp (s : State) (i : Instr) (f : TF) (w64 : Bool) (fn : AtomFn) (form : HostForm) : State :=
  s.perThread i fun s t =>
    match s.atomic t i fun s u => s.atomOf u f w64 fn form i.opcode with
    | .ok s old => .done (if f.d = 0 then s else s.landLater t [t.thr] (s.loadDst t f.d.toNat false old))
    | .hold s w => .hold s w
    | .fault s r => .trap s r

end State

/-- AADD: atomic adds B on 32 bits (R174). -/
def execAadd (f : TF) (s : State) : Host.Outcome State Fault Refusal :=
  .next (s.atomOp (.aadd f) f false (on32 fun o b _ => o + b) .add)

/-- AADD.B64: atomic adds B on 64 bits (R174). -/
def execAaddB64 (f : TF) (s : State) : Host.Outcome State Fault Refusal :=
  .next (s.atomOp (.aaddB64 f) f true (fun o b _ => o + b) .add)

/-- AMINS: atomic signed minimum on 32 bits (R174). -/
def execAmins (f : TF) (s : State) : Host.Outcome State Fault Refusal :=
  .next (s.atomOp (.amins f) f false (on32 fun o b _ => minS o b) .none)

/-- AMINS.B64: atomic signed minimum on 64 bits (R174). -/
def execAminsB64 (f : TF) (s : State) : Host.Outcome State Fault Refusal :=
  .next (s.atomOp (.aminsB64 f) f true (fun o b _ => if o.sle b then o else b) .none)

/-- AMINN: atomic unsigned minimum on 32 bits (R174). -/
def execAminn (f : TF) (s : State) : Host.Outcome State Fault Refusal :=
  .next (s.atomOp (.aminn f) f false (on32 fun o b _ => minN o b) .none)

/-- AMINN.B64: atomic unsigned minimum on 64 bits (R174). -/
def execAminnB64 (f : TF) (s : State) : Host.Outcome State Fault Refusal :=
  .next (s.atomOp (.aminnB64 f) f true (fun o b _ => if o.ule b then o else b) .none)

/-- AMAXS: atomic signed maximum on 32 bits (R174). -/
def execAmaxs (f : TF) (s : State) : Host.Outcome State Fault Refusal :=
  .next (s.atomOp (.amaxs f) f false (on32 fun o b _ => maxS o b) .none)

/-- AMAXS.B64: atomic signed maximum on 64 bits (R174). -/
def execAmaxsB64 (f : TF) (s : State) : Host.Outcome State Fault Refusal :=
  .next (s.atomOp (.amaxsB64 f) f true (fun o b _ => if o.sle b then b else o) .none)

/-- AMAXN: atomic unsigned maximum on 32 bits (R174). -/
def execAmaxn (f : TF) (s : State) : Host.Outcome State Fault Refusal :=
  .next (s.atomOp (.amaxn f) f false (on32 fun o b _ => maxN o b) .none)

/-- AMAXN.B64: atomic unsigned maximum on 64 bits (R174). -/
def execAmaxnB64 (f : TF) (s : State) : Host.Outcome State Fault Refusal :=
  .next (s.atomOp (.amaxnB64 f) f true (fun o b _ => if o.ule b then b else o) .none)

/-- AAND: atomic and on 32 bits (R174). -/
def execAand (f : TF) (s : State) : Host.Outcome State Fault Refusal :=
  .next (s.atomOp (.aand f) f false (on32 fun o b _ => o &&& b) .none)

/-- AAND.B64: atomic and on 64 bits (R174). -/
def execAandB64 (f : TF) (s : State) : Host.Outcome State Fault Refusal :=
  .next (s.atomOp (.aandB64 f) f true (fun o b _ => o &&& b) .none)

/-- AOR: atomic or on 32 bits (R174). -/
def execAor (f : TF) (s : State) : Host.Outcome State Fault Refusal :=
  .next (s.atomOp (.aor f) f false (on32 fun o b _ => o ||| b) .none)

/-- AOR.B64: atomic or on 64 bits (R174). -/
def execAorB64 (f : TF) (s : State) : Host.Outcome State Fault Refusal :=
  .next (s.atomOp (.aorB64 f) f true (fun o b _ => o ||| b) .none)

/-- AXOR: atomic exclusive or on 32 bits (R174). -/
def execAxor (f : TF) (s : State) : Host.Outcome State Fault Refusal :=
  .next (s.atomOp (.axor f) f false (on32 fun o b _ => o ^^^ b) .none)

/-- AXOR.B64: atomic exclusive or on 64 bits (R174). -/
def execAxorB64 (f : TF) (s : State) : Host.Outcome State Fault Refusal :=
  .next (s.atomOp (.axorB64 f) f true (fun o b _ => o ^^^ b) .none)

/-- AXCHG: atomic exchange on 32 bits (R174). -/
def execAxchg (f : TF) (s : State) : Host.Outcome State Fault Refusal :=
  .next (s.atomOp (.axchg f) f false (on32 fun _ b _ => b) .swap)

/-- AXCHG.B64: atomic exchange on 64 bits (R174). -/
def execAxchgB64 (f : TF) (s : State) : Host.Outcome State Fault Refusal :=
  .next (s.atomOp (.axchgB64 f) f true (fun _ b _ => b) .swap)

/-- ACAS: atomic compare and swap on 32 bits (R174). -/
def execAcas (f : TF) (s : State) : Host.Outcome State Fault Refusal :=
  .next (s.atomOp (.acas f) f false (on32 fun o b c => if o = c then b else o) .cas)

/-- ACAS.B64: atomic compare and swap on 64 bits (R174). -/
def execAcasB64 (f : TF) (s : State) : Host.Outcome State Fault Refusal :=
  .next (s.atomOp (.acasB64 f) f true (fun o b c => if o = c then b else o) .cas)

/-- AFADD: FP32 addition rounded to nearest even, without flushing (R174). -/
def execAfadd (f : TF) (s : State) : Host.Outcome State Fault Refusal :=
  .next (s.atomOp (.afadd f) f false
    (on32 fun o b _ => BitVec.ofNat 32 (binF (Modes.plain 1) false 0 (addF 1) o.toNat b.toNat)) .none)

/-- AINCW: an increment that wraps at B (R174). -/
def execAincw (f : TF) (s : State) : Host.Outcome State Fault Refusal :=
  .next (s.atomOp (.aincw f) f false (on32 fun o b _ => if b.ule o then 0 else o + 1) .none)

end Sys2Proof.Machine
end

