-- ==== Sys2Proof/Machine/Requests.lean ====
section
/-! DEFINITION. The page-request queue (10 R228 to R230, 18 R318, R319): a request joins an entry, takes one or is
refused; the record it writes; its completion for threads, engines and objects under fetch. -/

namespace Sys2Proof.Machine

/-- The KIND of a page-request record (18 R318). -/
def ReqKind.code : ReqKind → Nat
  | .load => 0
  | .store => 1
  | .atomic => 2
  | .fetch => 3
  | .engineRead => 4
  | .engineWrite => 5
  | .commonsFull => 6

namespace State

/-- The partitions that are configured, of 48 (18 R319, R321). -/
def partitions (s : State) : List Nat := (List.range 48).filter s.partConfigured

/-- The request joins the entry: same context and page, or same object (10 R229). -/
def merges (ctx : Nat) (r : Request) (e : PrqEntry) : Bool :=
  e.ctx = ctx && e.req.cause = r.cause &&
    (if r.cause = .tetherMiss then e.req.ident = r.ident else e.req.addr.toNat / 65536 = r.addr.toNat / 65536)

/-- Whether a partition's next entry is a shared one; none where no entry is available (10 R229, 18 R319). -/
def entryKind (s : State) (part : Nat) : Option Bool :=
  if (s.prq.filter fun e => e.part = part && !e.shared).length < 8 then some false
  else if (s.prq.filter fun e => e.shared).length + 8 * s.partitions.length < 512 then some true
  else none

/-- The 32-byte record of an accepted request (18 R318). -/
def requestRecord (ctx part tag : Nat) (r : Request) : List Byte :=
  leBytes 32 (fields [(193, if r.cause = .tetherMiss then r.ident.toNat else 0), (128, r.addr.toNat), (72, r.cause.code),
    (64, r.kind.code), (52, ctx), (42, part), (0, tag)])

/-- A request of a context reaches the queue: the entry it waits behind, none where it is refused. -/
def enqueue (s : State) (ctx : Nat) (r : Request) : Option (State × Nat) :=
  match s.prq.find? (merges ctx r) with
  | some e => some (s, e.tag)
  | none =>
    let part := (s.ctx ctx).part
    match s.entryKind part, (List.range 512).find? fun n => !(s.prq.any fun e => e.tag = n) with
    | some shared, some tag =>
      let s : State := { s with prq := s.prq ++ [(⟨tag, ctx, part, shared, r, [], []⟩ : PrqEntry)] }
      let s := s.deviceWrite (s.mgmt.prqRing.toNat + 32 * (s.mgmt.prqN.toNat % 512)) (requestRecord ctx part tag r)
      some (s.modMgmt fun m => { m with prqN := m.prqN + 1 }, tag)
    | _, _ => none

/-- Changes an entry of the queue. -/
def modEntry (s : State) (tag : Nat) (f : PrqEntry → PrqEntry) : State :=
  { s with prq := s.prq.map fun e => if e.tag = tag then f e else e }

/-- A permit comes back (10 R228). -/
def givePermit (s : State) (c : Nat) : State := s.modCore c fun k => { k with permits := min 4 (k.permits + 1) }

/-! ### Completions (10 R230, 21 R347, R348) -/

/-- The entry of an object becomes resident or absent; a failed one frees its pages (21 R347). -/
def fetchEnds (s : State) (slot : Nat) (resident : Bool) : State :=
  let s := s.setCEntry slot { s.cEntry slot with st := if resident then 2 else 0 }
  if resident then s else s.modHome fun h => { h with runs := h.runs.filter fun r => r.slot != slot }

/-- The request of a host-homed object is completed: the entry is resident with the pages that its size needs, what the driver
filled them with counting as no write since the fetch (21 R351), or absent (21 R348). Whether it is resident. -/
def hostFetchEnds (s : State) (ctx : Nat) (ident : BitVec 63) (ok : Bool) : State × Bool :=
  match s.findEntry ctx ident with
  | none => (s, ok)
  | some slot =>
    let e := s.cEntry slot
    if e.st != 1 || e.home != 0 then (s, ok)
    else
      let run := (s.home.runs.find? fun r => r.slot = slot).map fun r => r.pages
      let pages := pagesOf e.size
      if ok && pages ≤ run.getD 0 then
        let s := s.modHome fun h => { h with runs := h.runs.map fun r => if r.slot = slot then { r with pages := pages, written := [] } else r }
        (s.fetchEnds slot true, true)
      else (s.fetchEnds slot false, false)

/-- A waiting thread resumes at its region entry, its register re-tethered first for TETHER_MISS, or takes its cause
(10 R230). -/
def endWait (s : State) (ctx : Nat) (ok : Bool) (t : Tid) : State :=
  match (s.thread t).wait with
  | .queued _ r =>
    if ok then
      let s : State := if r.cause = .tetherMiss ∧ r.reg ≠ 0 then match s.findEntry ctx r.ident with
          | some slot => if (s.cEntry slot).st = 2 then s.retetherReg t r.reg slot else s
          | none => s
        else s
      s.restartRegion t
    else s.deliver t r.cause r.addr
  | _ => s

/-- Changes an engine's copy. -/
def modEngine (s : State) (c e : Nat) (f : Copy → Copy) : State :=
  s.modCore c fun k => if e = 0 then { k with eng0 := k.eng0.map f } else { k with eng1 := k.eng1.map f }

/-- The copy that an engine works on. -/
def engine (s : State) (c e : Nat) : Option Copy := if e = 0 then (s.core c).eng0 else (s.core c).eng1

/-- The stores of a context to a page, which a core's buffer has held for the copy of its unit, are lost: the copy's request has
failed, and the leaf stays unchanged (25 R380). -/
def dropStores (s : State) (c ctx page : Nat) : State :=
  let gone := fun (b : SbByte) => (s.team b.by_.team).ctx = ctx && b.cow.any fun va => va / 65536 = page
  let kept := fun (e : SbEntry) => { e with bytes := e.bytes.filter fun b => !gone b }
  s.modCore c fun k => { k with sb := (k.sb.map kept).filter fun e => !e.bytes.isEmpty }

/-- A request of a core's buffer (2) or for a cluster's private copy (3) is completed (25 R380): done, what waits tries again;
failed, the write is not made. DESIGN CHOICE (log entry 77): the spec names no thread to take the failure, which is past it. -/
def endAsked (s : State) (ctx : Nat) (r : Request) (ok : Bool) (x : Nat × Nat) : State :=
  let page := r.addr.toNat / 65536
  if x.2 = 2 then
    if ok then s.drainLater fun l => (s.core x.1).sb.any fun e => e.line = l && e.bytes.any fun b => b.cow.isSome
    else s.dropStores x.1 ctx page
  else if x.2 = 3 && !ok then
    ((s.cluster x.1).privs.filter fun p => p.va / 65536 = page).foldl (fun s p => s.privDrop x.1 p.line) s
  else s

/-- An engine that waits behind the entry goes on, or its copy ends with TRANSLATION (08 R196). -/
def endEngineWait (s : State) (ctx : Nat) (r : Request) (tag : Nat) (ok : Bool) (x : Nat × Nat) : State :=
  if 2 ≤ x.2 then s.endAsked ctx r ok x
  else match s.engine x.1 x.2 with
  | some k =>
    if k.tag = some tag then
      let s := s.modEngine x.1 x.2 fun k => { k with
        tag := none
        walked := k.walked || !ok
        fault := if ok then k.fault else some (Request.of .translation r.addr, false) }
      s.after 1 .copyCompletion { core := x.1, id := x.2 }
    else s
  | none => s

/-- A page request is completed, as done or as failed; its entry is freed (10 R230, 18 R319). -/
def complete (s : State) (e : PrqEntry) (ok : Bool) : State :=
  let (s, ok) := if e.req.cause = .tetherMiss then s.hostFetchEnds e.ctx e.req.ident ok else (s, ok)
  let s := { s with prq := s.prq.filter fun x => x.tag != e.tag }
  let s := e.waiters.foldl (endWait · e.ctx ok ·) s
  e.engines.foldl (endEngineWait · e.ctx e.req e.tag ok ·) s

/-! ### The service of the queue (10 R228, R229) -/

/-- A request arrives at the queue; it is served with those that arrive in the same cycle. -/
def arriveAtQueue (s : State) (a : PrqArrival) : State :=
  ({ s with prqIn := s.prqIn ++ [a] }).afterOnce 1 .pageRequestArrival { ok := true }

/-- A thread's request is decided: its permit returns; accepted, it waits for the completion; refused, it backs off. -/
def serveThread (s : State) (a : PrqArrival) (t : Tid) : State :=
  let s := s.givePermit a.eng.1
  if (s.thread t).wait != .request a.req then s
  else match s.enqueue a.ctx a.req with
    | some (s, tag) =>
      (s.modEntry tag fun e => { e with waiters := e.waiters ++ [t] }).modThread t fun x => { x with wait := .queued tag a.req }
    | none => s.backOff t false

/-- The back-off of an engine's next refused request. -/
def engineBack (s : State) (c e : Nat) : Nat := if e = 0 then (s.core c).engBack.1 else (s.core c).engBack.2
/-- Sets it. -/
def setEngineBack (s : State) (c e d : Nat) : State :=
  s.modCore c fun k => { k with engBack := if e = 0 then (d, k.engBack.2) else (k.engBack.1, d) }

/-- An engine's request is decided: accepted, its copy waits for the completion; refused, the engine retries after its
back-off, which is its own. One that neither a thread nor an engine makes is made again by the step that needs it (25 R380). -/
def serveEngine (s : State) (a : PrqArrival) : State :=
  let (c, e) := a.eng
  if 2 ≤ e then match s.enqueue a.ctx a.req with
    | some (s, tag) => s.modEntry tag fun x => { x with engines := distinct (x.engines ++ [(c, e)]) }
    | none => s
  else if (s.engine c e).isNone then s
  else match s.enqueue a.ctx a.req with
    | some (s, tag) =>
      ((s.modEntry tag fun x => { x with engines := x.engines ++ [(c, e)] }).modEngine c e fun k =>
        { k with tag := some tag }).setEngineBack c e 256
    | none =>
      let d := s.engineBack c e
      (s.setEngineBack c e (min 16384 (2 * d))).after d .engineRequestRetry { core := c, id := e }

/-- The partition of a request. -/
def arrivalPart (s : State) (a : PrqArrival) : Nat := (s.ctx a.ctx).part

/-- The request served next: the first of the partition that follows the one served last, in a circle of 48. -/
def nextArrival (s : State) : Option PrqArrival :=
  (sortBy (fun a => (s.arrivalPart a + 47 - s.prqLast) % 48) s.prqIn).head?

/-- The requests at the queue are served, partition by partition. -/
def serveQueue (s : State) : Nat → State
  | 0 => s
  | fuel + 1 => match s.nextArrival with
    | none => s
    | some a =>
      let s : State := { s with prqIn := s.prqIn.erase a, prqLast := s.arrivalPart a }
      (match a.thr with
        | some t => s.serveThread a t
        | none => s.serveEngine a).serveQueue fuel

end State

open State

/-- A back-off for a permit has passed: the bundle issues again, or a watchdog report is delivered again (10 R228; DESIGN
CHOICE, log entry 94). -/
def execPermitBackoffExpiry (s : State) : Host.Outcome State Fault Refusal :=
  let t := s.arg.tid
  .next (if (s.thread t).wait = .backoff s.arg.len then
      let s := s.modThread t fun x => { x with wait := .none }
      if s.arg.ok then s.report t .watchdog 0 else s
    else s)

/-- A thread's request reaches the queue, which serves what has arrived in the next cycle (R228, R229). -/
def execPageRequestArrival (s : State) : Host.Outcome State Fault Refusal :=
  let t := s.arg.tid
  .next (if s.arg.ok then s.serveQueue s.prqIn.length
    else match (s.thread t).wait with
      | .request r => s.arriveAtQueue ⟨(s.team t.team).ctx, r, some t, (s.arg.core, 0)⟩
      | _ => s.givePermit s.arg.core)

/-- An engine sends its refused request again (R229). -/
def execEngineRequestRetry (s : State) : Host.Outcome State Fault Refusal :=
  .next (s.after 1 .copyCompletion { core := s.arg.core, id := s.arg.id })

end Sys2Proof.Machine
end

