-- ==== Sys2Proof/Machine/Landings.lean ====
section
/-! DEFINITION. Results that land (04 R82, R85), wounds (08 R189), the end
of an object's fetch and of its eviction (21 R347, R351). -/

namespace Sys2Proof.Machine

/-- A line lies in an object's pages. -/
def ObjRun.has (r : ObjRun) (l : Nat) : Bool := r.back ≤ l * 128 && l * 128 < r.back + r.pages * 65536

namespace State

/-- A fixed-latency result lands; it is kept while a later bundle's check under CHKSB can meet it (04 R82, R86). -/
def landFixed (s : State) (n g due : Nat) : State :=
  let mine := fun (e : Pend) => e.due = some due
  (s.modGroup n g fun gr =>
    { gr.putWhere mine with pend := gr.pend.map fun e => if mine e then { e with landed := true } else e }).prunePend n g

/-- The parts of an object that go home: of each line written since the fetch, clipped to the object's size, the pieces of its
home's lines; each with the device line it comes from (21 R351). -/
def homeParts (e : CEntry) (r : ObjRun) : List (Nat × Nat × Nat) :=
  r.written.flatMap fun l =>
    let off := l * 128 - r.back
    let n := min 128 (e.size - off)
    (lineParts (e.haddr + off) n n).map fun p => (l, p)

/-- The bytes of a part. -/
def partBytes (s : State) (e : CEntry) (r : ObjRun) (a n : Nat) : List Byte := s.mem.bytes (r.back + (a - e.haddr)) n

/-- A part of an object goes home over the pool port, the fabric or the host port (21 R351); the poison mark of its line travels
with it (27 R400), and a line that cannot reach its home is poisoned there (R401). -/
def writePart (s : State) (e : CEntry) (r : ObjRun) (l a n : Nat) : State :=
  let b := s.partBytes e r a n
  match e.home with
  | 1 =>
    let k := poolKey a
    if (s.poolLost k n).isSome then s.losePoison (lineOf k) (keyPa k / 2 ^ 45) e.ctx
    else if s.poisoned l then (s.deviceWrite k b).poisonLine (lineOf k) else s.deviceWrite k b
  | 2 =>
    let line := a / 128
    let part := (s.ctx e.ctx).part
    if s.routeTo e.peer then
      let s := s.sendFor part (.write e.peer line (bytesAt (a % 128) b))
      if s.poisoned l then s.sendFor part (.poison e.peer line) else s
    else (s.sendFor part (.poison e.peer line)).errorLog 10 (line * 128) 0 e.ctx
  | _ => s.postHost ⟨a / 128 * 128, bytesAt (a % 128) b, true, none, s.poisoned l⟩

/-- Writes of an object go home: whole lines, each clipped to the object's size. -/
def writeHome (s : State) (e : CEntry) (r : ObjRun) : State :=
  (homeParts e r).foldl (fun s p => s.writePart e r p.1 p.2.1 p.2.2) s

/-- Before an object's lines go home, what has passed 07 R157 completes (21 R351, steps 2 and 3): buffered stores reach the
pages, private copies are written back and dropped, every given and loose copy goes, with the fills on their way. A write that
its home has begun and not performed is made again by its access, which waits for the eviction. -/
def flushRun (s : State) (r : ObjRun) : State :=
  let s := s.modHome fun h => { h with
    txns := h.txns.filter fun x => !r.has x.line
    refused := h.refused.filter fun x => !r.has x.line }
  let s := s.cores.foldl (fun s k => (k.2.sb.filter fun e => r.has e.line).foldl (fun s e =>
    (s.sbKeep k.1 e fun _ => false).drainBytes k.1 e.line e.nt e.bytes) s) s
  let s := s.writeBackEach (fun _ p => r.has p.line) false
  let coming := distinct ((s.home.flights.filter fun f => r.has f.line).map fun f => f.line)
  coming.foldl staleFills (s.dropL1All fun x => r.has x.line)

/-- The run of a slot. -/
def run? (s : State) (slot : Nat) : Option ObjRun := s.home.runs.find? fun r => r.slot = slot

/-- An object has gone home: the entry is absent with the next generation, its pages are free (21 R347). -/
def endEviction (s : State) (slot : Nat) : State :=
  match s.run? slot with
  | none => s
  | some r =>
    let s := s.flushRun r
    let e := s.cEntry slot
    let s := (s.writeHome e ((s.run? slot).getD r)).setCEntry slot { e with st := 0, gen := e.gen + 1 }
    s.modHome fun h => { h with runs := h.runs.filter fun r => r.slot != slot }

/-- The fetch of an object has failed; the threads that wait for it take its cause when they issue again (21 R347). -/
def failFetch (s : State) (slot : Nat) (c : Cause) : State :=
  let ts := ((List.range s.teams.length).flatMap s.tids).filter fun t => (s.thread t).wait = .object slot true
  let s := s.fetchEnds slot false
  ts.foldl (fun s t => s.modThread t fun x => { x with reply := .failed c }) s

/-- The pages of an object that is fetched hold `n` bytes of it and are free of old poison marks (21 R347, 27 R400). -/
def pagesFilled (s : State) (slot : Nat) (e : CEntry) (fill : Memory → Memory) : State :=
  let pages := pagesOf e.size * 65536
  let s : State := { s with mem := fill (s.mem.clear e.back pages) }
  (s.unpoison e.back pages).setCEntry slot { e with st := 2 }

/-- A pool object's bytes arrive from its home; a copy that fails, by poison, a lapsed extent or a port that is down, gives
DATA_POISON (21 R347). -/
def poolArrives (s : State) (slot : Nat) (ok : Bool) : State :=
  let e := s.cEntry slot
  let k := poolKey e.haddr
  let bad := s.poison.any fun l => k ≤ l * 128 + 127 && l * 128 < k + e.size
  if !ok || bad || (s.poolLost k e.size).isSome then s.failFetch slot .dataPoison
  else s.pagesFilled slot e fun m => m.copy k e.size e.back

/-- A peer object's bytes arrive at its pages; a copy that fails gives LINK_LOST (21 R347; log entry 13). -/
def peerArrives (s : State) (slot : Nat) (image : List (Nat × Byte)) (ok : Bool) : State :=
  let e := s.cEntry slot
  if !ok then s.failFetch slot .linkLost
  else s.pagesFilled slot e fun m => m.putAll ((image.filter fun b => b.1 < e.size).map fun b => (e.back + b.1, b.2))

/-- The fetch of a slot's object has ended, unless the entry that it was begun for is gone (21 R347). -/
def fetchArrives (s : State) (slot id : Nat) (image : List (Nat × Byte)) (ok : Bool) : State :=
  if (s.cEntry slot).st != 1 || !((s.run? slot).any fun r => r.fetch = id) then s
  else match (s.cEntry slot).home with
    | 1 => s.poolArrives slot ok
    | 2 => s.peerArrives slot image ok
    | _ => s

/-- The answer to a directory read at a peer (21 R343; log entry 13), kept for the threads that wait for it. -/
def directoryAnswers (s : State) (id : Nat) (answer : Option (BitVec 256)) : State :=
  s.modHome fun h => { h with dirs := h.dirs.map fun r => if r.id = id then { r with answer := some answer } else r }

end State

open State

/-- A fixed-latency result lands (R82). -/
def execFixedLatencyResult (s : State) : Host.Outcome State Fault Refusal :=
  .next (s.landFixed s.arg.team s.arg.grp s.arg.len)

/-- A variable-latency result lands and releases its interlock (R85). -/
def execVariableLatencyResult (s : State) : Host.Outcome State Fault Refusal :=
  let id := s.arg.id
  .next (s.modGroup s.arg.team s.arg.grp fun g => g.landResult id)

/-- WOUND (R189): a task is wounded, unless it has ended or its commit is decided. -/
def execWound (s : State) : Host.Outcome State Fault Refusal := 
  .next ((s.woundTeam s.arg.team).lookDispatch (s.team s.arg.team).ctx)

/-- OBJECT_FETCH_COMPLETE (21 R347): the bytes of the object in slot `addr`, by its fetch `id`, or with `nums` [1] the answer to
the directory read `id` at a peer (R343). -/
def execObjectFetchComplete (s : State) : Host.Outcome State Fault Refusal :=
  .next (if s.arg.nums = [1] then
      s.directoryAnswers s.arg.id (if s.arg.ok then some (BitVec.ofNat 256 (leNat s.arg.bytes)) else none)
    else s.fetchArrives s.arg.addr s.arg.id s.arg.image s.arg.ok)

/-- EVICTION_COMPLETE (21 R347, R351). -/
def execEvictionComplete (s : State) : Host.Outcome State Fault Refusal :=
  let slot := s.arg.addr
  .next (if (s.cEntry slot).st = 3 then s.endEviction slot else s)

end Sys2Proof.Machine
end

