-- ==== Sys2Proof/Machine/Commands.lean ====
section
/-! DEFINITION. Commands to the module through CTXCMD (18 R309 to R311, R317, R323, R324, 10 R414): the queue, enable,
invalidations, completions, halted teams, disable; live fields and the watchdog. -/

namespace Sys2Proof.Machine

namespace State

/-! ### The queue (18 R311) -/

/-- The step of a command and what it acts on: CTX in [11:0], OP in [15:12], ARG in [63:16]. -/
def commandStep (x : DWord) : Due :=
  let arg : EvArg := { ctx := (x.extractLsb' 0 12).toNat, arg := x.extractLsb' 16 48 }
  let ev : Instr := match (x.extractLsb' 12 4).toNat with
    | 1 => .enable
    | 2 => .ringCommand
    | 3 => .invalidateAll
    | 4 => .invalidatePage
    | 5 => .requestDone
    | 6 => .requestFailed
    | 7 => .watchdogRestart
    | 8 => .disable
    | 9 => .resumeTeam
    | 10 => .endTeam
    | _ => .ctxcmdInvalid
  ⟨0, ev, arg⟩

/-- The oldest command is performed next. -/
def startCommand (s : State) : State := match s.mgmt.cmds with
  | [] => s
  | x :: _ => let d := commandStep x; s.after 1 d.ev d.arg

/-- A store to CTXCMD queues a command. -/
def queueCommand (s : State) (x : DWord) : State :=
  let idle := s.mgmt.cmds.isEmpty
  let s := s.modMgmt fun m => { m with cmds := m.cmds ++ [x] }
  if idle then s.startCommand else s

/-- A command completes: the count rises, and the next begins. -/
def finishCommand (s : State) : State :=
  (s.modMgmt fun m => { m with cmds := m.cmds.tail, cmdDone := m.cmdDone + 1 }).startCommand

/-- The management error count rises. -/
def mgmtError (s : State) : State := s.modMgmt fun m => { m with mgmtErr := m.mgmtErr + 1 }

/-- A command that completes at once, on an enabled context; without one, or where it fails, only the error count rises. -/
def command (s : State) (body : State → Option State) : State :=
  match if (s.ctx s.arg.ctx).en then body s else none with
  | some s' => s'.finishCommand
  | none => s.mgmtError.finishCommand

/-! ### Enable (18 R309 to R311) -/

/-- A field of a context record. -/
def recordField (r : BitVec 2048) (lo len : Nat) : Nat := (r.extractLsb' lo len).toNat

/-- The record can be enabled (18 R309, R311). -/
def contextOk (s : State) (c : Nat) (r : BitVec 2048) : Bool :=
  let f := recordField r
  let ringsz := f 352 32
  c != 0 && c < 4096 && f 640 1408 = 0 && f 14 18 = 0 && f 3 5 = 0 && f 576 64 % 64 = 0 && f 512 64 % 4096 = 0 &&
  f 416 64 % 65536 = 0 && f 288 64 % 4096 = 0 && f 224 64 % 4 = 0 && f 160 64 % 32 = 0 && f 96 64 % 2048 = 0 &&
  ((List.range 13).any fun i => ringsz = 16 * 2 ^ i) && (f 480 32 = 0 || 256 ≤ f 480 32) && f 8 6 < 48 &&
  s.partConfigured (f 8 6)

/-- The context as its record enables it. -/
def enabled (r : BitVec 2048) : Ctx :=
  { Ctx.reset with
    en := true, save := r.extractLsb' 576 64, flog := r.extractLsb' 512 64, undosz := r.extractLsb' 480 32
    undo := r.extractLsb' 416 64, ringsz := r.extractLsb' 352 32, ring := r.extractLsb' 288 64
    hbase := r.extractLsb' 224 64, part := (r.extractLsb' 8 6).toNat, wdlim := r.extractLsb' 64 32
    quant := r.extractLsb' 32 32, halt := r.getLsbD 2, chksb := r.getLsbD 1 }

/-- The context record in memory. -/
def contextRecord (s : State) (c : Nat) : BitVec 2048 := BitVec.ofNat 2048 (s.dev (s.ctxRecord c) 256)

/-- The module writes EN in the record. -/
def writeEn (s : State) (c : Nat) (en : Bool) : State :=
  let a := s.ctxRecord c
  let b := s.mem.get a &&& ~~~1#8
  s.deviceWrite a [if en then b ||| 1#8 else b]

/-! ### Translations and accesses under way (18 R317) -/

/-- Removes cached translations. -/
def dropTlbWhere (s : State) (p : TlbEntry → Bool) : State :=
  let s := s.mapCores fun k => { k with tlb := k.tlb.filter fun e => !p e }
  { s with dieTlb := (s.dieTlb.map fun (k : Nat × List TlbEntry) => (k.1, k.2.filter fun e => !p e)).filter fun k => !k.2.isEmpty }

/-- Threads of a context have stored in the entry. -/
def sbOfCtx (s : State) (c : Nat) (e : SbEntry) : Bool := e.bytes.any fun b => (s.team b.by_.team).ctx = c
def wcOfCtx (s : State) (c : Nat) (e : WcEntry) : Bool := e.writers.any fun t => (s.team t.team).ctx = c

/-- Every buffer of the module that holds stores of the context drains as far as it can. -/
def drainCtx (s : State) (c : Nat) : State :=
  s.cores.foldl (fun s k => (s.drainWhere k.1 (s.sbOfCtx c)).wcDrain k.1 (s.wcOfCtx c)) s

/-- A store of the context from before a cycle stands in a buffer. -/
def oldStores (s : State) (c til : Nat) : Bool :=
  s.cores.any fun k => (k.2.sb.any fun e => s.sbOfCtx c e && e.since ≤ til) || k.2.wc.any fun e => s.wcOfCtx c e && e.since ≤ til

/-- An access, engine transfer or fetch of the context, numbered below `id`, is not acknowledged: what a copy that was cancelled
has sent counts, and a host atomic whose read has been answered and whose write is to be posted (23 R360). -/
def oldAccesses (s : State) (c id : Nat) : Bool :=
  let of := fun (n : Nat) => (s.team n).ctx = c
  let busy := fun (x : Option Copy) => match x with
    | some k => of k.t.team && ((match k.ask with
        | some a => a.1 < id
        | none => false) || k.outs.any fun n => n < id)
    | none => false
  (s.cores.any fun k =>
    (k.2.unacked.any fun u => (u.owners.any fun t => of t.team) && u.id < id) ||
    (k.2.out.any fun x => (x.teams.any of || x.eng.any of) && x.id < id) ||
    busy k.2.eng0 || busy k.2.eng1) ||
  (s.host.reqs.any fun r => r.id < id && r.waiters.any fun t => of t.team) ||
  (s.home.flights.any fun f => f.ctx = c && f.id < id) ||
  ((List.range s.teams.length).flatMap fun n => if of n then s.tids n else []).any fun t => match (s.thread t).wait with
    | .answer n _ true => n < id
    | _ => false

/-- A commit with remote granules of the context, begun by a cycle, is under way: it has used the translations of the units
that it writes (25 R381, R384). -/
def oldCommits (s : State) (c til : Nat) : Bool :=
  s.fab.decisions.any fun d => (s.team (d.team % 2 ^ 31)).ctx = c && d.since ≤ til

/-- An invalidation (18 R317): the translations go; once every access that used one is acknowledged, it completes, and no TLB
holds a translation that has been filled again. `len` of its argument counts its phases. -/
def invalidation (s : State) (ev : Instr) (p : TlbEntry → Bool) : State :=
  let a := s.arg
  let c := a.ctx
  if a.len = 0 then
    if !(s.ctx c).en then s.mgmtError.finishCommand
    else ((s.dropTlbWhere p).drainCtx c).after 0 ev { a with len := 1, addr := s.cycle }
  else if a.len = 1 then
    let s := s.drainCtx c
    if s.oldStores c a.addr then s.after 1 ev a else s.after 0 ev { a with len := 2, id := s.nextId }
  else if s.oldAccesses c a.id || s.oldCommits c a.addr then s.after 1 ev a
  else (s.dropTlbWhere p).finishCommand

/-! ### Halted teams (10 R414) -/

/-- The halted team that commands 9 and 10 name: ARG[47:20] is 0 and ARG[19:0] its handle. -/
def haltedTeam (s : State) : Option Nat :=
  if s.arg.arg.extractLsb' 20 28 != 0 then none
  else ((placed 0 s.teams).find? fun k => k.2.ctx = s.arg.ctx && k.2.halted && k.2.status != .ended &&
    k.2.handle = s.arg.arg.extractLsb' 0 20).map fun k => k.1

/-- The team goes on: threads that wrote a report restart at their region entry. -/
def resumeHalted (s : State) (n : Nat) : State :=
  (s.tids n).foldl (fun s t => if (s.thread t).reported then s.restartRegion t else s)
    (s.modTeam n fun m => { m with halted := false })

/-! ### Disable (18 R323) -/

/-- A commons entry of the context is written home and removed. -/
def removeObject (s : State) (slot : Nat) : State :=
  let st := (s.cEntry slot).st
  let s := if st = 1 then s.fetchEnds slot false else if st = 0 then s else s.endEviction slot
  s.setCEntry slot { s.cEntry slot with used := false }

/-- Step 1: every team of the context ends without restart; grids stay incomplete; no node team is launched. -/
def endTeams (s : State) (c : Nat) : State :=
  let s : State := { s with grids := s.grids.map fun (g : Grid) => if g.ctx = c then { g with dead := true } else g }
  let s : State := { s with clusters := s.clusters.map fun (k : Cluster) => if k.ctx = c then { k with draining := [] } else k }
  let s := s.modCtx c fun k => { k with graph := none }
  ((placed 0 s.teams).filter fun k => k.2.ctx = c && k.2.status != .ended).foldl (fun s k => (s.discardTask k.1).endTeam k.1) s

/-- Something of the context is buffered or under way. -/
def ctxBusy (s : State) (c : Nat) : Bool :=
  (s.cores.any fun k => k.2.sb.any (s.sbOfCtx c) || k.2.wc.any (s.wcOfCtx c)) || s.oldAccesses c s.nextId

/-- Page requests of the context without a thread that waits are raised and complete as failed while it is disabled, since
commands are performed one at a time (R311, step 4 of R323); what they were made for is not written. -/
def failAsked (s : State) (c : Nat) : State :=
  let mine := fun (a : PrqArrival) => a.ctx = c && a.thr.isNone && 2 ≤ a.eng.2
  let s := (s.prqIn.filter mine).foldl serveEngine s
  let s : State := { s with prqIn := s.prqIn.filter fun a => !mine a }
  (s.prq.filter fun e => e.ctx = c && e.engines.any fun x => 2 ≤ x.2).foldl (fun s e => s.complete e false) s

/-- Step 3: every private copy of the context is written back and dropped; whether none is left that is still to be. -/
def backCtx (s : State) (c : Nat) : State × Bool :=
  let s := s.writeBackEach (fun k _ => (s.cluster k).ctx = c) false
  (s, !s.clusters.any fun (k : Cluster) => k.ctx = c && k.privs.any fun p => p.dirty)

/-- Every line in L2 is written to its memory and leaves its way, but for the private copies. DESIGN CHOICE (log entry 56): the
model's lines carry no context, so those of other contexts go with them, as lines may at any time. -/
def flushL2 (s : State) : State := s.modHome fun h => { h with l2 := h.l2.filter fun x => x.cl.isSome }

/-- Steps 3 to 5: caches, private copies, translations, objects and page requests of the context go; EN becomes 0. -/
def clearCtx (s : State) (c : Nat) : State :=
  let s := s.cores.foldl (fun s k => s.dropL1 k.1 fun x => x.ctx = c) s
  let s : State := { s with clusters := s.clusters.map fun (k : Cluster) => if k.ctx = c then { k with privs := [] } else k }
  let s := s.flushL2.dropTlbWhere fun e => e.ctx = c
  let s := (s.usedSlots.filter fun n => (s.cEntry n).ctx = c).foldl (fun s n => s.removeObject n) s
  let s := (s.prq.filter fun e => e.ctx = c).foldl (fun s e => s.complete e false) s
  let s := s.modHome fun h => { h with dirs := h.dirs.filter fun r => r.ctx != c }
  let s := s.modMgmt fun m => { m with far := m.far.filter fun f => f.user != c + 1 }
  let s : State := { s with agenda := s.agenda.filter fun d => !(d.arg.ctx = c && [.launchEntry, .graphLoad, .graphUnload].contains d.ev) }
  (s.modCtx c fun _ => Ctx.reset).writeEn c false

/-- One pass of disabling a context: its teams end and its buffers drain; once nothing is under way and its private copies are
home the rest is cleared. Whether it is disabled. -/
def disablePass (s : State) (c : Nat) : State × Bool :=
  let s := ((s.endTeams c).failAsked c).drainCtx c
  if s.ctxBusy c then (s, false)
  else match s.backCtx c with
    | (s, false) => (s, false)
    | (s, true) => (s.clearCtx c, true)

end State

open State

/-- ENABLE (R311): checks the record and sets EN. -/
def execEnable (s : State) : Host.Outcome State Fault Refusal :=
  let c := s.arg.ctx
  let r := s.contextRecord c
  .next (if !(s.ctx c).en && s.contextOk c r then ((s.writeEn c true).modCtx c fun _ => enabled r).finishCommand
    else s.mgmtError.finishCommand)

/-- INVALIDATE_ALL (R311, R317, 23 R360): every translation of the context, and the UR list. -/
def execInvalidateAll (s : State) : Host.Outcome State Fault Refusal :=
  let s : State := if s.arg.len = 0 && (s.ctx s.arg.ctx).en then s.modHost fun h => { h with ur := [] } else s
  .next (s.invalidation .invalidateAll fun e => e.ctx = s.arg.ctx)

/-- INVALIDATE_PAGE (R311, R317): the page that holds ARG[39:0] · 65,536. -/
def execInvalidatePage (s : State) : Host.Outcome State Fault Refusal :=
  .next (s.invalidation .invalidatePage fun e => e.hits s.arg.ctx ((s.arg.arg.extractLsb' 0 40).toNat * 65536))

/-- The page request that a command names. -/
def State.namedRequest (s : State) : Option PrqEntry :=
  s.prq.find? fun e => e.tag = (s.arg.arg.extractLsb' 0 9).toNat && e.ctx = s.arg.ctx

/-- REQUEST_DONE (R311, 10 R230). -/
def execRequestDone (s : State) : Host.Outcome State Fault Refusal :=
  .next (s.command fun s => s.namedRequest.map fun e => s.complete e true)

/-- REQUEST_FAILED (R311, 10 R230). -/
def execRequestFailed (s : State) : Host.Outcome State Fault Refusal :=
  .next (s.command fun s => s.namedRequest.map fun e => s.complete e false)

/-- WATCHDOG_RESTART (R324). -/
def execWatchdogRestart (s : State) : Host.Outcome State Fault Refusal :=
  .next (s.command fun s => some (s.modCtx s.arg.ctx fun k => { k with wdCount := 0 }))

/-- DISABLE (R323): ends the context's teams, drains, invalidates and clears EN. -/
def execDisable (s : State) : Host.Outcome State Fault Refusal :=
  let c := s.arg.ctx
  .next (if !(s.ctx c).en then s.mgmtError.finishCommand
    else match s.disablePass c with
      | (s', true) => s'.finishCommand
      | (s', false) => s'.after 1 .disable s'.arg)

/-- RESUME_TEAM (10 R414). -/
def execResumeTeam (s : State) : Host.Outcome State Fault Refusal :=
  .next (s.command fun s => s.haltedTeam.map fun n => s.resumeHalted n)

/-- END_TEAM (10 R414): the team ends as a wounded one would, and counts as ended for its grid. -/
def execEndTeam (s : State) : Host.Outcome State Fault Refusal :=
  .next (s.command fun s => s.haltedTeam.map fun n => (s.discardTask n).endTeam n)

/-- An undefined OP (R311): the error count. -/
def execCtxcmdInvalid (s : State) : Host.Outcome State Fault Refusal := .next s.mgmtError.finishCommand

/-- The watchdog of a context expires (R324): every resident thread takes WATCHDOG, and the count restarts. -/
def execWatchdogExpiry (s : State) : Host.Outcome State Fault Refusal :=
  let c := s.arg.ctx
  let k := s.ctx c
  .next (if !k.en || k.wdlim = 0 || k.wdCount < k.wdlim.toNat * 1000 then s
    else
      let s := s.modCtx c fun k => { k with wdCount := 0 }
      let ns := ((placed 0 s.teams).filter fun m => m.2.ctx = c && m.2.status = .resident).map fun m => m.1
      (ns.flatMap s.tids).foldl (fun s t => s.takeTrap t (Request.of .watchdog 0)) s)

/-- A store to live fields of a record takes effect (R310). -/
def execLiveFieldTakesEffect (s : State) : Host.Outcome State Fault Refusal :=
  let c := s.arg.ctx
  let r := s.contextRecord c
  .next (if (s.ctx c).en then s.modCtx c fun k => { k with
      wdlim := r.extractLsb' 64 32, quant := r.extractLsb' 32 32, halt := r.getLsbD 2, chksb := r.getLsbD 1 }
    else s)

end Sys2Proof.Machine
end

