-- ==== Sys2Proof/Machine/Ordering.lean ====
section
/-! DEFINITION. Fences, acquires and releases, the crook acquire, line control (07 R177 to R179), and the steps of the
store buffer, the write-combining buffer and the homes (11 R239, R247, 23 R369). -/

namespace Sys2Proof.Machine

namespace State

/-- A release, then what follows it (07 R177). -/
def afterRelease (s : State) (t : Tid) (scope : Nat) (k : State → Res) : Res :=
  match s.release t scope with
  | .done s => k s
  | .wait s w => .hold s w
  | .trap s r => .trap s r

/-- Where the line of a CCTL 0, 1 or 3 lies; none where no line can be held there (07 R179). -/
inductive LineAt where
  | at_ (p : Phys)
  | nowhere
  | hold (w : Wait)
  | fault (r : Request)

/-- The line that CCTL 0, 1 or 3 names (07 R179). DESIGN CHOICE (log entry 89): through a current tether an address outside
its own object names no line, whatever other object holds it. -/
def controlLine (s : State) (t : Tid) (reg : Nat) (need : Need) : State × LineAt :=
  let m := s.team t.team
  let mapped := fun (s : State) (a : DWord) => match s.translate m.core m.ctx a.toNat need with
    | (s, .fault r) => (s, LineAt.fault r)
    | (s, .ok p _) => (s, .at_ p)
  let r := (s.thread t).areg reg
  let bad := fun (s : State) (a : DWord) => (s, LineAt.fault (Request.of .accessViolation a))
  match placeOf r.val.toNat with
  | .bad => bad s r.val
  | .scratch => (s, .nowhere)
  | place =>
    if !r.sh.v then
      if place = .mapped then mapped s r.val
      else match s.objectAt m.ctx r.val.toNat 1 with
        | some (_, e) => (s, .at_ ⟨0, 0, e.back + (r.val.toNat - e.baseVa), false⟩)
        | none => (s, .nowhere)
    else match s.findEntry m.ctx r.sh.ident with
      | none => (s, .nowhere)
      | some k =>
        let e := s.cEntry k
        if e.st = 3 then (s, .hold (.object k false))
        else if e.st != 2 then (s, .nowhere)
        else
          let s : State := if (s.tetherCurrent m.ctx r).isSome then s else s.retetherReg t reg k
          let a := ((s.thread t).areg reg).val
          match placeOf a.toNat with
          | .bad => bad s a
          | .scratch => (s, .nowhere)
          | .mapped => mapped s a
          | .tether =>
            if e.baseVa ≤ a.toNat ∧ a.toNat < e.baseVa + e.size then (s, .at_ ⟨0, 0, e.back + (a.toNat - e.baseVa), false⟩)
            else (s, .nowhere)

/-- CCTL 2 on a line in memory (07 R179): 128 zero bytes as one full-line store at the home, tentative in a held fold. -/
def zeroLine (s : State) (t : Tid) (p : Phys) (leaf : Option TlbEntry) (va : DWord) : Touch :=
  let base := va &&& ~~~(127 : DWord)
  let zeros := List.replicate 128 (0 : Byte)
  match s.admitWrite t { p with pa := p.pa / 128 * 128 } leaf base 128 .store false with
  | .hold s w => .hold s w
  | .fault s r => .fault s r
  | .tentative s p => s.shadowWrite t (lineOf p.key) (bytesAt (lineOf p.key * 128) zeros) va
  | .plain s _ (some g) => .hold s (.granule g)
  | .plain s q none =>
    let line := lineOf q.key
    if 2 ≤ q.tgt then s.storeAt t q base zeros false none
    else match s.homeTurn t [t] (some (s.coreNum t)) line with
      | .hold s w => .hold s w
      | .go s => .ok (s.writeHere t line (bytesAt (line * 128) zeros))

/-- CCTL 2 (07 R179): through the scratchpad, an object or a page. -/
def zeroAt (s : State) (t : Tid) (reg : Nat) : Touch :=
  let a := ((s.thread t).areg reg).val
  match s.locate t reg a 1 Need.store with
  | (s, .hold w) => .hold s w
  | (s, .fault r) => let (s, r) := s.foldFirst t a.toNat 1 r; .fault s r
  | (s, .mem p leaf va) => s.zeroLine t p leaf va
  | (s, .scratch off) =>
    let b := off / 128 * 128
    if (s.team t.team).scratchSize < b + 128 then .fault s (Request.of .accessViolation a)
    else if s.isLent t.team b 128 then .hold s (.lent b (b + 128))
    else .ok (s.scratchWrite t.team b (List.replicate 128 0))

/-- What a victim core promotes for a context (07 R178): while it hosts a team of the context, the dirty private copies of every
cluster that has a team of the context there, ended ones too. -/
def promotes (s : State) (core ctx : Nat) (cl : Nat) (_ : PrivCopy) : Bool :=
  ((s.residents core).any fun n => (s.team n).ctx = ctx) &&
  (s.cluster cl).teams.any fun n => (s.team n).ctx = ctx && (s.team n).core = core

end State

open State

/-- FENCE: the release, then the acquire of its scope (R177). -/
def execFence (f : TF) (s : State) : Host.Outcome State Fault Refusal :=
  .next (s.perThread (.fence f) fun s t =>
    let sc := scopeOf f.p.rm
    s.afterRelease t sc fun s => .done (s.acquire t sc))

/-- ACQ (R177). -/
def execAcq (f : TF) (s : State) : Host.Outcome State Fault Refusal :=
  .next (s.perThread (.acq f) fun s t => .done (s.acquire t (scopeOf f.p.rm)))

/-- REL (R177). -/
def execRel (f : TF) (s : State) : Host.Outcome State Fault Refusal :=
  .next (s.perThread (.rel f) fun s t => s.afterRelease t (scopeOf f.p.rm) fun s => .done s)

/-- ACQR: asks the victim core, then acquires at device scope (R178). -/
def execAcqr (f : TF) (s : State) : Host.Outcome State Fault Refusal :=
  .next (s.perThread (.acqr f) fun s t =>
    let v := (s.opB t f).toNat
    if 1536 ≤ v then s.fail .accessViolation (BitVec.ofNat 64 v)
    else if (s.thread t).reply = .done then .done (s.acquire t 4)
    else .hold (s.soon 4096 .acqrRequest { t.arg with core := v }) (.acqr v))

/-- ACQR_REQUEST: the victim promotes the team-scope releases of the asking context: the dirty private copies of its clusters
on the core are written home, and it answers (R178), once no claim stands in the way of a copy (25 R381). DESIGN CHOICE (log
entry 90): where a copy-on-write unit of such a copy cannot be copied, the asking thread takes the page request. -/
def execAcqrRequest (s : State) : Host.Outcome State Fault Refusal :=
  .next (
    let t := s.arg.tid
    if (s.thread t).wait != .acqr s.arg.core then s
    else
      match s.writeBackAll (s.promotes s.arg.core (s.team t.team).ctx) true with
      | (s, .fault r) => s.takeTrap t r
      | (s, .claimed _) => s.soon 4096 .acqrRequest s.arg
      | (s, .busy cl l) => (s.askBack cl (.busy cl l)).soon 4096 .acqrRequest s.arg
      | (s, .ok) => s.modThread t fun x => { x with reply := .done })

/-- CCTL: writes back, drops, zeroes or discards a line (R179). -/
def execCctl (f : IF) (s : State) : Host.Outcome State Fault Refusal :=
  .next (s.perThread (.cctl f) fun s t =>
    let m := s.team t.team
    let reg := f.a.toNat
    if f.imm = 2 then stored (s.zeroAt t reg)
    else match s.controlLine t reg (if f.imm = 3 then ⟨true, true, false, .store⟩ else Need.load) with
      | (s, .fault r) => .trap s r
      | (s, .hold w) => .hold s w
      | (s, .nowhere) => .done s
      | (s, .at_ p) =>
        if 2 ≤ p.tgt then .done s
        else
          let line := lineOf p.key
          if f.imm = 0 then
            match s.writeBackAll (fun cl q => cl = m.cluster && q.line = line) true with
            | (s, .fault r) => .trap s r
            | (s, .claimed g) => .hold s (.granule g)
            | (s, .busy cl l) => .hold (s.refuse (.slice cl) m.core l t.arg) (.refused l)
            | (s, .ok) => .done s
          else if f.imm = 1 then .done (s.dropL1 m.core fun x => x.line = line && x.ctx = m.ctx)
          else .done (s.privDrop m.cluster line))

/-- STORE_BUFFER_DRAIN: an entry drains 64 cycles after its first store, or once what held it may be over (11 R239). -/
def execStoreBufferDrain (s : State) : Host.Outcome State Fault Refusal :=
  .next (s.drainWhere s.arg.core fun e => e.line = s.arg.addr && (s.arg.ok || e.since + 64 ≤ s.cycle))

/-- WRITE_ACK: a home or cluster slice acknowledges a write (R177, 12 R251). -/
def execWriteAck (s : State) : Host.Outcome State Fault Refusal :=
  .next (s.modCore s.arg.core fun k => { k with unacked := k.unacked.filter fun u => u.id != s.arg.id })

/-- HOME_RETRY: a refused request is made again after its back-off (11 R247): an engine's, a store buffer's, a thread's; one
of a slice by the step that needs it. -/
def execHomeRetry (s : State) : Host.Outcome State Fault Refusal :=
  .next (match s.arg.nums with
    | [e] => s.after 1 .copyCompletion { core := s.arg.core, id := e }
    | [] =>
      if s.arg.ok then s.drainWhere s.arg.core fun e => e.line = s.arg.addr
      else if (s.thread s.arg.tid).wait = .refused s.arg.addr then s.modThread s.arg.tid fun x => { x with wait := .none }
      else s
    | _ => s)

/-- WC_DRAIN: a write-combining entry drains 2 µs after its first store, or once the table has room (23 R369). -/
def execWcDrain (s : State) : Host.Outcome State Fault Refusal :=
  .next (
    let c := s.arg.core
    let due := fun (e : WcEntry) => e.line = s.arg.addr && e.since + 2 * usCycles ≤ s.cycle
    let s' := s.wcDrain c due
    if (s'.core c).wc.any due then s'.soon 64 .wcDrain s.arg else s')

end Sys2Proof.Machine
end

