-- ==== Sys2Proof/Machine/Records.lean ====
section
/-! DEFINITION. Reading a descriptor, record or card through an address register (08 R413), the order in which the
threads of a bundle act on an object of their team (R181), and PHINT with its liveness records (05 R122, 19 R331). -/

namespace Sys2Proof.Machine

namespace State

/-- The thread has still to act at the bundle under execution (08 R181): it waits there and has not done its part. -/
def toAct (s : State) (t : Tid) : Bool := (s.thread t).present && (s.thread t).pc = s.cur.pc && (s.thread t).wait.acts

/-- One thread's share where `late` are the threads of the bundle before it that have still to act, the last first: it waits for
its turn, unless it has done its part already (08 R181). -/
def shareTurn (i : Instr) (body : State → Tid → Res) (late : List Tid) (s : State) (t : Tid) : State :=
  match late.find? fun u => u.team = t.team with
  | some u => share i false (if (s.thread t).wait = .none || (s.thread t).wait.acts then fun s _ => .hold s (.turn u) else body) s t
  | none => share i false body s t

/-- The shares of threads in their order. -/
def inTurns (i : Instr) (body : State → Tid → Res) : List Tid → List Tid → State → State
  | _, [], s => s
  | late, t :: ts, s =>
    let s := shareTurn i body late s t
    inTurns i body (if s.toAct t then t :: late else late) ts s

/-- A per-thread bundle whose threads act on an object of their team one at a time, in order of group and thread index: one
that waits before it has acted keeps those after it waiting (08 R181). -/
def perIndex (s : State) (i : Instr) (body : State → Tid → Res) : State :=
  inTurns i body [] (sortBy (fun (t : Tid) => (t.team * 64 + t.grp) * 64 + t.thr) s.cur.threads) s

/-- The `n` bytes at a location in host or peer memory, from a line its bundle has read; the line is asked for where it
has not been (23 R358, R368). -/
def farPiece (s : State) (t : Tid) (p : Phys) (va : DWord) (n : Nat) : MemRes :=
  let line := lineOf p.key
  let have? := (s.thread t).got.find? fun g => g.1 = line
  match have? with
  | some g => .ok s ((List.range n).map fun i => lineByte g.2 (p.key % 128 + i))
  | none =>
    match (s.thread t).reply with
    | .data x =>
      let at_ := (s.thread t).sent.elim line fun y => lineOf (sentTo y).key
      let s := s.modThread t fun y => { y with got := y.got ++ [(at_, x)], reply := .none, sent := none }
      if at_ = line then .ok s ((List.range n).map fun i => lineByte x (p.key % 128 + i))
      else s.loadFar t [t] { p with pa := p.pa / 128 * 128 } 128 va
    | .failed c => .fault s (Request.of c ((s.thread t).sent.elim va fun y => y.va))
    | _ => s.loadFar t [t] { p with pa := p.pa / 128 * 128 } 128 va

/-- Reads bytes of a descriptor, record or card where it lies: a group page takes no read (23 R371); then the late causes of
07 R158; a granule that another task commits holds it (12 R257). -/
def readAt (s : State) (t : Tid) (p : Phys) (va : DWord) (n : Nat) : MemRes :=
  if groupPage p then .fault s (Request.of .accessViolation va)
  else match s.lateFault p va true with
    | some r => .fault s r
    | none =>
      if 2 ≤ p.tgt then s.farPiece t p va n
      else if s.committingFor t p.key then .hold s (.committing (granOf p.key))
      else let (s, b) := s.loadBytes t [t] p.key n false false; .ok s b

/-- Reads 8 or 16 bytes of a descriptor: the causes of a load, no fold touch (08 R413). -/
def readPieceOf (s : State) (t : Tid) (reg : Nat) (a : DWord) (n : Nat) : MemRes :=
  match s.locate t reg a n Need.load with
  | (s, .hold w) => .hold s w
  | (s, .fault r) => .fault s r
  | (s, .scratch off) => .ok s ((s.team t.team).scratch.bytes off n)
  | (s, .mem p _ va) => s.readAt t p va n

/-- Reads 16 bytes of a descriptor. -/
def readPiece (s : State) (t : Tid) (reg : Nat) (a : DWord) : MemRes := s.readPieceOf t reg a 16

/-- Reads `n` pieces of 16 bytes from an offset above the register's address on; a re-tether moves them all. -/
def readPieces (s : State) (t : Tid) (reg : Nat) : Nat → Nat → MemRes
  | _, 0 => .ok s []
  | off, n + 1 =>
    match s.readPiece t reg (((s.thread t).areg reg).val + BitVec.ofNat 64 off) with
    | .ok s b => match s.readPieces t reg (off + 16) n with
      | .ok s c => .ok s (b ++ c)
      | r => r
    | r => r

/-- Reads `n` pieces at a plain address (08 R413: JDECL's card at SIGN, R195). -/
def readPlain (s : State) (t : Tid) (a : DWord) : Nat → MemRes
  | 0 => .ok s []
  | n + 1 =>
    match s.readPiece t 0 a with
    | .ok s b => match s.readPlain t (a + 16) n with
      | .ok s c => .ok s (b ++ c)
      | r => r
    | r => r

/-- A read that must succeed before its bundle goes on. -/
def whenRead (r : MemRes) (k : State → List Byte → Res) : Res := match r with
  | .ok s b => k s b
  | .hold s w => .hold s w
  | .fault s r => .trap s r

/-- A liveness record that a PHINT can use (19 R331). -/
def recordOk (r : BitVec 512) : Bool :=
  r.extractLsb' 216 40 == 0 && (List.range 4).all fun j =>
    (r.extractLsb' (256 + 64 * j) 32).toNat + (r.extractLsb' (288 + 64 * j) 32).toNat ≤ 2097152

/-- Reads a word of a liveness record where it lies, from memory itself (05 R122, 19 R331). -/
def recordWord (s : State) (t : Tid) (p : Phys) (a : DWord) : MemRes :=
  if groupPage p then .fault s (Request.of .accessViolation a)
  else match s.lateFault p a true with
    | some r => .fault s r
    | none =>
      if 2 ≤ p.tgt then s.farPiece t p a 4
      else if s.committingFor t p.key then .hold s (.committing (granOf p.key))
      else .ok s (s.mem.bytes p.key 4)

/-- Reads `n` words of a liveness record at a plain address, in whatever memory it lies (05 R122, 19 R331). -/
def readRecord (s : State) (t : Tid) (a : DWord) : Nat → MemRes
  | 0 => .ok s []
  | n + 1 =>
    let m := s.team t.team
    match s.plainPhys m.core m.ctx a.toNat 4 Need.load with
    | (s, .fault r) => .fault s r
    | (s, .ok p _) => match s.recordWord t p a with
      | .ok s b => match s.readRecord t (a + 4) n with
        | .ok s c => .ok s (b ++ c)
        | r => r
      | r => r

/-- The team's save is a full one (05 R122): threads that have stopped at a PHINT are saved whole. -/
def saveFully (s : State) (n : Nat) : State :=
  let whole := fun (x : Thread) => match x.stop with
    | some (.phint _) => { x with stop := some .full }
    | _ => x
  s.modTeam n fun m => { m with fullSave := true, groups := m.groups.map fun g => { g with threads := g.threads.map whole } }

end State

open State

/-- PHINT: under a pre-emption request the thread stops after it, with its record, or fully where the record fails (R122, 19
R329, R331). A record that a translation or access fault keeps from being read gives the team a full save (R122). DEDUCED (log
entry 74): the records of its other threads are then of no use. -/
def execPhint (f : LF) (s : State) : Host.Outcome State Fault Refusal :=
  .next (s.perThread (.phint f) fun s t =>
    if (s.team t.team).request.isNone then .done s
    else
      let stopAt := fun (s : State) (stop : Stop) =>
        let s := s.retire t s.cur.next false
        Res.away ((s.modThread t fun x => { x with stop := some stop }).lookSave t.team)
      match s.readRecord t ((s.team t.team).entry - BitVec.ofNat 64 (64 * (f.imm.toNat + 1))) 16 with
      | .hold s w => .hold s w
      | .fault s r => stopAt (if r.cause = .translation || r.cause = .accessViolation then s.saveFully t.team else s) .full
      | .ok s b =>
        let r := BitVec.ofNat 512 (leNat b)
        stopAt s (if recordOk r && !(s.team t.team).fullSave then .phint r else .full))

end Sys2Proof.Machine
end

