-- ==== Sys2Proof/Machine/Sync.lean ====
section
/-! DEFINITION. Folds, the end of a task, AGE, named barriers, gates and EMIT (08 R182 to R192, R207). -/

namespace Sys2Proof.Machine

/-! ### Folds (08 R182, R183) -/

/-- The ranges of a fold descriptor after its header. -/
def foldRanges : Nat → List Byte → List FoldRange
  | 0, _ => []
  | n + 1, b => ⟨BitVec.ofNat 64 (leNat (b.take 8)), BitVec.ofNat 32 (leNat ((b.drop 8).take 4))⟩ :: foldRanges n (b.drop 16)

/-- A range entry breaks a rule of R183: a reserved bit, length 0, or an end beyond the address space. -/
def badRange (b : List Byte) : Bool :=
  let base := leNat (b.take 8)
  let len := leNat ((b.drop 8).take 4)
  leNat ((b.drop 12).take 4) != 0 || len = 0 || 2 ^ 64 < base + len

/-- Pieces of 16 bytes. -/
def pieces : Nat → List Byte → List (List Byte)
  | 0, _ => []
  | n + 1, b => b.take 16 :: pieces n (b.drop 16)

/-- The range reaches the scratchpad window (08 R183). -/
def FoldRange.scratch (r : FoldRange) : Bool := r.meets windowBase (2 ^ 48)

/-! ### Gates (08 R191) -/

/-- A gate word of its fields. -/
def gateOf (phase brk : Bool) (earr aarr ebytes abytes : Nat) : Quad :=
  BitVec.ofNat 128 (fields [(127, phase.toNat), (126, brk.toNat), (107, earr), (88, aarr), (44, ebytes), (0, abytes)])

/-- An update of a gate: bytes and perhaps an arrival, or expected bytes (08 R191). -/
def gateUpdate (g : Quad) (bytes expect : Nat) (arrives : Bool) : Quad :=
  if gateBrk g then g
  else
    let a := gateAbytes g + bytes
    let e := gateEbytes g + expect
    if 2 ^ 44 - 1 < a || 2 ^ 44 - 1 < e then
      gateOf (gatePhase g) true (gateEarr g) (gateAarr g) (e % 2 ^ 44) (a % 2 ^ 44)
    else if arrives then
      let n := gateAarr g + 1
      if n = gateEarr g then
        if a = e then gateOf (!gatePhase g) false (gateEarr g) 0 0 0
        else gateOf (gatePhase g) true (gateEarr g) n e a
      else gateOf (gatePhase g) false (gateEarr g) n e a
    else gateOf (gatePhase g) false (gateEarr g) (gateAarr g) e a

namespace State

/-- Writes a gate word (08 R191). -/
def setGate (s : State) (n off : Nat) (g : Quad) : State := s.scratchWrite n off (leBytes 16 g.toNat)

/-- The offset of a gate that a thread names: its traps, a wait while it is lent, or its use (08 R192, R199). -/
def atGate (s : State) (t : Tid) (f : TF) (writes : Bool) (k : Nat → DWord → Res) : Res :=
  let off := (s.opA t f).toNat
  let va := BitVec.ofNat 64 (windowBase + off)
  if off % 16 != 0 then s.fail .misaligned va
  else if (s.team t.team).scratchSize < off + 16 then s.fail .accessViolation va
  else if writes && s.isLent t.team off 16 then .hold s (.lent off (off + 16))
  else k off va

/-- A gate joins the team's gate table of 64 offsets (19 R332). -/
def noteGate (s : State) (n off : Nat) : State :=
  s.modTeam n fun m =>
    if m.gates.contains off then m
    else if m.gates.length < 64 then { m with gates := m.gates ++ [off] }
    else { m with gatesFull := true }

/-! ### Barriers (08 R190) -/

/-- A named barrier of a team. -/
def barrier (s : State) (n b : Nat) : Barrier := nthD ⟨false, 0, 0, 0⟩ (s.team n).barriers b

/-- One arrival counted by a barrier. -/
def count (x : Barrier) : Barrier :=
  if x.arrived + 1 = x.expect then { x with phase := !x.phase, turns := x.turns + 1, arrived := 0 } else { x with arrived := x.arrived + 1 }

/-- A barrier with another number of expected arrivals. -/
def expecting (n : Nat) (x : Barrier) : Barrier := { x with expect := BitVec.ofNat 12 n }

/-- One arrival at a barrier. -/
def arrive (s : State) (n b : Nat) : State :=
  s.modTeam n fun m => { m with barriers := modAt count b m.barriers }

end State

open State

/-- FOLD: declares a fold (R183); the whole descriptor is read before it is judged (R413). -/
def execFold (f : IF) (s : State) : Host.Outcome State Fault Refusal :=
  .next (s.perIndex (.fold f) fun s t =>
    let slot := f.imm.toNat
    let reg := f.a.toNat
    let p := ((s.thread t).areg reg).val
    if p.extractLsb' 0 4 != 0 then s.fail .misaligned p
    else if (s.team t.team).taskEnded then s.fail .foldMisuse p
    else whenRead (s.readPieces t reg 0 1) fun s h =>
      let n := leNat (h.take 1)
      whenRead (s.readPieces t reg 16 n) fun s b =>
        let p := ((s.thread t).areg reg).val
        let m := s.team t.team
        let rs := foldRanges n b
        if n = 0 || 8 < n || leNat (h.drop 1) != 0 || (pieces n b).any badRange then s.fail .descInvalid p
        else if rs.any FoldRange.scratch then s.fail .foldMisuse p
        else match assoc m.folds slot with
          | some x => if x.desc = p then .done s else s.fail .foldMisuse p
          | none => match s.foldGrans m.core m.ctx rs with
            | (s, .bad r) => .trap s r
            | (s, .ok gs) =>
              let gs := sortBy id (distinct gs)
              if 65536 < (distinct (gs ++ m.folds.flatMap fun x => x.2.grans)).length then s.fail .foldMisuse p
              else .done (s.modTeam t.team fun m => { m with folds := assocSet m.folds slot ⟨p, rs, .untouched, gs⟩ }))

/-- UNFOLD: clears an untouched slot (R183). -/
def execUnfold (f : IF) (s : State) : Host.Outcome State Fault Refusal :=
  .next (s.perIndex (.unfold f) fun s t =>
    match assoc (s.team t.team).folds f.imm.toNat with
    | none => .done s
    | some x =>
      if x.st = .untouched then
        .done (s.modTeam t.team fun m => { m with folds := m.folds.filter fun p => p.1 != f.imm.toNat })
      else s.fail .foldMisuse x.desc)

/-- TASKEND: arrives at the end of the task; the last arrival commits (R186). -/
def execTaskend (f : TF) (s : State) : Host.Outcome State Fault Refusal :=
  .next (s.perIndex (.taskend f) fun s t =>
    if (s.team t.team).taskEnded then .done s
    else s.afterRelease t 6 fun s =>
      if s.othersArrived t then match s.endTask t.team with
        | (s, .fault r) => .trap s r
        | (s, .busy line) => .hold (s.refuse (.commit t.team) (s.coreNum t) line t.arg) (.refused line)
        | (s, .ok) => if (s.team t.team).taskEnded then .done s else .hold s .taskEnd
      else .hold s .taskEnd)

/-- AGE: the team's stamp into a uniform pair (R188). -/
def execAge (f : TF) (s : State) : Host.Outcome State Fault Refusal :=
  .next (s.converge (.age f) fun s n g ts =>
    let a := (s.team n).age
    .done ((s.uniResult n g ts f.d.toNat (a.extractLsb' 0 32) 4).uniResult n g ts (f.d.toNat + 1) (a.extractLsb' 32 32) 4))

/-- BARA: arrives and continues (R190). -/
def execBara (f : IF) (s : State) : Host.Outcome State Fault Refusal :=
  .next (s.perIndex (.bara f) fun s t => s.afterRelease t 2 fun s => .done (s.arrive t.team f.imm.toNat))

/-- BARW: arrives and waits for its phase, then acquires (R190). -/
def execBarw (f : IF) (s : State) : Host.Outcome State Fault Refusal :=
  .next (s.perIndex (.barw f) fun s t =>
    let n := f.imm.toNat
    match (s.thread t).wait with
    | .barrier _ ph => if (s.barrier t.team n).turns = ph then .hold s (.barrier n ph) else .done (s.acquire t 2)
    | _ => s.afterRelease t 2 fun s =>
      let ph := (s.barrier t.team n).turns
      let s := s.arrive t.team n
      if (s.barrier t.team n).turns = ph then .hold s (.barrier n ph) else .done (s.acquire t 2))

/-- BARS: sets a barrier's expected arrivals (R190). -/
def execBars (f : IF) (s : State) : Host.Outcome State Fault Refusal :=
  .next (s.converge (.bars f) fun s n g _ =>
    let x := ((s.group n g).sreg f.a.toNat).toNat
    let b := f.imm.toNat
    if x = 0 || 2048 < x || (s.barrier n b).arrived != 0 then .trap s (Request.of .gateMisuse (BitVec.ofNat 64 b))
    else .done (s.modTeam n fun m => { m with barriers := modAt (expecting x) b m.barriers }))

/-- GINIT: initialises a gate (R192). -/
def execGinit (f : TF) (s : State) : Host.Outcome State Fault Refusal :=
  .next (s.perIndex (.ginit f) fun s t => s.atGate t f true fun off va =>
    let b := (s.opB t f).toNat
    if b = 0 || 2 ^ 19 ≤ b then s.fail .gateMisuse va
    else .done ((s.setGate t.team off (gateOf false false b 0 0 0)).noteGate t.team off))

/-- GEXP: adds expected bytes (R192). -/
def execGexp (f : TF) (s : State) : Host.Outcome State Fault Refusal :=
  .next (s.perIndex (.gexp f) fun s t => s.atGate t f true fun off _ =>
    .done (s.setGate t.team off (gateUpdate (s.gateWord t.team off) 0 (s.opB t f).toNat false)))

/-- GARR: a team-scope release, then an arrival with bytes (R192). -/
def execGarr (f : TF) (s : State) : Host.Outcome State Fault Refusal :=
  .next (s.perIndex (.garr f) fun s t => s.atGate t f true fun off _ => s.afterRelease t 2 fun s =>
    .done (s.setGate t.team off (gateUpdate (s.gateWord t.team off) (s.opB t f).toNat 0 true)))

/-- GWAIT: waits until the phase differs from B[0], then acquires (R192). -/
def execGwait (f : TF) (s : State) : Host.Outcome State Fault Refusal :=
  .next (s.perIndex (.gwait f) fun s t => s.atGate t f false fun off va =>
    let g := s.gateWord t.team off
    let ph := (s.opB t f).getLsbD 0
    if gatePhase g != ph then .done (s.acquire t 2)
    else if gateBrk g then s.fail .gateMisuse va
    else .hold s (.gate off ph))

/-- GTEST: tests the phase without waiting (R192). -/
def execGtest (f : TF) (s : State) : Host.Outcome State Fault Refusal :=
  .next (s.perIndex (.gtest f) fun s t => s.atGate t f false fun off va =>
    let g := s.gateWord t.team off
    if gatePhase g != (s.opB t f).getLsbD 0 then
      let s := s.acquire t 2
      .done (s.landLater t [t.thr] [s.vdst t f.d.toNat 1])
    else if gateBrk g then s.fail .gateMisuse va
    else .done (s.landLater t [t.thr] [s.vdst t f.d.toNat 0]))

/-- EMIT: a record for a node's bin, held until the task's commit (R207, 17 R305). -/
def execEmit (f : TF) (s : State) : Host.Outcome State Fault Refusal :=
  .next (s.perIndex (.emit f) fun s t =>
    let reg := f.a.toNat
    let p := ((s.thread t).areg reg).val
    let n := (s.opB t f).toNat
    let m := s.team t.team
    if p.extractLsb' 0 4 != 0 then s.fail .misaligned p
    else match s.node? m.ctx n with
      | none => s.fail .descInvalid (BitVec.ofNat 64 n)
      | some k => whenRead (s.readPieces t reg 0 (nodeRsize k.desc / 16)) fun s b =>
        if !binRoom k || (!m.taskEnded && 1024 ≤ m.emits.length) then s.fail .emitOverflow (BitVec.ofNat 64 n)
        else if m.taskEnded then .done (s.enterBin m.ctx n m.core b)
        else .done ((s.modNode m.ctx n fun k => { k with reserved := k.reserved + 1 }).modTeam t.team fun m =>
          { m with emits := m.emits ++ [⟨n, b⟩] }))

end Sys2Proof.Machine
end

