-- ==== Sys2Proof/Machine/Copies.lean ====
section
/-! DEFINITION. The copy engines (08 R193 to R196, 13 R276, R277): issuing a copy, an engine's reads and writes of plain
addresses, the walk, and the end of a copy. -/

namespace Sys2Proof.Machine

/-! ### The descriptor (08 R193, R194) -/

def headSrc (h : BitVec 256) : Nat := (h.extractLsb' 0 64).toNat
def headDst (h : BitVec 256) : Nat := (h.extractLsb' 64 64).toNat
def headIndex (h : BitVec 256) : Nat := (h.extractLsb' 128 64).toNat
def headNdim (h : BitVec 256) : Nat := (h.extractLsb' 192 4).toNat
def headEsize (h : BitVec 256) : Nat := (h.extractLsb' 196 5).toNat
def headCvt (h : BitVec 256) : Bool := h.getLsbD 201
def headSfmt (h : BitVec 256) : Nat := (h.extractLsb' 202 4).toNat
def headDfmt (h : BitVec 256) : Nat := (h.extractLsb' 206 4).toNat
def dimCount (d : BitVec 192) : Nat := (d.extractLsb' 0 32).toNat
def dimSrc (d : BitVec 192) : Int := (d.extractLsb' 64 64).toInt
def dimDst (d : BitVec 192) : Int := (d.extractLsb' 128 64).toInt

/-- Bits of an element of a format code 0x0 to 0x5 or 0x7 to 0xC (02 R26). -/
def formatBits (f : Nat) : Nat := if f ≤ 5 then (fmtOf f).bits else (intFmt f).1

/-- An integer format code (02 R26). -/
def isInt (f : Nat) : Bool := 7 ≤ f && f ≤ 12

/-- The format of the destination's elements. -/
def destFmt (h : BitVec 256) : Nat := if headCvt h then headDfmt h else headSfmt h

/-- The destination is packed nibbles (08 R194). -/
def nibbles (h : BitVec 256) : Bool := headCvt h && headDfmt h = 5

/-- Bytes of a destination element; a nibble counts as half of one. -/
def destSize (h : BitVec 256) : Nat := if headCvt h then formatBits (headDfmt h) / 8 else headEsize h

/-- The header breaks a rule that its dimensions do not bear on. -/
def badHead (h : BitVec 256) : Bool :=
  headNdim h = 0 || 12 < headNdim h || headEsize h = 0 || 16 < headEsize h || h.extractLsb' 210 46 != 0

/-- The conversion breaks a rule of R194. -/
def badConvert (kind : CopyKind) (h : BitVec 256) (dims : List (BitVec 192)) : Bool :=
  let sf := headSfmt h
  let df := headDfmt h
  let reduce := decide (kind = .reduce)
  if headCvt h || reduce then
    !(sf ≤ 4 || isInt sf) || !(df ≤ 5 || isInt df) || (reduce && df = 5) || headEsize h * 8 != formatBits sf ||
    (isInt sf && isInt df && !(reduce && sf = df)) ||
    headSrc h % headEsize h != 0 || dims.any (fun d => dimSrc d % (headEsize h : Int) != 0) ||
    (!nibbles h && (headDst h % destSize h != 0 || dims.any (fun d => dimDst d % (destSize h : Int) != 0)))
  else false

/-- The lowest and highest address that counters and strides reach. -/
def extent (base : Nat) (dims : List (BitVec 192)) (stride : BitVec 192 → Int) : Int × Int :=
  dims.foldl (fun x d =>
    let far := stride d * ((dimCount d : Int) - 1)
    (x.1 + min 0 far, x.2 + max 0 far)) ((base : Int), (base : Int))

/-- Elements of the walk. -/
def elements (dims : List (BitVec 192)) : Nat := dims.foldl (fun n d => n * dimCount d) 1

/-- The byte extents intersect (08 R194). DESIGN CHOICE (log entry 91): INDEX does not move the extents of CPYG and CPYS. -/
def overlaps (h : BitVec 256) (dims : List (BitVec 192)) : Bool :=
  let s := extent (headSrc h) dims dimSrc
  let d := extent (headDst h) dims dimDst
  let d := if nibbles h then (d.1 / 2, d.2 / 2) else (d.1, d.2 + (destSize h : Int) - 1)
  elements dims != 0 && s.1 ≤ d.2 && d.1 ≤ s.2 + (headEsize h : Int) - 1

/-- Dimension entries of their bytes. -/
def readDims : Nat → List Byte → List (BitVec 192)
  | 0, _ => []
  | n + 1, b => BitVec.ofNat 192 (leNat (b.take 24)) :: readDims n (b.drop 24)

/-! ### Values (08 R195) -/

/-- A converting copy's element (02 R35, R36, sat clear). -/
def convertElement (m : Modes) (src dst x : Nat) : Nat :=
  if isInt src then if isInt dst then x else convertInt m false dst src x
  else if isInt dst then (convertToInt m dst src x).toNat % 2 ^ (intFmt dst).1
  else convert m false dst src x

/-- The sum that CPYR stores: integers wrap, floating sums round without flushing. -/
def addElement (fmt rm old x : Nat) : Nat :=
  if isInt fmt then (old + x) % 2 ^ (intFmt fmt).1
  else
    let m := Modes.plain rm
    encodeF m false fmt (addF rm (decodeF m fmt old) (decodeF m fmt x))

/-- The rounding mode of a copy: its snapshot (01 R22). -/
def Copy.modes (k : Copy) : Modes := Modes.of k.fpcr k.rm

/-- The counters of element `p`, the innermost first. -/
def counters : Nat → List (BitVec 192) → List Nat
  | _, [] => []
  | p, d :: l => p % dimCount d :: counters (p / dimCount d) l

/-- An address modulo 2^64. -/
def wrap64 (x : Int) : Nat := (x % 2 ^ 64).toNat

/-- The address of an element, its outermost counter replaced where `top` is given. -/
def elementAt (base : Nat) (stride : BitVec 192 → Int) : List (BitVec 192) → List Nat → Option Nat → Int
  | [], _, _ => base
  | [d], is, top => (base : Int) + ((top.getD (is.headD 0) : Nat) : Int) * stride d
  | d :: l, is, top => ((is.headD 0 : Nat) : Int) * stride d + elementAt base stride l is.tail top

/-- Pieces of an access that lie in one line each. -/
def linePieces (va n : Nat) : List (Nat × Nat) :=
  let k := min n (128 - va % 128)
  if k = n then [(va, n)] else [(va, k), ((va + k) % 2 ^ 64, n - k)]

/-- What an engine's access comes to: bytes; a wait; an answer that is awaited; a page request; a fault that ends the copy,
and whether it has been logged. -/
inductive EngRes where
  | ok (s : State) (b : List Byte)
  | wait (s : State)
  | asked (s : State)
  | page (s : State) (r : Request)
  | bad (s : State) (r : Request) (logged : Bool)

/-- Where an engine's access leads. -/
inductive EngLoc where
  | scratch (off : Nat)
  | mem (p : Phys) (leaf : Option TlbEntry)
  | page (r : Request)
  | bad (r : Request) (logged : Bool)

namespace State

/-- Where a plain address leads for an engine of a team's core (11 R235, 18 R312); no read accepts a group page (23 R371). A walk
that meets a malformed table has its entry in the fault log, its own or that of the walk it has merged into (18 R320). A write
is applied to a poisoned line, one that merges or adds too (27 R400). -/
def engineLocate (s : State) (n va len : Nat) (need : Need) : State × EngLoc :=
  let m := s.team n
  match placeOf va with
  | .scratch =>
    let off := va - windowBase
    if off + len ≤ 0x200000 ∧ off + len ≤ m.scratchSize then (s, .scratch off)
    else (s, .bad (Request.of .accessViolation (BitVec.ofNat 64 va)) false)
  | place =>
    let walks := (s.cached m.core m.ctx va).isNone
    match s.plainPhys m.core m.ctx va len need with
    | (s, .fault r) => (s, if r.cause = .translation then .page r
        else .bad r (walks && (s.ctx m.ctx).walks.contains (va / 65536, s.cycle, dieOf m.core)))
    | (s, .ok p e) =>
      if groupPage p && need.r && !need.w then (s, .bad (Request.of .accessViolation (BitVec.ofNat 64 va)) false)
      else match s.lateFault p (BitVec.ofNat 64 va) (need.r && !need.w) with
        | some r => (s, .bad r false)
        | none => (s, .mem p (if place = .mapped then some e else none))

/-- The token of an engine in the list of turns at a locked host line; no thread has it. -/
def engineTurn (k : Copy) (e : Nat) : Tid := ⟨k.t.team, 32 + e, 0⟩

/-- The engine awaits an answer. -/
def engineAsks (s : State) (c e id key len : Nat) : State := s.modEngine c e fun k => { k with ask := some (id, key, len) }

/-- An engine asks for bytes of host or peer memory. -/
def engineAsk (s : State) (c e : Nat) (k : Copy) (p : Phys) (va len : Nat) : EngRes :=
  if p.tgt = 2 then
    if s.hostLocked (engineTurn k e) (lineOf p.key) || 2048 ≤ s.host.reqs.length then .wait s
    else
      let (s, id) := s.hostRequest [] p.pa len none 0 0 false
      .asked (s.engineAsks c e id p.key len)
  else if !s.tableRoom c then .wait s
  else
    let (s, id) := s.openTxn c (lineOf p.key) [] [] (BitVec.ofNat 64 va) false false (some k.t.team)
    .asked ((s.sendBy k.t.team (.read p.peer p.pa len)).engineAsks c e id p.key len)

/-- Bytes of device or pool memory as the issue's team-scope release has left them: the private copy of the issuing cluster,
otherwise the home (12 R251, R259). -/
def engineBytes (s : State) (c : Nat) (k : Copy) (p : Phys) (len : Nat) : State × List Byte :=
  match s.priv? (s.team k.t.team).cluster (lineOf p.key) with
  | some q => (s, (List.range len).map fun i => lineByte q.data (p.key % 128 + i))
  | none => (s.touchHome c (lineOf p.key) false, s.mem.bytes p.key len)

/-- An engine's read of a piece: the scratchpad, memory, or an answer (12 R257, R259). -/
def enginePiece (s : State) (c e va len : Nat) : EngRes :=
  match s.engine c e with
  | none => .wait s
  | some k => match s.engineLocate k.t.team va len Need.engineRead with
    | (s, .page r) => .page s r
    | (s, .bad r l) => .bad s r l
    | (s, .scratch off) => .ok s ((s.team k.t.team).scratch.bytes off len)
    | (s, .mem p _) =>
      if p.tgt ≤ 1 then
        if (s.claimOf (granOf p.key)).any fun x => x.committing then .wait s
        else let (s, b) := s.engineBytes c k p len; .ok s b
      else
        let have_ := ((List.range len).map fun i => p.key + i).map fun a => k.got.find? fun b => b.1 = a
        if have_.all fun b => b.isSome then .ok s (have_.filterMap fun b => b.map fun b => b.2)
        else match k.bad with
          | some x => .bad s (Request.of x (BitVec.ofNat 64 va)) false
          | none => s.engineAsk c e k p va len

/-- An engine's read, piece by piece. -/
def engineRead (s : State) (c e : Nat) : List (Nat × Nat) → EngRes
  | [] => .ok s []
  | (va, n) :: l => match s.enginePiece c e va n with
    | .ok s b => match s.engineRead c e l with
      | .ok s b' => .ok s (b ++ b')
      | r => r
    | r => r

/-- The place an engine writes, once nothing holds it. -/
inductive EngPlace where
  | at_ (s : State) (l : EngLoc)
  | wait (s : State)
  | page (s : State) (r : Request)
  | bad (s : State) (r : Request) (logged : Bool)

/-- The place of a write of a piece: lent bytes, granules that tasks hold here or at a peer, and locked lines wait (08 R185,
R199, 12 R269); the unit of a copy-on-write leaf is copied first (25 R379); the home is asked (11 R241, R247). -/
def enginePlace (s : State) (c e : Nat) (k : Copy) (va len : Nat) (need : Need) : EngPlace :=
  match s.engineLocate k.t.team va len need with
  | (s, .page r) => .page s r
  | (s, .bad r l) => .bad s r l
  | (s, .scratch off) => if s.isLent k.t.team off len then .wait s else .at_ s (.scratch off)
  | (s, .mem p leaf) =>
    let copied := match leaf with
      | some x => s.cowBefore (s.team k.t.team).ctx va x .engineWrite false
      | none => (s, .ok p)
    match copied with
    | (s, .fault r) => .page s r
    | (s, .claimed _) => .wait s
    | (s, .ok p) =>
      if (s.claimOf (granOf p.key)).isSome then .wait s
      else if p.tgt ≤ 1 then match s.askHome (.engine c e) none (lineOf p.key) with
        | .now s => .at_ (s.granted (.engine c e) (lineOf p.key)) (.mem p none)
        | .wait s => .wait s
        | .refused s => .wait (s.refuse (.engine c e) c (lineOf p.key) { ok := true, nums := [e] })
      else if p.tgt = 2 then
        if s.hostLocked (engineTurn k e) (lineOf p.key) then .wait s else .at_ s (.mem p none)
      else if !s.tableRoom c then .wait s
      else .at_ s (.mem p none)

/-- A peer write of an engine: a transaction that the copy awaits. -/
def enginePeer (s : State) (c e : Nat) (k : Copy) (p : Phys) (va : Nat) (m : FabricMsg) : State :=
  let (s, id) := s.openTxn c (lineOf p.key) [] [] (BitVec.ofNat 64 va) false (groupPage p) (some k.t.team)
  (s.sendBy k.t.team m).modEngine c e fun k => { k with outs := k.outs ++ [id] }

/-- Writes a piece at its place (12 R259, 23 R358, R371); `relaxed` is the ordering attribute of a host-bound write. -/
def enginePut (s : State) (c e : Nat) (k : Copy) (va : Nat) (l : EngLoc) (b : List Byte) (relaxed : Bool) : State :=
  match l with
  | .scratch off => s.scratchWrite k.t.team off b
  | .mem p _ =>
    if p.tgt ≤ 1 then (s.touchHome c (lineOf p.key) false).homeWrite none (lineOf p.key) (bytesAt p.key b)
    else if p.tgt = 2 then
      s.modHost fun h => { h with posted := h.posted ++ [⟨p.pa / 128 * 128, bytesAt (p.pa % 128) b, relaxed, none, false⟩] }
    else s.enginePeer c e k p va
      (if groupPage p then .multicast (p.pa / 2 ^ 36 % 2048) (p.pa % 2 ^ 36) b else .write p.peer (p.pa / 128) (bytesAt (p.pa % 128) b))
  | _ => s

/-- Writes an element that may lie in two lines: no piece is written before each has its place. -/
def engineWrite (s : State) (c e : Nat) (k : Copy) (va : Nat) (b : List Byte) : EngRes :=
  let put := fun (s : State) (va : Nat) (b : List Byte) => match s.enginePlace c e k va b.length Need.engineWrite with
    | .at_ s l => EngRes.ok (s.enginePut c e k va l b true) []
    | .wait s => .wait s
    | .page s r => .page s r
    | .bad s r x => .bad s r x
  match linePieces va b.length with
  | [(va, _), (vb, _)] =>
    let n := 128 - va % 128
    match s.enginePlace c e k vb (b.length - n) Need.engineWrite with
    | .at_ s _ => match put s va (b.take n) with
      | .ok s _ => put s vb (b.drop n)
      | r => r
    | .wait s => .wait s
    | .page s r => .page s r
    | .bad s r x => .bad s r x
  | _ => put s va b

/-- The fabric's form of an add or a nibble merge at a peer, or of a contribution to a group (23 R371); none where a group
address does not accept it. -/
def peerForm (k : Copy) (p : Phys) (d x : Nat) (b : List Byte) : Option FabricMsg :=
  let rm := k.modes.rm
  if nibbles k.head then if groupPage p then none else some (.nibble p.peer p.pa (d % 2 = 1) x)
  else if groupPage p then some (.contribute (p.pa / 2 ^ 36 % 2048) (p.pa % 2 ^ 36) (destFmt k.head) rm b)
  else some (.add p.peer p.pa (destFmt k.head) rm b)

/-- The module has made one more contribution to a group offset; the count is the number of its next round (23 R371). -/
def countRound (s : State) (pa : Nat) : State :=
  s.modFab fun f => { f with rounds := assocSet f.rounds pa ((assoc f.rounds pa).getD 0 + 1) }

/-- An add or a nibble merge of an element `x`: one atomic at the scratchpad or the home; demoted on a host window
(08 R195, 23 R358, R360). `d` is the element's own address, `va` its byte. -/
def engineAtomic (s : State) (c e : Nat) (k : Copy) (d va x : Nat) (size : Nat) (f : List Byte → List Byte) : EngRes :=
  let a := BitVec.ofNat 64 va
  match s.enginePlace c e k va size ⟨true, true, false, .engineWrite⟩ with
  | .wait s => .wait s
  | .page s r => .page s r
  | .bad s r l => .bad s r l
  | .at_ s (.scratch off) => .ok (s.scratchWrite k.t.team off (f ((s.team k.t.team).scratch.bytes off size))) []
  | .at_ s (.mem p l) =>
    if p.tgt ≤ 1 then .ok (s.enginePut c e k va (.mem p l) (f (s.mem.bytes p.key size)) false) []
    else if p.tgt = 2 then
      if !p.demote then .bad s (Request.of .hostAtomicUnsupported a) false
      else
        let line := lineOf p.key
        let turn := engineTurn k e
        let unlock := fun (s : State) =>
          (s.modHost fun h => { h with locks := h.locks.filter fun l => l != (line, [turn]) }).unlockLine line
        let old := ((List.range size).map fun i => p.key + i).filterMap fun a => (k.got.find? fun b => b.1 = a).map fun b => b.2
        if old.length = size then .ok (unlock (s.enginePut c e k va (.mem p l) (f old) false)) []
        else match k.bad with
          | some x => .bad (unlock s) (Request.of x a) false
          | none =>
            let s : State := if s.host.locks.any fun l => l.1 = line then s
              else s.modHost fun h => { h with locks := h.locks ++ [(line, [turn])] }
            s.engineAsk c e k p va size
    else match peerForm k p d x (leBytes size x) with
      | none => .bad s (Request.of .accessViolation a) false
      | some m =>
        let s := s.enginePeer c e k p va m
        .ok (if groupPage p then s.countRound (keyPa p.pa) else s) []
  | .at_ s _ => .wait s

/-- The index that replaces the outermost counter of an element (08 R195). -/
def engineIndex (s : State) (c e : Nat) (k : Copy) (top : Nat) : EngRes :=
  match k.kind with
  | .plain | .reduce => .ok s []
  | _ => if k.index.any fun x => x.1 = top then .ok s []
    else match s.engineRead c e (linePieces ((headIndex k.head + 4 * top) % 2 ^ 64) 4) with
      | .ok s b => .ok (s.modEngine c e fun k => { k with index := some (top, leNat b), got := [] }) []
      | r => r

/-- One element of the walk (08 R195): read, converted, written. -/
def engineElement (s : State) (c e : Nat) (k : Copy) : EngRes :=
  let h := k.head
  let is := counters k.pos k.dims
  match s.engineIndex c e k (is.getLastD 0) with
  | .ok s _ =>
    let ix := match s.engine c e with
      | some k => k.index.map fun x => x.2
      | none => none
    let sa := wrap64 (elementAt (headSrc h) dimSrc k.dims is (if k.kind = .gather then ix else none))
    let d := wrap64 (elementAt (headDst h) dimDst k.dims is (if k.kind = .scatter then ix else none))
    match s.engineRead c e (linePieces sa (headEsize h)) with
    | .ok s b =>
      let x := if headCvt h then convertElement k.modes (headSfmt h) (headDfmt h) (leNat b) else leNat b
      let k := (s.engine c e).getD k
      if nibbles h then
        s.engineAtomic c e k d (d / 2) x 1 fun o =>
          let y := leNat o
          leBytes 1 (if d % 2 = 1 then y % 16 + 16 * (x % 16) else y / 16 * 16 + x % 16)
      else if k.kind = .reduce then
        s.engineAtomic c e k d d x (destSize h) fun o => leBytes (destSize h) (addElement (destFmt h) k.modes.rm (leNat o) x)
      else s.engineWrite c e k d (leBytes (destSize h) x)
    | r => r
  | r => r

/-- Changes an engine's copy after an element. -/
def elementDone (s : State) (c e : Nat) : State := s.modEngine c e fun k => { k with pos := k.pos + 1, got := [], bad := none }

/-- A copy ends by a fault (08 R196). -/
def engineFault (s : State) (c e : Nat) (r : Request) (logged : Bool) : State :=
  s.modEngine c e fun k => { k with walked := true, fault := some (r, logged) }

/-- An engine looks again. -/
def lookEngine (s : State) (c e d : Nat) : State := s.after d .copyCompletion { core := c, id := e }

/-- An engine's page request is at the queue and not yet served (10 R229). -/
def engineArrived (s : State) (c e : Nat) : Bool := s.prqIn.any fun a => a.thr.isNone && a.eng = (c, e)

/-- A page request of an engine (10 R229). -/
def engineRequest (s : State) (c e : Nat) (k : Copy) (r : Request) : State :=
  if s.engineArrived c e then s else s.arriveAtQueue ⟨(s.team k.t.team).ctx, r, none, (c, e)⟩

/-- The walk goes on for at most `n` elements, as far as nothing holds it; 256 bytes or 64 elements take a cycle
(13 R276). -/
def engineWalk (s : State) (c e : Nat) : Nat → State
  | 0 => s.lookEngine c e 1
  | n + 1 => match s.engine c e with
    | none => s
    | some k =>
      if elements k.dims ≤ k.pos then (s.modEngine c e fun k => { k with walked := true }).lookEngine c e 2
      else match s.engineElement c e k with
        | .ok s _ => (s.elementDone c e).engineWalk c e n
        | .wait s => s.soon 256 .copyCompletion { core := c, id := e }
        | .asked s => s
        | .page s r => s.engineRequest c e k r
        | .bad s r l => (s.engineFault c e r l).lookEngine c e 2

/-- Elements an engine moves in a cycle (13 R276). -/
def engineRate (k : Copy) : Nat :=
  if headCvt k.head || k.kind = .reduce then 64 else max 1 (256 / destSize k.head)

/-- The bytes a copy has written (08 R196). -/
def copyBytes (k : Copy) : Nat := if nibbles k.head then (k.pos + 1) / 2 else k.pos * destSize k.head

/-- One update of a gate for a copy or a job: bytes, an arrival, and BRK where it faulted (08 R191, R196). DESIGN CHOICE (log
entry 92): a faulted arrival that ends a phase toggles it, and BRK is set after that. -/
def arriveGate (s : State) (n : Nat) (gate : Word) (bytes : Nat) (brk : Bool) : State :=
  if gate = 0xFFFFFFFF then s
  else
    let g := gateUpdate (s.gateWord n gate.toNat) bytes 0 true
    s.setGate n gate.toNat (if brk then g ||| (1#128 <<< 126) else g)

/-- A copy whose writes are acknowledged ends: the fault log, the gate, the engine (08 R196, 12 R259). -/
def endCopy (s : State) (c e : Nat) (k : Copy) : State :=
  let n := k.t.team
  let s : State := match k.fault with
    | some (r, false) => s.faultLog (s.team n).ctx r.addr c r.cause 0
    | _ => s
  let s := s.arriveGate n k.gate (copyBytes k) k.fault.isSome
  let s := s.modCore c fun x => if e = 0 then { x with eng0 := none } else { x with eng1 := none }
  let s := ((s.tryEnd n).lookSave n)
  s.afterOnce 1 .copyStart { core := c }

/-- The head of the copy queue goes to an engine that is free (13 R276). -/
def startCopies (s : State) (c : Nat) : Nat → State
  | 0 => s
  | n + 1 => match (s.core c).copyQ with
    | [] => s
    | k :: l =>
      match if (s.core c).eng0.isNone then some 0 else if (s.core c).eng1.isNone then some 1 else none with
      | none => s
      | some e =>
        let s := s.modCore c fun x => { x with copyQ := l
                                               eng0 := if e = 0 then some k else x.eng0
                                               eng1 := if e = 1 then some k else x.eng1 }
        (s.lookEngine c e 1).startCopies c n

/-! ### Issuing a copy (08 R194, R413) -/

/-- The bytes of the dimension entries, 24 each from offset 32 on. -/
def readDimBytes (s : State) (t : Tid) (reg n : Nat) : MemRes :=
  match s.readPieces t reg 32 (24 * n / 16) with
  | .ok s b =>
    if n % 2 = 0 then .ok s b
    else match s.readPieceOf t reg (((s.thread t).areg reg).val + BitVec.ofNat 64 (32 + 24 * n - 8)) 8 with
      | .ok s c => .ok s (b ++ c)
      | r => r
  | r => r

/-- The gate offset of a copy is no gate's (08 R194). -/
def badGate (s : State) (n : Nat) (g : Word) : Option Request :=
  let a := BitVec.ofNat 64 (windowBase + g.toNat)
  if g = 0xFFFFFFFF then none
  else if g.toNat % 16 != 0 then some (Request.of .misaligned a)
  else if (s.team n).scratchSize < g.toNat + 16 then some (Request.of .accessViolation a)
  else none

/-- The causes of a copy that come before the wait for room in the queue (08 R413). -/
def copyEarly (s : State) (t : Tid) (f : TF) : Option Request :=
  let p := ((s.thread t).areg f.a.toNat).val
  if p.extractLsb' 0 4 != 0 then some (Request.of .misaligned p) else s.badGate t.team (s.opB t f)

/-- The copy queue of a core is full (08 R194). -/
def copyFull (s : State) (c : Nat) : Bool := 32 ≤ (s.core c).copyQ.length

/-- A thread issues a copy (08 R194 to R196, R413): the whole descriptor is read before it is judged, and the issue is a
team-scope release (12 R254). -/
def issueCopy (s : State) (t : Tid) (kind : CopyKind) (f : TF) : Res :=
  let reg := f.a.toNat
  let c := s.coreNum t
  let gate := s.opB t f
  match s.copyEarly t f with
  | some r => .trap s r
  | none =>
    if s.copyFull c then .hold s .copyRoom
    else whenRead (s.readPieces t reg 0 2) fun s b =>
      let h := BitVec.ofNat 256 (leNat b)
      whenRead (s.readDimBytes t reg (headNdim h)) fun s b =>
        let p := ((s.thread t).areg reg).val
        let dims := readDims (headNdim h) b
        if badHead h || dims.any (fun d => d.extractLsb' 32 32 != 0) || badConvert kind h dims || overlaps h dims then
          s.fail .descInvalid p
        else s.afterRelease t 2 fun s =>
          if elements dims = 0 then .done (s.arriveGate t.team gate 0 false)
          else
            let k : Copy :=
              { kind := kind, t := t, head := h, dims := dims, gate := gate, fpcr := (s.thread t).fpcr, rm := f.p.rm, pos := 0,
                index := none, got := [], ask := none, bad := none, outs := [], walked := false, fault := none, tag := none }
            .done ((s.modCore c fun x => { x with copyQ := x.copyQ ++ [k] }).afterOnce 1 .copyStart { core := c })

end State

open State

/-- CPY (R194). -/
def execCpy (f : TF) (s : State) : Host.Outcome State Fault Refusal :=
  .next (s.perIndex (.cpy f) fun s t => s.issueCopy t .plain f)

/-- CPYG: the source's outermost index from INDEX (R194). -/
def execCpyg (f : TF) (s : State) : Host.Outcome State Fault Refusal :=
  .next (s.perIndex (.cpyg f) fun s t => s.issueCopy t .gather f)

/-- CPYS: the destination's outermost index from INDEX (R194). -/
def execCpys (f : TF) (s : State) : Host.Outcome State Fault Refusal :=
  .next (s.perIndex (.cpys f) fun s t => s.issueCopy t .scatter f)

/-- CPYR: adds into the destination (R194). -/
def execCpyr (f : TF) (s : State) : Host.Outcome State Fault Refusal :=
  .next (s.perIndex (.cpyr f) fun s t => s.issueCopy t .reduce f)

/-- A free engine takes the head copy (R195, 13 R276). -/
def execCopyStart (s : State) : Host.Outcome State Fault Refusal := .next (s.startCopies s.arg.core 2)

/-- An engine works on its copy: it goes on with the walk, or the copy, walked and acknowledged, ends and updates its gate
(R195, R196). -/
def execCopyCompletion (s : State) : Host.Outcome State Fault Refusal :=
  let c := s.arg.core
  let e := s.arg.id
  .next (match s.engine c e with
    | none => s
    | some k =>
      if k.tag.isSome || k.ask.isSome || s.engineArrived c e then s
      else if !k.walked then s.engineWalk c e (engineRate k)
      else if k.outs.isEmpty then s.endCopy c e k
      else s)

end Sys2Proof.Machine
end

