-- ==== Sys2Proof/Machine/FarOps.lean ====
section
/-! DEFINITION. The module's own accesses: where they lead, and those of host and peer memory, which travel as requests
and are answered later (17 R295, 23 R358, R368, 25 R387, R390; log entry 83). -/

namespace Sys2Proof.Machine

namespace State

/-! ### Accesses of host and peer memory -/

/-- An access under way or answered. -/
def farOp? (s : State) (user : Nat) (kind : FarKind) (key len : Nat) : Option FarOp :=
  s.mgmt.far.find? fun f => f.user = user && f.kind = kind && f.key = key && f.len = len

/-- What has been answered; no reply while it has not. -/
def farReply (s : State) (user : Nat) (kind : FarKind) (key len : Nat) : Reply :=
  ((s.farOp? user kind key len).map fun f => f.reply).getD .none

/-- An access is sent, unless it has been; its answer as far as it is known. -/
def farDo (s : State) (user : Nat) (kind : FarKind) (key len : Nat) (send : State → Option (State × Nat)) : State × Reply :=
  match s.farOp? user kind key len with
  | some f => (s, f.reply)
  | none => match send s with
    | none => (s, .none)
    | some (s, id) => (s.modMgmt fun m => { m with far := m.far ++ [⟨user, id, kind, key, len, .none⟩] }, .none)

/-- A message of a task (`user` 0) or for a context to a peer that is answered, or expires after 100 µs (23 R370). -/
def farSend (s : State) (user : Nat) (m : FabricMsg) : State × Nat :=
  let (id, s) := s.newId
  (((s.sendFor (if user = 0 then noPart else (s.ctx (user - 1)).part) m).after (100 * usCycles) .transactionExpiry { id := id }), id)

/-- A read of `n` bytes of a line: a Memory Read through the host-window agent, or a read of a peer. -/
def farRead (s : State) (user : Nat) (p : Phys) (n : Nat) : State × Reply :=
  s.farDo user .read p.key n fun s =>
    if p.tgt = 2 then
      if (s.host.locks.any fun l => l.1 = lineOf p.key) || 2048 ≤ s.host.reqs.length then none
      else some (s.hostRequest [] p.pa n none 0 0 false)
    else some (s.farSend user (.read p.peer p.pa n))

/-- The answer to one of them has come. -/
def answerFar (s : State) (id : Nat) (r : Reply) : State :=
  if s.mgmt.far.any fun f => f.id = id then
    s.modMgmt fun m => { m with far := m.far.map fun f => if f.id = id && f.reply = .none then { f with reply := r } else f }
  else s

/-- The answers have been used. -/
def farDone (s : State) (user : Nat) : State :=
  if s.mgmt.far.any fun f => f.user = user then s.modMgmt fun m => { m with far := m.far.filter fun f => f.user != user } else s

/-! ### Reads through a context's page tables (17 R295) -/

/-- Where the module's own access of a context finds a range within a line; no TLB is filled and no request raised. -/
def moduleAt (s : State) (ctx va n : Nat) (write : Bool) : State × Option Phys :=
  let ok := fun (p : Phys) => if (s.lateFault p 0 (!write)).isSome || (p.tgt = 3 && 2 ^ 47 ≤ p.pa) then none else some p
  match placeOf va with
  | .mapped => match s.walk ctx va with
    | .leaf e =>
      if s.allowed (s.ctx ctx).part (e.phys va) && (if write then pteW e.pte else pteR e.pte) then (s, ok (e.phys va)) else (s, none)
    | .invalid => (s, none)
    | .malformed => (s.faultLog ctx (BitVec.ofNat 64 va) 0xFFFF .accessViolation 2, none)
  | .tether => match s.objectAt ctx va n with
    | some (_, e) => (s, ok ⟨0, 0, e.back + (va - e.baseVa), false⟩)
    | none => (s, none)
  | _ => (s, none)

/-- The place in host or peer memory that such a read finds. -/
def moduleFar (s : State) (ctx va : Nat) : Option Phys := match placeOf va, s.walk ctx va with
  | .mapped, .leaf e =>
    let p := e.phys va
    if 2 ≤ p.tgt && s.allowed (s.ctx ctx).part p && pteR e.pte && (s.lateFault p 0 true).isNone && !(p.tgt = 3 && 2 ^ 47 ≤ p.pa)
      then some p else none
  | _, _ => none

/-- Reads of host or peer memory that a range needs are sent; whether one of them is still to be answered. -/
def awaits (s : State) (user ctx : Nat) (parts : List (Nat × Nat)) : State × Bool :=
  parts.foldl (fun acc p => match acc.1.moduleFar ctx p.1 with
    | none => acc
    | some at_ => let (s, r) := acc.1.farRead user at_ p.2; (s, acc.2 || r = .none)) (s, false)

/-- Pieces of 64 bytes from an address on. -/
def pieces64 (va n : Nat) : List (Nat × Nat) := (List.range n).map fun i => (va + 64 * i, 64)

/-- The module reads `n` bytes within a line; from host or peer memory those that have been answered. -/
def moduleRead (s : State) (ctx va n : Nat) : State × Option (List Byte) :=
  match s.moduleAt ctx va n false with
  | (s, none) => (s, none)
  | (s, some p) =>
    if p.tgt ≤ 1 then (s, some (s.mem.bytes p.key n))
    else match s.farReply (ctx + 1) .read p.key n with
      | .data x => (s, some ((leBytes 128 x.toNat).take n))
      | _ => (s, none)

/-- The module reads pieces of 64 bytes. -/
def modulePieces (s : State) (ctx va : Nat) : Nat → State × Option (List Byte)
  | 0 => (s, some [])
  | n + 1 => match s.moduleRead ctx va 64 with
    | (s, none) => (s, none)
    | (s, some b) => match s.modulePieces ctx (va + 64) n with
      | (s, none) => (s, none)
      | (s, some c) => (s, some (b ++ c))

end State

end Sys2Proof.Machine
end

