-- ==== Sys2Proof/Machine/Image.lean ====
section
/-! DEFINITION. The image of a saved team (19 R327, R331 to R333): liveness records, what a save keeps, where its parts with
a stated layout stand, and reading them back. -/

namespace Sys2Proof.Machine

/-- Fields of a liveness record (19 R331). -/
def recV (r : BitVec 512) (n : Nat) : Bool := r.getLsbD n
def recA (r : BitVec 512) (n : Nat) : Bool := n != 0 && r.getLsbD (128 + n)
def recS (r : BitVec 512) (n : Nat) : Bool := n != 0 && r.getLsbD (144 + n)
def recK (r : BitVec 512) (n : Nat) : Bool := n != 0 && r.getLsbD (208 + n)
/-- The scratchpad ranges of a record: offset and length. -/
def recRanges (r : BitVec 512) : List (Nat × Nat) :=
  (List.range 4).map fun j => ((r.extractLsb' (256 + 64 * j) 32).toNat, (r.extractLsb' (288 + 64 * j) 32).toNat)

/-- The record of a thread that stopped at PHINT. -/
def Stop.record? : Option Stop → Option (BitVec 512)
  | some (.phint r) => some r
  | _ => none

/-- Every present thread of the list stopped at PHINT (19 R331, R332). -/
def allPhint (ts : List Thread) : Bool := (ts.filter fun t => t.present).all fun t => (Stop.record? t.stop).isSome

/-- The physical registers that a thread's record keeps: those that its set names select (19 R331). -/
def keptV (x : Thread) (r : BitVec 512) : List Nat := ((List.range 128).filter (recV r)).map (physOf x.base)

/-- What a save keeps of a thread (19 R331). -/
def savedThread (x : Thread) : Thread := match Stop.record? x.stop with
  | none => x
  | some r =>
    let kept := keptV x r
    { x with v := x.v.filter fun p => kept.contains p.1, a := x.a.filter fun p => recA r p.1 }

/-- The records of a group's present threads. -/
def groupRecords (g : Group) : List (BitVec 512) :=
  (g.threads.filter fun t => t.present).filterMap fun t => Stop.record? t.stop

/-- What a save keeps of a group: its uniform and mask registers in full, or the union of its records (19 R331). -/
def savedGroup (g : Group) : Group :=
  let rs := groupRecords g
  let full := !allPhint g.threads
  { s := g.s.filter fun p => full || rs.any fun r => recS r p.1
    k := g.k.filter fun p => full || rs.any fun r => recK r p.1
    pend := []
    threads := g.threads.map savedThread }

/-- The scratchpad byte is kept (19 R332): all are, unless every present thread stopped at PHINT; then those of the
records, the gate words of the gate table and lent sources. -/
def keptByte (m : Team) (lent : List (Nat × Nat)) (a : Nat) : Bool :=
  let ts := m.groups.flatMap fun g => g.threads
  if !allPhint ts || m.gatesFull then true
  else
    ((ts.filter fun t => t.present).filterMap fun t => Stop.record? t.stop).any (fun r =>
      (recRanges r).any fun p => p.1 ≤ a && a < p.1 + p.2) ||
    m.gates.any (fun g => g ≤ a && a < g + 16) || lent.any fun p => p.1 ≤ a && a < p.1 + p.2

/-- The bytes of an address register and its shadow (01 R8, 19 R327). -/
def AReg.image (a : AReg) : List Byte :=
  leBytes 8 a.val.toNat ++
  leBytes 16 (fields [(127, a.sh.v.toNat), (64, a.sh.ident.toNat), (16, a.sh.base.toNat), (0, a.sh.gen.toNat)])

/-- The address registers of a thread that a save writes (19 R331). -/
def savedAs (x : Thread) : List Nat := (List.range 16).filter fun n => match Stop.record? x.stop with
  | some r => recA r n
  | none => true

/-- The physical vector registers of a thread that a save writes (19 R331). -/
def savedVs (vregs : Nat) (x : Thread) : List Nat := match Stop.record? x.stop with
  | some r => distinct (keptV x r)
  | none => List.range vregs

/-- Where a thread's address register and physical vector register stand in the image (19 R327). -/
def aPlace (base i n : Nat) : Nat := base + 0x20000 + 384 * i + 24 * n
def vPlace (base i vregs n : Nat) : Nat := base + 0x100000 + 4 * vregs * i + 4 * n

/-- The image of a thread: its address registers and physical vector registers, as far as the save writes them (19
R327). -/
def threadImage (base i vregs : Nat) (x : Thread) : List (Nat × Byte) :=
  ((savedAs x).flatMap fun n => bytesAt (aPlace base i n) (Sp.get AReg.zero x.a n).image) ++
  ((savedVs vregs x).flatMap fun n => bytesAt (vPlace base i vregs n) (leBytes 4 (Sp.get (0 : Word) x.v n).toNat))

/-- The uniform and mask registers of a group that a save writes (19 R331). -/
def savedSs (x : Group) : List Nat :=
  (List.range 64).filter fun n => !allPhint x.threads || (groupRecords x).any fun r => recS r n
def savedKs (x : Group) : List Nat :=
  (List.range 8).filter fun n => n != 0 && (!allPhint x.threads || (groupRecords x).any fun r => recK r n)

/-- Where a group's uniform and mask register stand in the image (19 R327). -/
def sPlace (base g n : Nat) : Nat := base + 0x1000 + 512 * g + 4 * n
def kPlace (base g n : Nat) : Nat := base + 0x1000 + 512 * g + 256 + 8 * (n - 1)

/-- The image of a group's uniform and mask registers; an exited thread's bit of a mask is 0 (01 R11). -/
def groupImage (base g : Nat) (x : Group) : List (Nat × Byte) :=
  ((savedSs x).flatMap fun n => bytesAt (sPlace base g n) (leBytes 4 (x.sreg n).toNat)) ++
  ((savedKs x).flatMap fun n => bytesAt (kPlace base g n) (leBytes 8 (x.mask n).toNat))

/-! ### Reading the image back (19 R331 to R333) -/

/-- Registers with the values that `f` gives, register 0 apart. -/
def registersFrom {α : Type} [DecidableEq α] (d : α) (ns : List Nat) (f : Nat → α) : Sparse α :=
  ns.foldl (fun m n => if n = 0 then m else Sp.set d m n (f n)) []

/-- An address register with its shadow, from its 24 bytes. -/
def aFrom (mem : Memory) (a : Nat) : AReg :=
  let x := BitVec.ofNat 128 (mem.le (a + 8) 16)
  ⟨BitVec.ofNat 64 (mem.le a 8), ⟨x.getLsbD 127, x.extractLsb' 64 63, x.extractLsb' 16 48, x.extractLsb' 0 16⟩⟩

/-- A thread with the registers that the save wrote, the others zero. -/
def threadFrom (mem : Memory) (base i vregs : Nat) (x : Thread) : Thread :=
  { x with
    a := registersFrom AReg.zero (savedAs x) fun n => aFrom mem (aPlace base i n)
    v := registersFrom (0 : Word) (savedVs vregs x) fun n => BitVec.ofNat 32 (mem.le (vPlace base i vregs n) 4) }

/-- A group with the registers that the save wrote, the others zero; exited threads are as they are. -/
def groupFrom (mem : Memory) (base width vregs g : Nat) (x : Group) : Group :=
  { x with
    s := registersFrom (0 : Word) (savedSs x) fun n => BitVec.ofNat 32 (mem.le (sPlace base g n) 4)
    k := registersFrom (0 : DWord) (savedKs x) fun n => BitVec.ofNat 64 (mem.le (kPlace base g n) 8)
    threads := (placed 0 x.threads).map fun t => if t.2.present then threadFrom mem base (width * g + t.1) vregs t.2 else t.2 }

/-- The scratchpad bytes that the save wrote, the others zero. -/
def scratchFrom (mem : Memory) (base : Nat) (m : Team) : Memory :=
  (mem.slice (base + 0x400000) m.scratchSize 0).filter fun c => keptByte m m.lent c.1

/-- The role-C trough bytes of the image. -/
def troughFrom (mem : Memory) (base : Nat) (m : Team) : List (Nat × Byte) :=
  (m.slots.filter fun p => recRole p.2.record = 2).flatMap fun p =>
    bytesAt (recToff p.2.record) (mem.bytes (base + 0x600000 + recToff p.2.record) (recTlen p.2.record))

/-- A team as its image at `base` restores it. -/
def teamFrom (mem : Memory) (base : Nat) (m : Team) : Team :=
  { m with
    scratch := scratchFrom mem base m
    groups := (placed 0 m.groups).map fun g => groupFrom mem base m.width m.vregs g.1 g.2 }

end Sys2Proof.Machine
end

