-- ==== Sys2Proof/Machine/Placement.lean ====
section
/-! DEFINITION. Clusters and their placement (09 R209 to R211, 11 R232 to R234, 17 R298 to R301, 19 R333, R335): making the
clusters of a grid, the rectangles of a die, the placement test, placing and resuming, draining. -/

namespace Sys2Proof.Machine

/-- A split r, s, l of its field (17 R297). -/
def splitOf (x : Nat) : Nat × Nat × Nat := (x / 4096 % 64, x / 64 % 64, x % 64)

/-- The shapes that are allowed (09 R209). -/
def shapeOk (rows cols : Nat) : Bool :=
  (1 ≤ rows && rows ≤ 3 && 1 ≤ cols && cols ≤ 4) ||
  [(4, 3), (2, 6), (6, 2), (1, 12), (12, 1)].contains (rows, cols)

/-- Threads of a team of `g` groups of width `w` in a lane (09 R210). -/
def laneThreads (w g lane0 lane : Nat) : Nat :=
  ((List.range g).filter fun i => (lane + 64 - (lane0 + w * i) % 64) % 64 < w).length

/-- The rectangles of a shape in placement order, each as its cores by cluster-relative index (09 R209, 17 R300). -/
def rectangles (rows cols : Nat) : List (List Nat) :=
  let (r, c) := if rows = 12 then (1, 12) else (rows, cols)
  (List.range 12).flatMap fun die =>
    (List.range (9 - r)).flatMap fun y =>
      (List.range (17 - c)).map fun x =>
        (List.range r).flatMap fun dy => (List.range c).map fun dx => 128 * die + 16 * (y + dy) + x + dx

/-- Scratchpad granules of a team (11 R234). -/
def scratchGranules (n : Nat) : Nat := (n + 65535) / 65536

namespace State

/-! ### The clusters of a grid (17 R298, R299) -/

/-- The age stamp of team `x` of a grid (08 R188, 17 R299). -/
def ageStamp (g : Grid) (x : Nat) : DWord :=
  let n := g.seq0 + x
  BitVec.ofNat 44 (g.tick0 + n / 128) ++ Config.moduleNumber ++ BitVec.ofNat 7 (n % 128)

/-- A team of a grid that has not started. -/
def newTeam (s : State) (grid cluster x : Nat) : Team :=
  let g := s.grid grid
  let t := g.rows * g.cols
  { Team.none with
    status := .waiting, ctx := g.ctx, cluster := cluster, grid := grid, idTeam := BitVec.ofNat 32 x
    idCluster := BitVec.ofNat 32 (x / t), inCluster := x % t, nTeams := BitVec.ofNat 32 g.nTeams, nClTeams := t
    width := g.width, vregs := g.vregs, age := ageStamp g x, scratchSize := g.scratchSize, taskEnded := false
    entry := g.entry, args := g.args, params := g.params, record := g.record, node := g.node, batch := g.batch
    since := s.cycle, groups := List.replicate g.groups Group.none }

/-- The grid's next cluster waits for placement. -/
def nextCluster (s : State) (grid : Nat) : State :=
  let g := s.grid grid
  let t := g.rows * g.cols
  if g.dead || g.nTeams ≤ g.nextCluster * t then s
  else
    let k := s.clusters.length
    let first := s.teams.length
    let teams := (List.range t).map fun i => s.newTeam grid k (g.nextCluster * t + i)
    let cl : Cluster := { Cluster.none with
      grid := grid, ctx := g.ctx, teams := (List.range t).map fun i => first + i, rows := g.rows, cols := g.cols
      split := g.split, since := g.since }
    let s : State := { s with teams := s.teams ++ teams, clusters := s.clusters ++ [cl] }
    s.modGrid grid fun g => { g with nextCluster := g.nextCluster + 1 }

/-! ### The placement test (09 R211, 11 R232 to R234) -/

/-- The core may host teams of the context: its partition's island, present, its clamps open, not drained for another
cluster (17 R301, 18 R321, R322, 27 R402). -/
def coreOpen (s : State) (ctx cl c : Nat) : Bool :=
  (s.partEntry (s.ctx ctx).part).getLsbD (islandOf c) && !s.repair.absent.contains c &&
  !s.repair.clamped.contains (islandOf c) &&
  !((placed 0 s.clusters).any fun k => k.1 != cl && k.2.draining.contains c)

/-- The trough range of a slot: offset and length (08 R198). -/
def slotRange (x : Slot) : Nat × Nat := ((x.record.extractLsb' 96 19).toNat, (x.record.extractLsb' 128 20).toNat)

/-- The trough ranges of a saved team are free on a core (19 R333). -/
def troughFree (s : State) (m : Team) (others : List Nat) : Bool :=
  !(m.slots.any fun p => others.any fun n => (s.team n).slots.any fun q =>
    let a := slotRange p.2
    let b := slotRange q.2
    a.1 < b.1 + b.2 && b.1 < a.1 + a.2)

/-- The lane origin at which a team fits a core without the teams `gone`: its registers, its scratchpad, its trough ranges, the
jobs that a saved team brings (09 R210, R211, 11 R233, R234, 13 R283). -/
def fitsCore (s : State) (c n : Nat) (split : Nat × Nat × Nat) (gone : List Nat) : Option Nat :=
  let m := s.team n
  let g := m.groups.length
  let old := (s.residents c).filter fun k => !gone.contains k && k != n
  let threads := old.foldl (fun x k => x + (s.team k).width * (s.team k).groups.length) 0
  let scratch := old.foldl (fun x k => x + scratchGranules (s.team k).scratchSize) 0
  let jobs := m.jobs.length + ((s.core c).jobs.filter fun j => !gone.contains j.team).length
  if (old.isEmpty || (s.core c).split = some split) && old.length < 16 && jobs ≤ 8 && threads + m.width * g ≤ 2048 &&
      scratch + scratchGranules m.scratchSize ≤ split.2.1 && s.troughFree m old then
    ((List.range (64 / m.width)).map fun i => i * m.width).find? fun lane0 =>
      (List.range 64).all fun lane =>
        let mine := laneThreads m.width g lane0 lane
        let (count, bytes) := old.foldl (fun (x : Nat × Nat) k =>
          let y := s.team k
          let z := laneThreads y.width y.groups.length y.lane0 lane
          (x.1 + z, x.2 + z * 4 * y.vregs)) (mine, mine * 4 * m.vregs)
        count ≤ 32 && bytes ≤ split.1 * 1024
  else none

/-- A saved team of the cluster waits. -/
def hasSaved (s : State) (cl : Nat) : Bool := (s.cluster cl).teams.any fun n => (s.team n).status = .saved

/-- The save-area header: blocks and their base, none where it disables saving. -/
def saveHeader (s : State) (ctx : Nat) : Option (Nat × Nat) :=
  let a := (s.ctx ctx).save.toNat
  let h := BitVec.ofNat 512 (s.dev a 64)
  let n := (h.extractLsb' 64 32).toNat
  if s.poisoned (lineOf a) || h.extractLsb' 96 416 != 0 || n = 0 || 65536 < n then none
  else some (n, (h.extractLsb' 0 64).toNat)

/-- A resumption reads the header too (19 R325): the saved teams of a cluster have their blocks by it. DESIGN CHOICE (log entry
19): a saved team waits while the header cannot be read, breaks a rule, or has too few blocks. -/
def headerReads (s : State) (cl : Nat) : Bool :=
  (s.cluster cl).teams.all fun n =>
    (s.team n).status != .saved || (match s.saveHeader (s.team n).ctx, (s.team n).block with
      | some (k, _), some b => b < k
      | _, _ => false)

/-- Where the teams of a cluster that have not ended stand on a rectangle: team, core, lane origin. -/
def rectFits (s : State) (cl : Nat) (gone : List Nat) (cores : List Nat) : Option (List (Nat × Nat × Nat)) :=
  let k := s.cluster cl
  if (cores.all fun c => s.coreOpen k.ctx cl c) && s.headerReads cl then
    let live := k.teams.filter fun n => (s.team n).status != .ended
    let spots := live.map fun n =>
      let c := nthD 0 cores (s.team n).inCluster
      (s.fitsCore c n k.split gone).map fun lane0 => (n, c, lane0)
    if spots.all fun x => x.isSome then some (spots.filterMap id) else none
  else none

/-- The first rectangle that fits a cluster (17 R300). -/
def clusterFits (s : State) (cl : Nat) (gone : List Nat) : Option (List (Nat × Nat × Nat)) :=
  let k := s.cluster cl
  (rectangles k.rows k.cols).findSome? (s.rectFits cl gone)

/-! ### Handles (10 R414) -/

/-- A handle that no team of the context holds. -/
def freshHandle (s : State) (ctx : Nat) : BitVec 20 :=
  let used := (s.teams.filter fun m => m.ctx = ctx && m.placed && m.status != .ended).map fun m => m.handle
  let h0 := (s.ctx ctx).nextHandle
  let all := (List.range (used.length + 1)).map fun i => BitVec.ofNat 20 (h0 + i)
  (all.find? fun h => !used.contains h).getD 0

/-- A team has its handle from its first placement on. -/
def giveHandle (s : State) (n : Nat) : State :=
  let m := s.team n
  if m.placed then s
  else
    let h := s.freshHandle m.ctx
    (s.modTeam n fun m => { m with handle := h, placed := true }).modCtx m.ctx fun c => { c with nextHandle := h.toNat + 1 }

/-! ### Save blocks (19 R325, R326) -/

/-- The lowest free block of a context. -/
def freeBlock? (s : State) (ctx : Nat) : Option Nat := match s.saveHeader ctx with
  | none => none
  | some (n, _) =>
    let a := (s.ctx ctx).save.toNat + 64
    (List.range n).find? fun b => !(s.mem.get (a + b / 8)).getLsbD (b % 8)

/-- Where a block lies by the header as it stands. -/
def blockBase (s : State) (ctx b : Nat) : Nat := match s.saveHeader ctx with
  | some (_, base) => base + b * 2 ^ 23
  | none => 0

/-- Takes a block for a team. DESIGN CHOICE (log entry 19): the header as it stands at the request is the one that the save
goes by. -/
def takeBlock (s : State) (n b : Nat) : State :=
  let a := (s.ctx (s.team n).ctx).save.toNat + 64 + b / 8
  let at_ := s.blockBase (s.team n).ctx b
  (s.deviceWrite a [s.mem.get a ||| (1#8 <<< (b % 8))]).modTeam n fun m => { m with block := some b, imageAt := at_ }

/-- Free blocks of a context. -/
def freeBlocks (s : State) (ctx : Nat) : Nat := match s.saveHeader ctx with
  | none => 0
  | some (n, _) =>
    let a := (s.ctx ctx).save.toNat + 64
    ((List.range n).filter fun b => !(s.mem.get (a + b / 8)).getLsbD (b % 8)).length

/-! ### Requests (19 R328, R329) -/

/-- A pre-emption request reaches a resident team: a block is taken, threads that wait stop, and the rest have 20 µs. -/
def requestSave (s : State) (n : Nat) : State :=
  let m := s.team n
  if m.status != .resident || m.request.isSome then s
  else match s.freeBlock? m.ctx with
    | none => s
    | some b =>
      let s := (s.takeBlock n b).modTeam n fun m => { m with request := some s.cycle }
      let s := (s.tids n).foldl (fun s t =>
        if (s.thread t).wait.stops then s.modThread t fun x => { x with stop := some .wait } else s) s
      (s.lookSave n).after (20 * usCycles) .fullStopTimeout { team := n, len := s.cycle }

/-- The teams of a team's cluster that are resident. -/
def clusterMates (s : State) (n : Nat) : List Nat :=
  (s.cluster (s.team n).cluster).teams.filter fun k => (s.team k).status = .resident

/-- The team's whole cluster can be saved (19 R326, R328). -/
def saveable (s : State) (n : Nat) : Bool := (s.clusterMates n).length ≤ s.freeBlocks (s.team n).ctx

/-- Teams can be saved together, with the clusters they belong to: each context has a block for every one of them that has
none yet (17 R301, 19 R326). -/
def allSaveable (s : State) (ns : List Nat) : Bool :=
  let need := distinct ((ns.flatMap s.clusterMates).filter fun n => (s.team n).request.isNone)
  need.all fun n => (need.filter fun k => (s.team k).ctx = (s.team n).ctx).length ≤ s.freeBlocks (s.team n).ctx

/-- The quantum of a context in cycles (18 R310). -/
def quantum (s : State) (ctx : Nat) : Nat :=
  let q := (s.ctx ctx).quant.toNat
  usCycles * (if q = 0 then 2000 else max 100 (min 20000 q))

/-! ### Resuming (19 R333) -/

/-- What a wait becomes at resumption (19 R329): a barrier, the task's end and a page request go on; every other bundle is
free to issue again. DESIGN CHOICE (log entry 94): a watchdog report in its back-off is dropped. -/
def resumedWait : Wait → Wait
  | .barrier n p => .barrier n p
  | .taskEnd => .taskEnd
  | .queued tag r => .queued tag r
  | _ => .none

/-- The image of a saved team is written back (19 R333, step 1): its parts with a stated layout from the block, where the header
says now; what the others hold, the team itself keeps (log entry 19). -/
def readImage (s : State) (n : Nat) : State := match (s.team n).block with
  | some b =>
    let base := s.blockBase (s.team n).ctx b
    s.modTeam n (teamFrom s.mem base)
  | none => s

/-- The trough ranges of a team that resumes are zero but for the role-C bytes that its image returns (19 R333). -/
def readTrough (s : State) (n : Nat) : State :=
  let m := s.team n
  let back := match m.block with
    | some b => troughFrom s.mem (s.blockBase m.ctx b) m
    | none => []
  s.modCore m.core fun k => { k with
    trough := (m.slots.foldl (fun (x : Memory) p => x.clear (slotRange p.2).1 (slotRange p.2).2) k.trough).putAll back }

/-- A saved team goes on at a place (19 R333, R334): its image is written back, its jobs queue on the core, its decode table is
read, fetch sees memory anew there (04 R92), it acquires at device scope, its block is freed. -/
def resumeTeamAt (s : State) (n c lane0 : Nat) : State :=
  let old := s.team n
  let table := s.readTable old.ctx
  let s := (s.dropCode c).modTeam n fun m => { m with
    status := .resident, core := c, lane0 := lane0, dtab := table, since := s.cycle, request := Option.none
    jobs := [], expired := false }
  let s := ((s.readImage n).readTrough n).modTeam n fun m => { m with lent := [] }
  let s := s.modCore c fun k => { k with jobs := k.jobs ++ old.jobs }
  let ts := s.tids n
  let s := ts.foldl (fun s t => s.modThread t fun x => { x with
    stop := Option.none, wait := resumedWait x.wait, reply := .none, sent := Option.none, got := [], pace := [], since := s.cycle }) s
  let s := s.joinTeam n
  let s := (s.acquire ⟨n, 0, 0⟩ 4).freeBlock n
  let s := s.afterOnce 1 .jobStart { core := c }
  if old.expired then ts.foldl (fun s t =>
      let (x, s) := s.draw (2 ^ 64)
      s.takeTrap t (Request.of .linkLost (BitVec.ofNat 64 x))) s
  else s

/-! ### Placing (17 R300) -/

/-- A core takes a split; its L1 begins empty under a new one, whose sets differ (11 R232, R237). -/
def takeSplit (s : State) (c : Nat) (split : Nat × Nat × Nat) : State :=
  if (s.core c).split = some split then s
  else (s.dropL1 c fun _ => true).modCore c fun y => { y with split := some split }

/-- A cluster goes to its place: the cores take its split, its teams start or resume, its quantum begins. -/
def placeCluster (s : State) (cl : Nat) (spots : List (Nat × Nat × Nat)) : State :=
  let k := s.cluster cl
  let slice := match spots.head? with
    | some x => s.nearRect k.rows k.cols (x.2.1 - coreAt k.rows k.cols 0 (s.team x.1).inCluster)
    | none => 0
  let s := s.modCluster cl fun k => { k with placed := true, slice := slice, draining := [], since := s.cycle }
  let s := spots.foldl (fun s x =>
    let (n, c, lane0) := x
    let s := (s.takeSplit c k.split).giveHandle n
    let s := s.modTeam n fun m => { m with quantum := s.quantum k.ctx }
    match (s.team n).status with
    | .saved => s.resumeTeamAt n c lane0
    | _ => (s.modTeam n fun m => { m with core := c, lane0 := lane0 }).startTeam n) s
  let s := s.after (s.quantum k.ctx) .quantumExpiry {}
  let g := s.grid k.grid
  if g.node.isNone && g.nextCluster * (g.rows * g.cols) < g.nTeams && (placed 0 s.clusters).all (fun x => x.2.grid != k.grid || x.2.placed || x.1 = cl ||
      x.2.teams.all fun n => (s.team n).status = .ended || (s.team n).placed) then s.nextCluster k.grid else s

/-- The clusters that wait for placement, the longest first, equal ones by the acceptance of their grids (17 R301, 19 R335). -/
def waiting (s : State) : List Nat :=
  let ws := (placed 0 s.clusters).filter fun k => !k.2.placed &&
    (k.2.teams.any fun n => (s.team n).status = .waiting || (s.team n).status = .saved) &&
    (k.2.teams.all fun n => (s.team n).status != .resident)
  (sortBy (fun (k : Nat × Cluster) => k.2.since * 2 ^ 64 + k.2.grid) ws).map fun k => k.1

/-- The first waiting cluster that fits, and where. -/
def firstFitting (s : State) : Option (Nat × List (Nat × Nat × Nat)) :=
  s.waiting.findSome? fun cl => (s.clusterFits cl []).map fun spots => (cl, spots)

/-- The partition of a cluster. -/
def partOf (s : State) (cl : Nat) : Nat := (s.ctx (s.cluster cl).ctx).part

/-- A cluster that waits in a partition fits now. -/
def olderFits (s : State) (part : Nat) : Bool := s.waiting.any fun cl => s.partOf cl = part && (s.clusterFits cl []).isSome

/-- The cluster that has waited longest in a partition and that fits nowhere. -/
def stuck (s : State) (part : Nat) : Option Nat :=
  s.waiting.find? fun cl => s.partOf cl = part && (s.clusterFits cl []).isNone

/-- The resident clusters of a partition, the longest resident first, equal ones by their lowest core. -/
def residentClusters (s : State) (part : Nat) : List Nat :=
  let ks := (placed 0 s.clusters).filter fun k => k.2.placed && s.partOf k.1 = part && k.2.teams.any fun n => (s.team n).status = .resident
  let lowest := fun (k : Cluster) => (k.teams.filter fun n => (s.team n).status = .resident).foldl (fun m n => min m (s.team n).core) 2048
  let since := fun (k : Cluster) => (k.teams.filter fun n => (s.team n).status = .resident).foldl (fun m n => max m (s.team n).since) 0
  (sortBy (fun (k : Nat × Cluster) => since k.2 * 2048 + lowest k.2) ks).map fun k => k.1

/-- The teams of a cluster that are resident. -/
def liveTeams (s : State) (cl : Nat) : List Nat := (s.cluster cl).teams.filter fun n => (s.team n).status = .resident

/-- The cluster has been resident for its quantum, can be saved, and has no request. -/
def pastQuantum (s : State) (cl : Nat) : Bool :=
  (s.liveTeams cl).all fun n =>
    let m := s.team n
    m.request.isNone && m.since + m.quantum ≤ s.cycle && s.saveable n

/-- In one partition: the resident cluster whose saving lets the longest-waiting one be placed is asked to stop
(19 R326, R328). One save is awaited at a time. -/
def preempt (s : State) (part : Nat) : State :=
  match s.stuck part with
  | none => s
  | some w =>
    let ks := s.residentClusters part
    if ks.any fun k => (s.liveTeams k).any fun n => (s.team n).request.isSome then s
    else match ks.find? fun k => s.pastQuantum k && (s.clusterFits w (s.liveTeams k)).isSome with
      | none => s
      | some k => (s.liveTeams k).foldl (fun s n => s.requestSave n) s

/-- The teams resident on cores. -/
def onCores (s : State) (cores : List Nat) : List Nat := cores.flatMap s.residents

/-- A cluster that has waited a quantum without fitting has the first rectangle drained that would fit if emptied and
whose teams can all be saved (17 R301). -/
def drainFor (s : State) (cl : Nat) : State :=
  let k := s.cluster cl
  if !k.draining.isEmpty || s.cycle < k.since + s.quantum k.ctx || (s.clusterFits cl []).isSome then s
  else
    let ok := fun (cores : List Nat) =>
      let ts := s.onCores cores
      (s.rectFits cl ts cores).isSome && s.allSaveable ts
    match (rectangles k.rows k.cols).find? ok with
    | none => s
    | some cores =>
      let s := s.modCluster cl fun k => { k with draining := cores }
      (s.onCores cores).foldl (fun s n => (s.clusterMates n).foldl (fun s k => s.requestSave k) s) s

end State

open State

/-- CLUSTER_PLACEMENT (17 R300): the longest-waiting cluster that fits is placed whole; one with a saved team resumes. -/
def execClusterPlacement (s : State) : Host.Outcome State Fault Refusal :=
  .next (match s.firstFitting with
    | none => (s.afterOnce 1 .quantumExpiry {}).afterOnce 1 .drainDecision {}
    | some (cl, spots) =>
      if s.hasSaved cl then s.after 0 .teamResume { id := cl }
      else (s.placeCluster cl spots).after 0 .clusterPlacement {})

/-- TEAM_RESUME (19 R333): a saved cluster is placed and restored. -/
def execTeamResume (s : State) : Host.Outcome State Fault Refusal :=
  let cl := s.arg.id
  .next (if s.waiting.contains cl then match s.clusterFits cl [] with
      | some spots => (s.placeCluster cl spots).after 0 .clusterPlacement {}
      | none => s.afterOnce 1 .clusterPlacement {}
    else s)

/-- QUANTUM_EXPIRY (19 R328): in each partition the longest-waiting cluster has a resident one past its quantum saved. -/
def execQuantumExpiry (s : State) : Host.Outcome State Fault Refusal :=
  .next ((distinct (s.waiting.map s.partOf)).foldl (fun s p => s.preempt p) s)

/-- DRAIN_DECISION (17 R301): a cluster that has waited a quantum has a rectangle drained; it is looked at again when a
quantum has passed. -/
def execDrainDecision (s : State) : Host.Outcome State Fault Refusal :=
  let late := s.waiting.filterMap fun cl =>
    let k := s.cluster cl
    let t := k.since + s.quantum k.ctx
    if s.cycle < t then some t else none
  let s := s.waiting.foldl (fun s cl => s.drainFor cl) s
  .next (late.foldl (fun s t => s.afterOnce (t - s.cycle) .drainDecision {}) s)

end Sys2Proof.Machine
end

