-- ==== Sys2Proof/Machine/Launch.lean ====
section
/-! DEFINITION. Submission (17 R295 to R299): the ring, launch records, graph load and unload, and the dispatch of node teams
(17 R302 to R308). The module's own reads go through the context's page tables and raise no page request. -/

namespace Sys2Proof.Machine

open State

/-- The fields of a shape that a launch record and a node descriptor share (17 R297, R303). -/
structure Shape where
  width : Nat
  groups : Nat
  regs : Nat
  split : Nat
  scratch : Nat

/-- The lowest STATUS a shape is rejected with: 0x13 to 0x15 (17 R296, 11 R232 to R234). -/
def Shape.status (x : Shape) : Option Nat :=
  let (r, s, l) := splitOf x.split
  let registers := (List.range 64).all fun lane => laneThreads x.width x.groups 0 lane * 4 * (16 * x.regs) ≤ r * 1024
  if !([8, 16, 32, 64].contains x.width) || x.groups < 1 || 32 < x.groups || x.regs < 8 || 64 < x.regs then some 0x13
  else if r < 4 || 32 < s || l < 2 || r + s + l != 48 || !registers then some 0x14
  else if s * 65536 < x.scratch then some 0x15
  else none

/-- Fields of a launch record (17 R297). -/
def launchField (r : BitVec 1024) (lo len : Nat) : Nat := (r.extractLsb' lo len).toNat
/-- The shape of a launch record. -/
def launchShape (r : BitVec 1024) : Shape :=
  ⟨launchField r 128 8, launchField r 136 6, launchField r 184 8, launchField r 192 18, launchField r 224 32⟩
/-- The shape of a node descriptor (17 R303). -/
def nodeShape (d : BitVec 1024) : Shape :=
  ⟨nodeField d 64 8, nodeField d 72 6, nodeField d 80 8, nodeField d 88 18, nodeField d 128 32⟩

/-- Words of a record, 32 bits each, from a bit on. -/
def wordsFrom (r : BitVec 1024) (lo n : Nat) : List Word := (List.range n).map fun i => r.extractLsb' (lo + 32 * i) 32

/-- The used successors of a node (17 R303). -/
def nodeSuccs (d : BitVec 1024) : List Nat := (List.range (min 8 (nodeField d 224 4))).map fun j => nodeField d (256 + 8 * j) 8

/-- A node descriptor can be loaded into a graph of `n` nodes (17 R303). -/
def nodeOk (n : Nat) (d : BitVec 1024) : Bool :=
  let f := nodeField d
  let rsize := nodeRsize d
  f 768 256 = 0 && f 228 28 = 0 && f 202 6 = 0 && f 187 5 = 0 && f 169 7 = 0 && f 106 22 = 0 && f 78 2 = 0 && f 224 4 ≤ 8 &&
  1 ≤ nodeTimer d && nodeTimer d ≤ 1000 && 1 ≤ nodeCoal d && nodeCoal d ≤ 1024 && rsize % 16 = 0 && 16 ≤ rsize &&
  rsize ≤ 256 && (nodeSuccs d).all (fun s => s < n) && (nodeShape d).status.isNone

/-- One round of the path values (17 R304): a node whose successors all have theirs gets its own. -/
def pathRound (ds : List (BitVec 1024)) (ls : List (Option Nat)) : List (Option Nat) :=
  ds.map fun d =>
    let succ := (nodeSuccs d).map fun s => (ls[s]?).join
    if succ.all fun x => x.isSome then some (nodeField d 208 16 + (succ.filterMap id).foldl max 0) else none

/-- The path values of a graph (17 R304); a node on or before a cycle never gets one. -/
def pathValues (ds : List (BitVec 1024)) : Nat → List (Option Nat)
  | 0 => ds.map fun _ => none
  | n + 1 => pathRound ds (pathValues ds n)

namespace State

/-! ### The command log (25 R388) -/

/-- The entries that a context's command log has taken, of which CLOGN shows 32 bits (25 R388). -/
def clogN (s : State) (c : Nat) : Nat := (assoc s.mgmt.clogHi c).getD 0 * 2 ^ 32 + s.dev (s.persEntry c + 52) 4

/-- Appends an entry to a context's command log, while it is on. -/
def commandLog (s : State) (c kind addr len payload : Nat) : State :=
  let e := s.persEntry c
  let sh := s.dev (e + 51) 1
  if sh = 0 then s
  else
    let n := s.clogN c
    let s : State := if (n + 1) % 2 ^ 32 = 0 then s.modMgmt fun m => { m with clogHi := assocSet m.clogHi c ((n + 1) / 2 ^ 32) } else s
    let s := s.deviceWrite (s.dev (e + 56) 8 + 256 * (n % 2 ^ sh))
      (leBytes 256 (fields [(1216, n), (1152, addr), (1144, len), (1140, kind), (0, payload)]))
    s.deviceWrite (e + 52) (leBytes 4 ((n + 1) % 2 ^ 32))

/-! ### Taking ring entries (17 R295, R296) -/

/-- The ring entry at a physical address. -/
def ringEntryAt (s : State) (a : Nat) : BitVec 128 := BitVec.ofNat 128 (s.dev a 16)

/-- The module writes STATUS of a ring entry. -/
def ringStatus (s : State) (a st : Nat) : State := s.deviceWrite (a + 9) [BitVec.ofNat 8 st]

/-- Reserved bits of a ring entry, or its TYPE, are invalid. -/
def badEntry (e : BitVec 128) : Bool := e.extractLsb' 80 48 != 0 || e.extractLsb' 68 4 != 0 || 3 ≤ (e.extractLsb' 64 4).toNat

/-- The step that takes the ring entry at `a`, of index `n`. -/
def takeStep (s : State) (c a n : Nat) : Due :=
  let ev : Instr := match ((s.ringEntryAt a).extractLsb' 64 4).toNat with
    | 1 => .graphLoad
    | 2 => .graphUnload
    | _ => .launchEntry
  ⟨s.cycle, ev, { ctx := c, addr := a, id := n }⟩

/-- The step takes a ring entry of the context. -/
def Due.takes (d : Due) (c : Nat) : Bool := d.arg.ctx = c && (d.ev = .launchEntry || d.ev = .graphLoad || d.ev = .graphUnload)

/-- An earlier ring entry of the context than the one under execution has still to be taken, indices counting modulo 2^32: when
it is next looked at. Entries are taken in ring order, one at a time (17 R295). -/
def ringBehind (s : State) (c : Nat) : Option Nat :=
  let earlier := fun (n : Nat) => let d := (s.arg.id + 2 ^ 32 - n) % 2 ^ 32; d != 0 && d < 2 ^ 31
  let ds := s.agenda.filter fun d => Due.takes d c && earlier d.arg.id
  ds.foldl (fun m d => some (max d.at_ (m.getD 0))) none

/-- A ring entry is taken in its turn: behind earlier ones, which may await host or peer memory, or, where its own reads need such memory,
once they are answered. -/
def takeInTurn (s : State) (c : Nat) (ev : Instr) (parts : List (Nat × Nat)) (go : State → State) : State :=
  match s.ringBehind c with
  | some d => s.after (d - s.cycle) ev s.arg
  | none => match s.awaits (c + 1) c parts with
    | (s, true) => s.after 64 ev s.arg
    | (s, false) => (go s).farDone (c + 1)

/-- A ring command (17 R295): the entries from take to RINGTAIL − 1 are taken next, in order, before the command completes. -/
def takeRing (s : State) (c : Nat) : Option State :=
  let k := s.ctx c
  let tail := s.dev (s.ctxRecord c + 48) 4
  let n := (tail + 2 ^ 32 - k.take.toNat) % 2 ^ 32
  if k.ringsz.toNat < n then none
  else
    let steps := (List.range n).map fun i =>
      let n := (k.take.toNat + i) % 2 ^ 32
      s.takeStep c (k.ring.toNat + 16 * (n % k.ringsz.toNat)) n
    let s := s.modCtx c fun k => { k with take := BitVec.ofNat 32 tail }
    some { s with agenda := steps ++ s.agenda }

/-! ### Launch (17 R296 to R299) -/

/-- Fixes the age stamps of a grid's teams (17 R299): the grid with its first stamp. -/
def stampGrid (s : State) (g : Grid) : State × Grid :=
  let now := s.gtime / 16
  let (tick, seq) := if s.time.tick < now then (now, 0) else (s.time.tick, s.time.seq)
  let n := seq + g.nTeams
  ({ s with time := { s.time with tick := tick + n / 128, seq := n % 128 } }, { g with tick0 := tick, seq0 := seq })

/-- A grid is added; its number. -/
def addGrid (s : State) (g : Grid) : State × Nat := ({ s with grids := s.grids ++ [g] }, s.grids.length)

/-- Some rectangle of the partition's cores has the shape (18 R321). -/
def shapeFits (s : State) (ctx rows cols : Nat) : Bool :=
  (rectangles rows cols).any fun cores => cores.all fun c =>
    (s.partEntry (s.ctx ctx).part).getLsbD (islandOf c) && !s.repair.absent.contains c

/-- The lowest STATUS a launch record is rejected with, above 0x11. -/
def launchStatus (s : State) (c : Nat) (r : BitVec 1024) : Option Nat :=
  let f := launchField r
  let rows := f 180 4
  let cols := f 176 4
  let teams := f 144 32
  if f 749 275 != 0 || f 210 14 != 0 || f 142 2 != 0 then some 0x12
  else match (launchShape r).status with
  | some x => some x
  | none =>
    if !shapeOk rows cols || teams = 0 || teams % (rows * cols) != 0 || !s.shapeFits c rows cols then some 0x16
    else if f 748 1 = 1 && f 736 12 != c then some 0x17
    else if f 0 64 % 4 != 0 then some 0x18
    else none

/-- The grid that a launch record starts. -/
def launchGrid (s : State) (c a : Nat) (addr : DWord) (r : BitVec 1024) : Grid :=
  let f := launchField r
  { ctx := c, ringEntry := some a, record := addr, rows := f 180 4, cols := f 176 4, split := splitOf (f 192 18)
    nTeams := f 144 32, width := f 128 8, groups := f 136 6, vregs := 16 * f 184 8, scratchSize := f 224 32
    entry := r.extractLsb' 0 64, args := r.extractLsb' 64 64, params := wordsFrom r 256 15, node := none, batch := none
    tick0 := 0, seq0 := 0, nextCluster := 0, left := f 144 32, since := s.cycle, dead := false }

/-- The reads that a launch entry needs: its record of 128 bytes (17 R297). -/
def launchParts (s : State) (a : Nat) : List (Nat × Nat) :=
  let e := s.ringEntryAt a
  let addr := (e.extractLsb' 0 64).toNat
  if badEntry e || addr % 64 != 0 then [] else pieces64 addr 2

/-- A launch entry is taken: rejected with its lowest cause, or its grid begins. -/
def takeLaunch (s : State) (c a : Nat) : State :=
  let e := s.ringEntryAt a
  let addr := e.extractLsb' 0 64
  if badEntry e then s.ringStatus a 0x10
  else if addr.toNat % 64 != 0 then s.ringStatus a 0x11
  else match s.modulePieces c addr.toNat 2 with
  | (s, none) => s.ringStatus a 0x11
  | (s, some b) =>
    let r := BitVec.ofNat 1024 (leNat b)
    match s.launchStatus c r with
    | some st => s.ringStatus a st
    | none =>
      let (s, g) := s.stampGrid (s.launchGrid c a addr r)
      let (s, n) := s.addGrid g
      let s := (s.ringStatus a 1).commandLog c 1 addr.toNat 128 r.toNat
      (s.nextCluster n).lookDispatch c

/-! ### Graphs (17 R302 to R304) -/

/-- Reads `n` node descriptors. -/
def readNodes (s : State) (c table : Nat) : Nat → State × Option (List (BitVec 1024))
  | 0 => (s, some [])
  | n + 1 => match s.modulePieces c table 2 with
    | (s, none) => (s, none)
    | (s, some b) => match s.readNodes c (table + 128) n with
      | (s, none) => (s, none)
      | (s, some l) => (s, some (BitVec.ofNat 1024 (leNat b) :: l))

/-- A team that a node launched has not ended. -/
def nodeTeams (s : State) (c : Nat) : Bool := s.teams.any fun m => m.ctx = c && m.node.isSome && m.status != .ended

/-- The graph that a header and its descriptors make. -/
def newGraph (h : BitVec 512) (ds : List (BitVec 1024)) (ls : List Nat) : Graph :=
  let table := (h.extractLsb' 0 64).toNat
  { binArea := h.extractLsb' 128 64, batchArea := h.extractLsb' 64 64, batches := []
    nodes := (placed 0 (ds.zip ls)).map fun k =>
      { desc := k.2.1, addr := BitVec.ofNat 64 (table + 128 * k.1), path := k.2.2, bin := [], reserved := 0, timer := none, expired := false } }

/-- The read of the header that a graph load needs (17 R302). -/
def headerParts (s : State) (a : Nat) : List (Nat × Nat) :=
  let e := s.ringEntryAt a
  let addr := (e.extractLsb' 0 64).toNat
  if badEntry e || addr % 64 != 0 then [] else [(addr, 64)]

/-- The reads of the node descriptors that the header names, once it can be read (17 R303). -/
def nodeParts (s : State) (c a : Nat) : List (Nat × Nat) :=
  match s.headerParts a with
  | [] => []
  | p :: _ =>
    match (s.moduleRead c p.1 64).2 with
    | none => []
    | some b =>
      let h := BitVec.ofNat 512 (leNat b)
      let table := (h.extractLsb' 0 64).toNat
      if table % 128 = 0 then pieces64 table (2 * ((h.extractLsb' 192 8).toNat + 1)) else []

/-- A graph load is taken (17 R303, R304). -/
def takeGraph (s : State) (c a : Nat) : State :=
  let e := s.ringEntryAt a
  let addr := (e.extractLsb' 0 64).toNat
  if badEntry e then s.ringStatus a 0x10
  else if addr % 64 != 0 then s.ringStatus a 0x11
  else match s.moduleRead c addr 64 with
  | (s, none) => s.ringStatus a 0x11
  | (s, some b) =>
    let h := BitVec.ofNat 512 (leNat b)
    let n := (h.extractLsb' 192 8).toNat + 1
    let table := (h.extractLsb' 0 64).toNat
    match if table % 128 = 0 then s.readNodes c table n else (s, some []) with
    | (s, none) => s.ringStatus a 0x11
    | (s, some ds) =>
      let ls := pathValues ds n
      if h.extractLsb' 200 312 != 0 || h.extractLsb' 128 16 != 0 || h.extractLsb' 64 16 != 0 || table % 128 != 0 then s.ringStatus a 0x20
      else if !(ds.all (nodeOk n) && s.shapeFits c 1 1) then s.ringStatus a 0x20
      else if ls.any fun l => l.isNone then s.ringStatus a 0x21
      else if (s.ctx c).graph.isSome then s.ringStatus a 0x22
      else
        let s := s.modCtx c fun k => { k with graph := some (newGraph h ds (ls.filterMap id)) }
        (s.ringStatus a 1).commandLog c 3 addr 16 e.toNat

/-- A graph unload is taken (17 R296, R304). -/
def takeUnload (s : State) (c a : Nat) : State :=
  let e := s.ringEntryAt a
  let busy := match (s.ctx c).graph with
    | some g => g.nodes.any fun k => !k.bin.isEmpty || k.reserved != 0
    | none => false
  if badEntry e then s.ringStatus a 0x10
  else if busy || s.nodeTeams c then s.ringStatus a 0x22
  else
    let s := s.modCtx c fun k => { k with graph := none }
    (s.ringStatus a 1).commandLog c 3 (e.extractLsb' 0 64).toNat 16 e.toNat

/-! ### Dispatch of node teams (17 R305 to R308) -/

/-- The node is eligible (17 R306). -/
def eligible (k : Node) : Bool := nodeCoal k.desc ≤ k.bin.length || (k.expired && !k.bin.isEmpty)

/-- The eligible nodes of a graph in ranking order. -/
def ranked (g : Graph) : List (Nat × Node) :=
  let es := (placed 0 g.nodes).filter fun k => eligible k.2
  let oldest := fun (k : Node) => match k.bin with
    | r :: _ => r.since
    | [] => 0
  sortBy (fun (k : Nat × Node) => 2 ^ 32 - k.2.path) (sortBy (fun (k : Nat × Node) => oldest k.2) es)

/-- The records that a launch takes (17 R307): the oldest, none that entered in this cycle. -/
def taken (s : State) (k : Node) : List BinRec :=
  (k.bin.filter fun r => r.since < s.cycle).take (nodeCoal k.desc)

/-- The batches in use of a context: offset and bytes. -/
def usedBatches (s : State) (c : Nat) : List (Nat × Nat) :=
  s.teams.filterMap fun m => match m.batch, m.node with
    | some b, some n => if m.ctx = c && m.status != .ended then
        some (b, (m.params.headD 0).toNat * (match s.node? c n with
          | some k => nodeRsize k.desc
          | none => 256)) else none
    | _, _ => none

/-- The first place in the batch area for a batch (17 R302). -/
def batchPlace (s : State) (c n : Nat) : Option Nat :=
  let used := s.usedBatches c
  let starts := sortBy id (0 :: used.map fun b => b.1 + b.2)
  starts.find? fun a => a + n ≤ 1048576 && !(used.any fun b => a < b.1 + b.2 && b.1 < a + n)

/-- The module stores bytes of a line in host or peer memory for a context: a posted write or a write of a peer (23 R358, R368). -/
def farStore (s : State) (c : Nat) (p : Phys) (b : List Byte) : State :=
  if p.tgt = 2 then s.postHost ⟨p.pa / 128 * 128, bytesAt (p.pa % 128) b, true, none, false⟩
  else s.sendFor (s.ctx c).part (.write p.peer (p.pa / 128) (bytesAt (p.pa % 128) b))

/-- Writes a batch through the context's page tables, 16 bytes at a time; a piece that no leaf permits goes nowhere. -/
def writeBatch (s : State) (c va : Nat) : List Byte → Nat → State
  | _, 0 => s
  | b, n + 1 =>
    let (s, p) := s.moduleAt c va 16 true
    let s : State := match p with
      | some p => if p.tgt ≤ 1 then s.deviceWrite p.key (b.take 16) else s.farStore c p (b.take 16)
      | none => s
    s.writeBatch c (va + 16) (b.drop 16) n

/-- The grid of a node's launch (17 R307, R308): one team, the batch and its count, ENTRY as it stands now. -/
def nodeGrid (s : State) (c n : Nat) (k : Node) (entry : DWord) (batch count : Nat) (area : DWord) : Grid :=
  let x := nodeShape k.desc
  { ctx := c, ringEntry := none, record := k.addr, rows := 1, cols := 1, split := splitOf x.split, nTeams := 1
    width := x.width, groups := x.groups, vregs := 16 * x.regs, scratchSize := x.scratch, entry := entry
    args := area + BitVec.ofNat 64 batch, params := BitVec.ofNat 32 count :: wordsFrom k.desc 320 14, node := some n
    batch := some batch, tick0 := 0, seq0 := 0, nextCluster := 0, left := 1, since := s.cycle, dead := false }

/-- What a launch leaves of its node's bin: the timer starts again from the oldest record left (17 R306). -/
def afterTake (s : State) (c n : Nat) (count : Nat) : State :=
  let s := s.modNode c n fun k => { k with bin := k.bin.drop count, timer := none, expired := false }
  match s.node? c n with
  | none => s
  | some k => match k.bin with
    | [] => s
    | r :: _ =>
      let s := s.modNode c n fun k => { k with timer := some r.since }
      let (d, s) := s.draw (usCycles + 1)
      s.after (r.since + nodeTimer k.desc * usCycles + d - s.cycle) .nodeTimerExpiry { ctx := c, id := n, len := r.since }

/-- Tries to launch a team for a node; none where it fits nowhere. -/
def tryNode (s : State) (c : Nat) (area : DWord) (n : Nat) (k : Node) : Option State :=
  let rs := s.taken k
  let rsize := nodeRsize k.desc
  if rs.isEmpty then none
  else match s.batchPlace c (rs.length * rsize) with
  | none => none
  | some at_ =>
    let (s, e) := s.moduleRead c k.addr.toNat 8
    let (entry, s) := match e with
      | some b => (leNat b, s)
      | none => s.draw (2 ^ 64)
    let (s, g) := s.stampGrid (s.nodeGrid c n k (BitVec.ofNat 64 (entry / 4 * 4)) at_ rs.length area)
    let (s, grid) := s.addGrid g
    let s := s.nextCluster grid
    let cl := s.clusters.length - 1
    match s.clusterFits cl [] with
    | none => none
    | some spots =>
      let bytes := rs.flatMap fun r => r.bytes
      let s := s.writeBatch c (area.toNat + at_) bytes (bytes.length / 16)
      let s := s.modCtx c fun x => { x with graph := x.graph.map fun (y : Graph) => { y with batches := y.batches ++ [at_] } }
      some ((s.afterTake c n rs.length).placeCluster cl spots)

/-- The first node in ranking order whose team fits is launched; whether one was (17 R306). -/
def dispatchNode (s : State) (c : Nat) : State × Bool := match (s.ctx c).graph with
  | none => (s, false)
  | some g => match (ranked g).findSome? fun k => s.tryNode c g.batchArea k.1 k.2 with
    | some s' => (s', true)
    | none => (s, false)

/-- The reads of the ENTRY fields that a dispatch may need. -/
def entryParts (s : State) (c : Nat) : List (Nat × Nat) := match (s.ctx c).graph with
  | none => []
  | some g => ((ranked g).filter fun k => !(s.taken k.2).isEmpty).map fun k => (k.2.addr.toNat, 8)

/-- An eligible node whose records all came in this cycle is looked at in the next. -/
def lookAgain (s : State) (c : Nat) : Bool := match (s.ctx c).graph with
  | none => false
  | some g => g.nodes.any fun k => eligible k && (s.taken k).isEmpty

end State

/-- RING (R295, R311): re-reads RINGTAIL and takes entries; an overrun takes nothing and adds an error. -/
def execRingCommand (s : State) : Host.Outcome State Fault Refusal := .next (s.command fun s => s.takeRing s.arg.ctx)

/-- LAUNCH_ENTRY (R296). -/
def execLaunchEntry (s : State) : Host.Outcome State Fault Refusal :=
  let c := s.arg.ctx
  let a := s.arg.addr
  .next (s.takeInTurn c .launchEntry (s.launchParts a) fun s => s.takeLaunch c a)

/-- GRAPH_LOAD (R302 to R304): the header, then the descriptors that it names. -/
def execGraphLoad (s : State) : Host.Outcome State Fault Refusal :=
  let c := s.arg.ctx
  let a := s.arg.addr
  .next (s.takeInTurn c .graphLoad (s.headerParts a ++ s.nodeParts c a) fun s => s.takeGraph c a)

/-- GRAPH_UNLOAD (R304). -/
def execGraphUnload (s : State) : Host.Outcome State Fault Refusal :=
  let c := s.arg.ctx
  let a := s.arg.addr
  .next (s.takeInTurn c .graphUnload [] fun s => s.takeUnload c a)

/-- A node's timer expires (R306): with records in its bin the node becomes eligible. -/
def execNodeTimerExpiry (s : State) : Host.Outcome State Fault Refusal :=
  let c := s.arg.ctx
  let n := s.arg.id
  .next (match s.node? c n with
    | some k =>
      if k.timer = some s.arg.len && !k.bin.isEmpty then
        (s.modNode c n fun k => { k with expired := true }).afterOnce 1 .nodeDispatch { ctx := c }
      else s
    | none => s)

/-- NODE_DISPATCH (R306, R307): one team for the highest-ranked node that fits; a launch is followed by another look. A team that
waits in the partition and fits has begun to wait earlier, and is placed first (19 R335). -/
def execNodeDispatch (s : State) : Host.Outcome State Fault Refusal :=
  let c := s.arg.ctx
  .next (if s.olderFits (s.ctx c).part then (s.afterOnce 1 .clusterPlacement {}).afterOnce 1 .nodeDispatch { ctx := c }
    else match s.awaits (c + 1) c (s.entryParts c) with
    | (s, true) => s.afterOnce 64 .nodeDispatch { ctx := c }
    | (s, false) => match s.dispatchNode c with
      | (s', true) => (s'.farDone (c + 1)).after 0 .nodeDispatch { ctx := c }
      | (s', false) =>
        let s' := s'.farDone (c + 1)
        if s'.lookAgain c then s'.afterOnce 1 .nodeDispatch { ctx := c } else s')

end Sys2Proof.Machine
end

