-- ==== Sys2Proof/Machine/HostPort.lean ====
section
/-! DEFINITION. The host port and the pool ports (23 R357 to R364): completions of the module's requests, BAR2 reads,
writes and AtomicOps, the standby port, snoops of a pool shelf, a pool port that does not answer. -/

namespace Sys2Proof.Machine

namespace State

/-! ### Answers to threads and engines -/

/-- A thread that waits for the answer takes it when it issues its bundle again. -/
def answerThread (s : State) (id : Nat) (r : Reply) (t : Tid) : State :=
  match (s.thread t).wait with
  | .answer n _ _ => if n = id then s.modThread t fun x => { x with reply := r } else s
  | _ => s

/-- An engine that awaits the answer takes its bytes or its error. -/
def answerEngines (s : State) (id : Nat) (r : Reply) : State :=
  let places := s.cores.flatMap fun k => [(k.1, 0), (k.1, 1)]
  places.foldl (fun s p => match s.engine p.1 p.2 with
    | none => s
    | some k => match k.ask with
      | none => s
      | some (n, key, len) =>
        if n != id then s
        else
          let s := s.modEngine p.1 p.2 fun k => match r with
            | .data x => { k with ask := none, got := k.got ++ bytesAt key (leBytes len x.toNat) }
            | .failed c => { k with ask := none, bad := some c }
            | _ => { k with ask := none, bad := some .accessViolation }
          s.lookEngine p.1 p.2 1) s

/-- A line of code arrives for a thread, or its fetch fails with its cause at the word that lies in the line (23 R358,
R359). -/
def answerFetch (s : State) (id key : Nat) (r : Reply) (t : Tid) : State :=
  match (s.thread t).wait with
  | .answer n _ _ =>
    if n != id then s
    else
      let s := s.modThread t fun x => { x with wait := .none, reply := .none }
      match r with
      | .data x => s.modCore (s.coreNum t) fun k => { k with code := k.code.filter (fun c => c.1 != lineOf key) ++ [(lineOf key, x)] }
      | .failed c =>
        let pc := (s.thread t).pc
        let here := pc.toNat % 65536 / 128 = key % 65536 / 128
        s.takeTrap t (Request.of c (if here then pc else (pc &&& ~~~(127 : DWord)) + 128))
      | _ => s
  | _ => s

/-- Answers a host request (23 R359, R360). -/
def answerHost (s : State) (q : HostReq) (r : Reply) : State :=
  let s := s.modHost fun h => { h with reqs := h.reqs.filter fun x => x.id != q.id }
  if q.fetch then q.waiters.foldl (answerFetch · q.id (2 * 2 ^ 48 + q.addr) r ·) s
  else ((q.waiters.foldl (answerThread · q.id r ·) s).answerEngines q.id r).answerFar q.id r

/-- What a completion answers (23 R359, R360). -/
def replyOf (q : HostReq) : Completion → Reply
  | .success x => .data x
  | .unsupported => if q.op.isSome then .unsupported else .failed .accessViolation
  | .abort => .failed .accessViolation
  | .poisoned => .failed .dataPoison

/-- The request with an identity. -/
def hostReq? (s : State) (id : Nat) : Option HostReq := s.host.reqs.find? fun r => r.id = id

/-! ### BAR2 (23 R361) -/

/-- A granule that holds bytes of a range is held by a task (08 R185). -/
def rangeHeld (s : State) (a n : Nat) : Bool :=
  s.home.claims.any fun c => a < c.gran * 256 + 256 && c.gran * 256 < a + n

/-- A granule of a range is committing (12 R257). -/
def rangeCommitting (s : State) (a n : Nat) : Bool :=
  s.home.claims.any fun c => c.committing && a < c.gran * 256 + 256 && c.gran * 256 < a + n

/-- A line of a range is poisoned (27 R400). -/
def rangePoisoned (s : State) (a n : Nat) : Bool := s.poison.any fun l => l * 128 < a + n && a < l * 128 + 128

/-- The contexts whose command log is on: those whose CLOGSH is not 0 (25 R377, R388). -/
def loggingCtxs (s : State) : List Nat :=
  let t := s.persEntry 0
  s.mem.filterMap fun b => if t ≤ b.1 && b.1 < t + 64 * 4096 && (b.1 - t) % 64 = 51 then some ((b.1 - t) / 64) else none

/-- A part of a host write is logged for each context whose window it falls in (25 R388). -/
def logPart (s : State) (a n : Nat) (b : List Byte) : State :=
  s.loggingCtxs.foldl (fun s c =>
    let e := s.persEntry c
    let base := s.dev (e + 8) 8
    let size := s.dev (e + 4) 4 * 65536
    if a < base + size && base < a + n then s.commandLog c 2 a n (leNat b) else s) s

/-- The lines of `n` bytes at a location. -/
def linesAt (a n : Nat) : List Nat := (lineParts a n n).map fun p => lineOf p.1

/-- A home refuses a port's request for one of the lines now, or has refused it (11 R247). -/
def portHeld (s : State) (port : Nat) (lines : List Nat) : Bool :=
  lines.any fun l => s.lineTaken (.port port) l || s.backingOff (.port port) l

/-- The request is refused for those of its lines that are taken; the step `ev` makes it again. -/
def portRefused (s : State) (port : Nat) (lines : List Nat) (ev : Instr) (arg : EvArg) : State :=
  (lines.filter fun l => s.lineTaken (.port port) l && !s.backingOff (.port port) l).foldl
    (fun s l => s.refuseTo (.port port) l ev arg) s

/-- The request is granted. -/
def portGranted (s : State) (port : Nat) (lines : List Nat) : State :=
  if s.home.refused.isEmpty then s else lines.foldl (fun s l => s.granted (.port port) l) s

/-- A host write is applied at its home, part by part; given copies are invalidated before it is acknowledged. -/
def applyInbound (s : State) (w : Inbound) : State :=
  (lineParts w.addr w.bytes.length w.bytes.length).foldl (fun s p =>
    let b := (w.bytes.drop (p.1 - w.addr)).take p.2
    (s.deviceWrite p.1 b).logPart p.1 p.2 b) (s.portGranted 0 (linesAt w.addr w.bytes.length))

/-- The first host write that may be applied now: a held granule holds it back, or a home that refuses it (11 R247), and with
Relaxed Ordering clear it follows the earlier such writes. -/
def nextInbound (s : State) : List Inbound → Bool → Option Inbound
  | [], _ => none
  | w :: l, strictBehind =>
    let held := s.rangeHeld w.addr w.bytes.length || s.portHeld 0 (linesAt w.addr w.bytes.length)
    if !held && (w.relaxed || !strictBehind) then some w
    else s.nextInbound l (strictBehind || !w.relaxed)

/-- Applies one host write that may be applied; the rest are looked at again. -/
def pumpInbound (s : State) : State :=
  let s := s.host.inbound.foldl (fun s w => s.portRefused 0 (linesAt w.addr w.bytes.length) .hostBar2Write {}) s
  match s.nextInbound s.host.inbound false with
  | some w =>
    let s := s.modHost fun h => { h with inbound := h.inbound.erase w }
    let s := s.applyInbound w
    if s.host.inbound.isEmpty then s else s.afterOnce 1 .hostBar2Write {}
  | none => if s.host.inbound.isEmpty then s else s.afterOnce 64 .hostBar2Write {}

/-- The new value of a host AtomicOp (23 R357): FetchAdd, Swap, CAS. -/
def hostOpNew (op : HostOp) (n o x y : Nat) : Nat := match op with
  | .fetchAdd => (o + x) % 256 ^ n
  | .swap => x % 256 ^ n
  | .cas => if o = x % 256 ^ n then y % 256 ^ n else o

/-- Sends an answer to the host. -/
def answerBar2 (s : State) (a : HostAnswer) : State := s.modHost fun h => { h with answers := a :: h.answers }

/-! ### Snoops (23 R364) -/

/-- A snoop of a pool line: dirty private copies go home, every copy is invalidated, the home's own with them; the answer
follows, and then what another host has written there. A home with a write in progress refuses it (11 R247). A private copy that
cannot be written back holds the answer back, and one whose unit cannot be copied raises its page request (25 R380); the other
copies go meanwhile. -/
def snoop (s : State) (line : Nat) (bytes : List Byte) : State :=
  if s.backingOff (.port 0) line then s.after 64 .backInvalidate s.arg
  else if s.lineTaken (.port 0) line then s.refuseTo (.port 0) line .backInvalidate s.arg
  else
    let s := (s.granted (.port 0) line).writeBackEach (fun _ p => p.line = line) false
    if s.clusters.any fun (k : Cluster) => k.privs.any fun p => p.line = line then s.after 64 .backInvalidate s.arg
    else
      let s := (((s.dropL1All fun x => x.line = line).staleFills line).l2Drop line none).sendFabric (.snooped line)
      if bytes.isEmpty then s else { s with mem := s.mem.putAll (bytesAt (line * 128) (bytes.take 128)) }

end State

open State

/-- HOST_COMPLETION (R359, R360). -/
def execHostCompletion (s : State) : Host.Outcome State Fault Refusal :=
  .next (match s.hostReq? s.arg.id with
    | some q => s.answerHost q (replyOf q s.arg.result)
    | none => s)

/-- HOST_COMPLETION_TIMEOUT (R359): no completion within 50 ms is LINK_LOST. -/
def execHostCompletionTimeout (s : State) : Host.Outcome State Fault Refusal :=
  .next (match s.hostReq? s.arg.id with
    | some q => s.answerHost q (.failed .linkLost)
    | none => s)

/-- HOST_BAR2_READ (R361): the home's value; poison gives EP (27 R400); a committing granule makes it wait (12 R257). -/
def execHostBar2Read (s : State) : Host.Outcome State Fault Refusal :=
  let a := s.arg.addr
  let n := s.arg.len
  .next (if s.rangeCommitting a n then s.after 64 .hostBar2Read s.arg
    else s.answerBar2 ⟨a, s.mem.bytes a n, s.rangePoisoned a n, true⟩)

/-- HOST_BAR2_WRITE (R361): a posted write arrives; writes are applied in their order. -/
def execHostBar2Write (s : State) : Host.Outcome State Fault Refusal :=
  let w : Inbound := ⟨s.arg.addr, s.arg.bytes, s.arg.ok⟩
  .next (State.pumpInbound (if w.bytes.isEmpty then s else s.modHost fun h => { h with inbound := h.inbound ++ [w] }))

/-- HOST_ATOMICOP (R357, R361): performed at the home as a device-scope atomic, unless the home refuses it (11
R247); 128 bits are unsupported; nothing is
performed on a poisoned line (27 R400). -/
def execHostAtomicop (s : State) : Host.Outcome State Fault Refusal :=
  let a := s.arg.addr
  let n := s.arg.len
  let old := s.mem.bytes a n
  .next (if n != 4 && n != 8 then s.answerBar2 ⟨a, [], false, false⟩
    else if s.rangeHeld a n || s.backingOff (.port 0) (lineOf a) then s.after 64 .hostAtomicop s.arg
    else if s.lineTaken (.port 0) (lineOf a) then s.refuseTo (.port 0) (lineOf a) .hostAtomicop s.arg
    else if s.poisoned (lineOf a) then s.answerBar2 ⟨a, old, true, true⟩
    else
      let new := hostOpNew s.arg.op n (leNat old) s.arg.x.toNat s.arg.y.toNat
      ((s.granted (.port 0) (lineOf a)).deviceWrite a (leBytes n new)).answerBar2 ⟨a, old, false, true⟩)

/-- PORT_FAILOVER (R362): the other port takes over; AtomicOps outstanding are lost, reads and the last `len` posted
writes are sent again. -/
def execPortFailover (s : State) : Host.Outcome State Fault Refusal :=
  let again := s.host.posted.drop (s.host.posted.length - s.arg.len)
  let s := s.modHost fun h => { h with active := 1 - h.active, posted := h.posted ++ again }
  .next ((s.host.reqs.filter fun r => r.op.isSome).foldl (fun s q => s.answerHost q (.failed .linkLost)) s)

/-- BACK_INVALIDATE (R364): `addr` is a line of the pool. -/
def execBackInvalidate (s : State) : Host.Outcome State Fault Refusal := .next (s.snoop s.arg.addr s.arg.bytes)

/-- POOL_TIMEOUT (R364): a pool port has not answered for 50 ms, or (`ok`) answers again; accesses to one that does not
trap LINK_LOST. -/
def execPoolTimeout (s : State) : Host.Outcome State Fault Refusal :=
  let rest := s.fab.poolDown.filter fun p => p != s.arg.id
  .next (s.modFab fun f => { f with poolDown := if s.arg.ok then rest else insertBy id s.arg.id rest })

end Sys2Proof.Machine
end

