-- ==== Sys2Proof/Machine/Issue.lean ====
section
/-! DEFINITION. Selection (09 R212 to R216): which threads can issue, the units at an entry, the guard and the age rule,
the issue group; the end of a cycle; the mapped opcode space (04 R90). -/

namespace Sys2Proof.Machine

/-- What a mapped word does under a decode-table entry (04 R89, R90). -/
inductive Mapped where
  | illegal
  | emulate
  | target (d : Decoded)
  deriving DecidableEq, Repr

/-- The word of a mapped opcode under its table entry: ACT 1 decodes it in TARGET's format (04 R90). -/
def mappedBy (e : BitVec 16) (p : Pfx) (w : Word) : Mapped :=
  let act := (e.extractLsb' 14 2).toNat
  let op := (e.extractLsb' 0 10).toNat
  if e.extractLsb' 10 4 != 0 then .illegal
  else if act = 1 then
    if assigned op then .target (finish p p.words.length (BitVec.ofNat 32 (op * 2 ^ 22) ||| (w.extractLsb' 0 22).zeroExtend 32))
    else .illegal
  else if act = 2 then .emulate
  else .illegal

namespace State

/-- The decode-table entry of a mapped word as its team read it (04 R91). -/
def tableEntry (s : State) (n : Nat) (w : Word) : BitVec 16 := nthD 0 (s.team n).dtab (opcodeOf w - 0x380)

/-- The instruction whose operands a thread's bundle has: a mapped word's target where it executes as one (04 R90). -/
def effective (s : State) (n : Nat) : Instr → Instr
  | .mappedOpcode p w => match mappedBy (s.tableEntry n w) p w with
    | .target (.ok i) => i
    | _ => .mappedOpcode p w
  | i => i

/-- What stands at a thread's program counter. -/
def peek (s : State) (t : Tid) : Bundle := (s.fetchBundle t.team (s.thread t).pc).2

/-- Nothing outside its bundle holds the thread: resident, not stopped, no wait; where its team is halted or its context
held, it still ends the bundle it is in (09 R213, 10 R225, R414, 18 R309, 19 R329). -/
def free (s : State) (t : Tid) : Bool :=
  let m := s.team t.team
  let x := s.thread t
  x.present && m.status = .resident && (!(m.halted || (s.ctx m.ctx).halt) || s.inBundle t) && x.stop.isNone && s.waitOver t

/-- The thread may issue its bundle in this cycle under its stall count (04 R81). -/
def due (s : State) (t : Tid) : Bool := s.free t && s.earliest t ≤ s.cycle && (s.thread t).entry != 256

/-- A register that the bundle reads or writes has a variable-latency result under way (04 R85). -/
def interlocked (s : State) (t : Tid) (i : Instr) : Bool :=
  (i.reads ++ i.writes).any fun r => (s.groupOf t).pend.any fun e => e.due.isNone && s.writesReg t r e

/-- A convergent unit waits for a result under way (04 R85): to a register it writes, to a uniform, mask or address register it
reads, or to a vector register of one of the threads whose own it reads. -/
def unitInterlocked (s : State) (i : Instr) (ts : List Tid) : Bool :=
  let coming := fun (t : Tid) (rs : List Reg) => rs.any fun r => (s.groupOf t).pend.any fun e => e.due.isNone && s.writesReg t r e
  ts.any (fun u => coming u (i.writes ++ i.reads.filter fun r => !r.isVector)) ||
  (s.readers i ts).any fun u => coming u (i.reads.filter Reg.isVector)

/-- A thread that a convergent bundle passes does not wait for it (05 R105): of results under way it waits for one to the
governing mask, and under z for one to what it is to write (04 R85). -/
def passerInterlocked (s : State) (t : Tid) (i : Instr) : Bool :=
  ((.k i.pfx.k : Reg) :: if i.pfx.z then i.writes else []).any fun r => (s.groupOf t).pend.any fun e => e.due.isNone && s.writesReg t r e

/-- The queue that the bundle needs a place in is full (06 R148, 08 R194); a copy with a cause that comes before that wait is
not held by it (R413). -/
def queueFull (s : State) (t : Tid) (i : Instr) : Bool :=
  if 0x120 ≤ i.opcode && i.opcode ≤ 0x12A then !s.sfRoom (s.coreNum t) (sfQueue t)
  else match i with
    | .cpy f | .cpyg f | .cpys f | .cpyr f => s.copyFull (s.coreNum t) && (s.copyEarly t f).isNone
    | _ => false

/-- The unit that a thread leads or is (09 R213): itself; or, at a convergent bundle it is governed by, its group's governed
threads, led by the lowest. None where the unit is not ready: a thread that passes a bundle that is not convergent waits too
for a result under way to a register that the bundle names (04 R85, 15 R291). -/
def unitOf (s : State) (t : Tid) : Option (List Tid) :=
  if !s.due t then none
  else match s.peek t with
    | .ok j _ =>
      let i := s.effective t.team j
      if i.info.conv && s.governed t i && (s.decodeTrap t i).isNone then
        let pc := (s.thread t).pc
        let ts := (s.tids t.team).filter fun u => u.grp = t.grp && s.governed u i
        if ts.head? = some t && ts.all (fun u => (s.thread u).pc = pc && s.due u && (s.decodeTrap u i).isNone) &&
            !s.unitInterlocked i ts then some ts else none
      else if i.info.conv && (s.decodeTrap t i).isNone then if s.passerInterlocked t i then none else some [t]
      else if (s.decodeTrap t i).isNone && (s.interlocked t i || (s.governed t i && s.queueFull t i)) then none
      else some [t]
    | _ => some [t]

/-- The ready units of an entry's threads. -/
def unitsAt (s : State) (c entry : Nat) : List (List Tid) :=
  ((s.coreTids c).filter fun t => (s.thread t).entry = entry).filterMap s.unitOf

/-- A unit's stamp: the oldest of its threads (09 R213). -/
def unitStamp (s : State) (u : List Tid) : Nat := u.foldl (fun m t => min m (s.thread t).stamp) (s.thread (u.headD ⟨0, 0, 0⟩)).stamp

/-- A unit's lowest lane. -/
def unitLane (s : State) (u : List Tid) : Nat := u.foldl (fun m t => min m (s.lane t)) 64

/-- The entries of a core that hold threads, rising. -/
def entriesOf (s : State) (c : Nat) : List Nat := sortBy id (distinct ((s.coreTids c).map fun t => (s.thread t).entry))

/-- The entry selected: the one under the guard pointer if it holds a unit that was already ready in the previous cycle,
otherwise the one whose oldest ready unit is oldest, the lower of equals (09 R214). -/
def selectEntry (s : State) (c : Nat) : Option Nat :=
  let guard := ((s.core c).guard + s.cycle) % 256
  if (s.unitsAt c guard).any fun u => (s.core c).ready.any fun t => u.head? = some t then some guard
  else
    ((s.entriesOf c).foldl (fun (best : Option (Nat × Nat)) e =>
      match (s.unitsAt c e).map s.unitStamp with
      | [] => best
      | x :: l =>
        let m := l.foldl min x
        match best with
        | none => some (e, m)
        | some b => if m < b.2 then some (e, m) else some b) none).map fun b => b.1

/-- Takes units whose lanes are free, in order (09 R214, step 3). -/
def takeUnits (s : State) : List (List Tid) → List Nat → List Tid
  | [], _ => []
  | u :: us, taken =>
    let lanes := u.map s.lane
    if lanes.any fun l => taken.contains l then s.takeUnits us taken else u ++ s.takeUnits us (lanes ++ taken)

/-- The issue group of an entry, by rising lane (09 R214): units of a keyed entry in stamp order, the oldest unit of the
overflow entry. DESIGN CHOICE (log entry 93): units of one stamp and lane are taken by team, group and thread, and so are
those of the overflow entry after stamp and lane. -/
def issueGroup (s : State) (c entry : Nat) : List Tid :=
  let units := sortBy (fun u => s.unitStamp u * 64 + s.unitLane u) (s.unitsAt c entry)
  sortBy s.lane (if entry = 255 then units.headD [] else s.takeUnits units [])

/-- A core with an issue group that has not issued in this cycle. -/
def nextIssue (s : State) : Option (Nat × Nat) :=
  let cores := sortBy id (distinct (s.teams.filterMap fun m => if m.status = .resident then some m.core else none))
  cores.findSome? fun c =>
    if (s.core c).issued.any (fun i => i.1 = s.cycle) then none
    else (s.selectEntry c).map fun e => (c, e)

/-- A thread that stands at a PACE word, which takes no issue slot (04 R68). -/
def nextPace (s : State) : Option Tid :=
  ((List.range s.teams.length).flatMap s.tids).find? fun t => s.free t && (match s.peek t with
    | .ok (.pace _) _ => true
    | _ => false)

/-- YIELD ends for threads of other entries than the one that issues (05 R117). -/
def endYields (s : State) (c entry : Nat) : State :=
  ((s.coreTids c).filter fun t => match (s.thread t).wait with
    | .yield _ => (s.thread t).entry != entry
    | _ => false).foldl (fun s t => s.modThread t fun x => { x with wait := .none }) s

/-- The machine with an issue group under execution. -/
def issuing (s : State) (c : Nat) (ts : List Tid) (pc : DWord) (n : Nat) : State :=
  { s with cur := ⟨c, ts, pc, pc + BitVec.ofNat 64 (4 * (n - 1)), pc + BitVec.ofNat 64 (4 * n)⟩ }

/-- Asks for the line of code that holds an address: from the host 128 bytes (23 R358), once a locked line is free (R360);
from a peer as a read (R368). -/
def askCode (s : State) (t : Tid) (p : Phys) : State :=
  let pa := p.pa / 128 * 128
  if p.tgt = 2 then
    if s.hostLocked t (lineOf p.key) then s.modThread t fun x => { x with wait := .hostLine (lineOf p.key) }
    else if 2048 ≤ s.host.reqs.length then s.modThread t fun x => { x with wait := .tableRoom }
    else
      let (s, id) := s.hostRequest [t] pa 128 none 0 0 true
      s.modThread t fun x => { x with wait := .answer id [] false }
  else if !s.tableRoom (s.coreNum t) then s.modThread t fun x => { x with wait := .tableRoom }
  else
    let (s, id) := s.openTxn (s.coreNum t) (lineOf p.key) [t] [t] (s.thread t).pc true false
    (s.sendBy t.team (.read p.peer pa 128)).modThread t fun x => { x with wait := .answer id [] false }

/-! ### The end of a cycle -/

/-- Keyed entries whose last thread has left become free (09 R212). -/
def freeEntries (s : State) (c : Nat) : State :=
  let held := (s.coreTids c).map fun t => (s.thread t).entry
  s.modCore c fun k => { k with entries := k.entries.filter fun e => held.contains e.num }

/-- The threads that leave their entries in this cycle join new ones, by lane (09 R212). DESIGN CHOICE (log entry 93): keys
of one lowest lane are served by team, group and thread. -/
def joinAll (s : State) (c : Nat) : State :=
  (sortBy s.lane ((s.coreTids c).filter fun t => (s.thread t).entry = 256)).foldl (fun s t =>
    let stamp := (s.thread t).stamp
    (s.join t s.cycle).modThread t fun x => { x with stamp := stamp }) s

/-- The request of an asker for a line stands: of a group, a thread at its bundle that awaits it (or, where `again`, is to ask
again); of a store buffer, its entry; of an engine, its copy; of a slice, the dirty private copy; of a claim, who waits for the
granule; of a commit, the shadow line; of a port, what has arrived and waits. -/
def asks (s : State) (who : Asker) (line : Nat) (again : Bool) : Bool := match who with
  | .group n g pc =>
    let m := s.team n
    m.status = .resident && !m.halted && (s.tids n).any fun t => t.grp = g && (s.thread t).pc = pc && (match (s.thread t).wait with
      | .home l => l = line
      | .refused l => again && l = line
      | .none => again
      | _ => false)
  | .buffer c => (s.core c).sb.any fun e => e.line = line
  | .engine c e => (s.engine c e).isSome
  | .slice cl => (s.priv? cl line).any fun p => p.dirty
  | .claim g => (s.home.wants.any fun w => w.gran = g) || s.fab.asked.any fun w => w.gran = g
  | .commit n => s.home.shadows.any fun x => x.team = n && x.line = line
  | .port 0 => (s.host.inbound.any fun w => lineOf w.addr ≤ line && line * 128 < w.addr + w.bytes.length) ||
    s.agenda.any fun d => (d.ev = .hostAtomicop && lineOf d.arg.addr = line) || (d.ev = .backInvalidate && d.arg.addr = line)
  | .port (p + 1) => s.fab.waits.any fun w => w.1 = p

/-- Writes that homes have performed end, and requests whose asker is gone (11 R247). -/
def endTxns (s : State) : State :=
  if s.home.txns.isEmpty && s.home.refused.isEmpty then s
  else s.modHome fun h => { h with
    txns := h.txns.filter fun x => !x.done && s.asks x.who x.line false
    refused := h.refused.filter fun r => s.asks r.who r.line true }

/-- A line leaves its way (11 R243, R244): a private copy once it can be written back; a line that has moved returns home, once no
write of it is in progress (R247); a dirty pool line is written to its shelf, whose port must be up (23 R364). -/
def leaveWay (s : State) (x : L2Line) : State :=
  match x.cl with
  | some cl => match s.priv? cl x.line with
    | some p => let (s, r) := s.writeBack cl p false; s.askBack cl r
    | none => s.l2Drop x.line x.cl
  | none =>
    if s.home.txns.any fun r => r.line = x.line then s
    else if x.under.isSome && s.fab.poolDown.contains (keyPa (x.line * 128) / 2 ^ 45) then s
    else (s.l2Drop x.line none).modHome fun h => { h with fwd := h.fwd.filter fun f => !(f.line = x.line && f.moved.isSome) }

/-- The lines that are to leave their ways do; those of private copies that are gone are free. -/
def endWays (s : State) : State :=
  (s.home.l2.filter fun x => x.out || x.cl.any fun cl => (s.priv? cl x.line).isNone).foldl (fun s x => s.leaveWay x) s

/-- The lowest threads of the ready units of a core. -/
def readyUnits (s : State) (c : Nat) : List Tid :=
  (s.entriesOf c).flatMap fun e => (s.unitsAt c e).filterMap fun u => u.head?

/-- A µs of global time has passed (18 R324): a watchdog that has reached its limit expires, and the others count, while
a team of the context is resident and HALT is 0. A restart in the same µs comes first. -/
def watch (s : State) (c : Nat) : State :=
  let k := s.ctx c
  if !k.en || k.halt || !(s.teams.any fun m => m.ctx = c && m.status = .resident) then s
  else if k.wdlim != 0 && k.wdlim.toNat * 1000 ≤ k.wdCount then s.after 1 .watchdogExpiry { ctx := c }
  else s.modCtx c fun k => { k with wdCount := k.wdCount + 1 }

/-- The cycle ends: homes end what they have performed, entries free, ready units are noted, time advances: a third of a ns, half of that while a clock that
is ahead is slewed (00 R1, 26 R392). -/
def tick (s : State) : State :=
  let s := s.cores.foldl (fun s k =>
    let s := (s.freeEntries k.1).joinAll k.1
    let r := s.readyUnits k.1
    s.modCore k.1 fun c => { c with ready := r }) s.endTxns.endWays
  let time := if s.time.slew = 0 then { s.time with sixths := s.time.sixths + 2 }
    else { s.time with sixths := s.time.sixths + 1, slew := s.time.slew - 1 }
  let s : State := if time.sixths / 6000 = s.time.sixths / 6000 then s else s.ctxs.foldl (fun s k => s.watch k.1) s
  { s with cycle := s.cycle + 1, time := time }

/-- The first step that is due, and the agenda without it. -/
def takeDue (now : Nat) : List Due → Option (Due × List Due)
  | [] => none
  | d :: l => if d.at_ ≤ now then some (d, l) else match takeDue now l with
    | some (x, l') => some (x, d :: l')
    | none => none

/-- The first reset of the module in the agenda, and the agenda without it. -/
def takeReset : List Due → Option (Due × List Due)
  | [] => none
  | d :: l => if d.ev = .moduleReset then some (d, l) else match takeReset l with
    | some (x, l') => some (x, d :: l')
    | none => none

end State

end Sys2Proof.Machine
end

