-- ==== Sys2Proof/Machine/Fabric.lean ====
section
/-! DEFINITION. The Hokuek fabric (23 R365 to R371): selective repeat on a link, what peers do at this module's homes, the
answers to this module's transactions and their expiry. -/

namespace Sys2Proof.Machine

/-! ### What a flit carries -/

/-- The payload of a received flit from the arguments of its step: kind, peer, opcode or format, width or rounding mode,
then the turns of an atomic. -/
def payloadOf (a : EvArg) : Payload :=
  let n := fun i => nthD 0 a.nums i
  match n 0 with
  | 1 => .read (n 1) a.addr a.len
  | 2 => .write (n 1) a.image
  | 3 => .atomic (n 1) a.addr (n 2) (n 3) (pairs (a.nums.drop 4))
  | 4 => .add (n 1) a.addr (n 2) (n 3) a.bytes
  | 5 => .poison a.addr
  | 6 => .nibble (n 1) a.addr (n 2 != 0) (n 3)
  | 7 => .compare (n 1) a.addr (n 2) (n 3)
  | _ => .other
where
  /-- Numbers two by two. -/
  pairs : List Nat → List (Nat × Nat)
    | x :: y :: l => (x, y) :: pairs l
    | _ => []

/-- What an atomic of a peer computes, by its opcode (07 R174). -/
def atomFn (op : Nat) (w64 : Bool) : AtomFn :=
  let both := fun (f : Word → Word → Word → Word) (g : AtomFn) => if w64 then g else on32 f
  match op with
  | 0x180 => both (fun o b _ => o + b) fun o b _ => o + b
  | 0x181 => both (fun o b _ => minS o b) fun o b _ => if o.sle b then o else b
  | 0x182 => both (fun o b _ => minN o b) fun o b _ => if o.ule b then o else b
  | 0x183 => both (fun o b _ => maxS o b) fun o b _ => if o.sle b then b else o
  | 0x184 => both (fun o b _ => maxN o b) fun o b _ => if o.ule b then b else o
  | 0x185 => both (fun o b _ => o &&& b) fun o b _ => o &&& b
  | 0x186 => both (fun o b _ => o ||| b) fun o b _ => o ||| b
  | 0x187 => both (fun o b _ => o ^^^ b) fun o b _ => o ^^^ b
  | 0x188 => fun _ b _ => b
  | 0x189 => both (fun o b c => if o = c then b else o) fun o b c => if o = c then b else o
  | 0x18A => on32 fun o b _ => BitVec.ofNat 32 (binF (Modes.plain 1) false 0 (addF 1) o.toNat b.toNat)
  | 0x18B => on32 fun o b _ => if b.ule o then 0 else o + 1
  | _ => fun o _ _ => o

namespace State

/-! ### Peers at this module's homes (23 R366, R368, R371) -/

/-- A peer's write of scattered bytes, line by line at their homes. -/
def peerWrite (s : State) (b : List (Nat × Byte)) : State :=
  (distinct (b.map fun x => lineOf x.1)).foldl (fun s l => s.lineWrite l (b.filter fun x => lineOf x.1 = l)) s

/-- The lowest address that a peer's transaction acts on, its length, and whether it writes. -/
def payloadRange : Payload → Nat × Nat × Bool
  | .read _ a n => (a, n, false)
  | .write _ b => (b.foldl (fun m x => min m x.1) ((b.headD (0, 0)).1), 1, true)
  | .atomic _ a _ w _ => (a, w, true)
  | .add _ a _ _ b => (a, b.length, true)
  | .nibble _ a _ _ => (a, 1, true)
  | .compare _ a _ _ => (a, 32, true)
  | .poison _ | .other => (0, 0, false)

/-- The lines that a transaction reaches. -/
def payloadLines : Payload → List Nat
  | .write _ b => distinct (b.map fun x => lineOf x.1)
  | .poison l => [l]
  | .other => []
  | p => let (a, n, _) := payloadRange p; linesAt a n

/-- The transaction writes memory. -/
def payloadWrites : Payload → Bool
  | .read _ _ _ | .other | .poison _ => false
  | _ => true

/-- The transaction waits: a write for a granule that a task holds (08 R185), a read for one that is committing (12 R257). -/
def payloadWaits (s : State) (p : Payload) : Bool :=
  let (a, n, writes) := payloadRange p
  match p with
  | .write _ b => b.any fun x => s.rangeHeld x.1 1
  | _ => if writes then s.rangeHeld a n else s.rangeCommitting a n

/-- A peer's transaction acts at its home and is answered or acknowledged once it has been applied; the answer carries the
poison mark (23 R368, R371, 25 R387, 27 R400). It came by a port, for a partition. A poison write is logged (27 R406). -/
def performPayload (s : State) (port part : Nat) (p : Payload) : State := match p with
  | .other => s
  | .read peer a n => s.sendFor part (.answer peer a (s.mem.bytes a n) (s.rangePoisoned a n))
  | .write peer b => (s.peerWrite b).sendFor part (.acked peer (payloadRange p).1)
  | .atomic peer a op w ts =>
    let old := s.mem.bytes a w
    let f := atomFn op (w = 8)
    let new := ts.foldl (fun (o : DWord) t => (f o (BitVec.ofNat 64 t.1) (BitVec.ofNat 64 t.2))) (BitVec.ofNat 64 (leNat old))
    let s : State := if s.poisoned (lineOf a) then s else s.deviceWrite a (leBytes w new.toNat)
    s.sendFor part (.answer peer a old (s.poisoned (lineOf a)))
  | .add peer a fmt rm b =>
    let n := b.length
    (s.deviceWrite a (leBytes n (addElement fmt rm (s.mem.le a n) (leNat b)))).sendFor part (.acked peer a)
  | .nibble peer a high x =>
    let old := (s.mem.get a).toNat
    let new := if high then old % 16 + 16 * (x % 16) else old / 16 * 16 + x % 16
    (s.deviceWrite a [BitVec.ofNat 8 new]).sendFor part (.acked peer a)
  | .compare peer a expect new =>
    let old := s.mem.bytes a 32
    let s : State := if s.mem.le (a + 28) 4 = expect then
        (s.deviceWrite a (leBytes 8 new)).deviceWrite (a + 28) (leBytes 4 ((expect + 1) % 2 ^ 32))
      else s
    s.sendFor part (.answer peer a old (s.rangePoisoned a 32))
  | .poison l => s.losePoison l port 0

/-- A transaction that waits shares a granule with another: they act in the order of their arrival (23 R366). -/
def behindWaiting (s : State) (p : Payload) : Bool :=
  let grans := fun (q : Payload) => (payloadLines q).map fun l => l / 2
  s.fab.waits.any fun w => (grans w.2.load).any fun g => (grans p).contains g

/-- What a received flit carries acts now, or waits in its slot behind what has arrived before it, and is looked at again: for a
granule, or for a home that refuses its write (11 R247). -/
def applyFlit (s : State) (port : Nat) (f : RxFlit) : State :=
  let lines := payloadLines f.load
  let busy := payloadWrites f.load && s.portHeld (port + 1) lines
  if s.behindWaiting f.load || s.payloadWaits f.load || busy then
    let s := if busy then s.portRefused (port + 1) lines .flitReceive { ok := true } else s
    (s.modFab fun x => { x with waits := x.waits ++ [(port, f)] }).afterOnce 64 .flitReceive { ok := true }
  else (s.portGranted (port + 1) lines).performPayload port f.part f.load

/-- Every transaction that waits is looked at, in the order of arrival. -/
def pumpFlits (s : State) : State :=
  s.fab.waits.foldl (fun s w => s.applyFlit w.1 w.2) (s.modFab fun x => { x with waits := [] })

/-! ### The link (23 R366) -/

/-- How far a sequence number lies ahead of another. -/
def seqAhead (x y : Nat) : Nat := (x + 4096 - y % 4096) % 4096

/-- Flits that have arrived in sequence are passed on, each exactly once. -/
def passOn (s : State) (p : Nat) : Nat → State
  | 0 => s
  | n + 1 =>
    let x := s.port p
    match x.reseq.find? fun f => f.seq = x.expect with
    | none => s
    | some f =>
      let s := s.modPort p fun x => { x with
        expect := (x.expect + 1) % 4096, reseq := x.reseq.filter (fun g => g.seq != f.seq), passed := x.passed + 1 }
      (s.applyFlit p f).passOn p n

/-- The acknowledgement a receiver sends: the oldest flit not yet received, and which of the next 64 it has. -/
def ackOf (x : Port) : Nat × DWord :=
  (x.expect, (List.range 64).foldl (fun (m : DWord) i =>
    if x.reseq.any fun f => f.seq = (x.expect + i) % 4096 then m ||| bit64 i else m) 0)

/-- Flits that waited are sent, as far as the replay buffer has room and their partitions have credits (23 R367). -/
def sendBacklog (s : State) (p : Nat) : Nat → State
  | 0 => s
  | n + 1 =>
    let x := s.port p
    if !x.up || x.training || 512 ≤ x.replay.length then s
    else match x.backlog.find? fun part => (s.sendSlot p part).isSome with
      | none => s
      | some part => ((s.modPort p fun x => { x with backlog := x.backlog.erase part }).sendFlit p part).sendBacklog p n

/-- The replay timer starts while flits are held. -/
def startTimer (s : State) (p : Nat) : State :=
  if (s.port p).replay.isEmpty then s
  else (s.modPort p fun x => { x with timer := s.cycle }).after usCycles .replayTimeout { id := p, len := s.cycle }

/-- Flits are sent again; after 8 resends of one of them the link retrains. -/
def resend (s : State) (p : Nat) (l : List Nat) : State :=
  s.modPort p fun x =>
    let held := x.replay.map fun q => if l.contains q.1 then (q.1, q.2 + 1) else q
    { x with resent := l.reverse ++ x.resent, replay := held, training := x.training || held.any fun q => 8 ≤ q.2 }

/-- An acknowledgement with base `b` and a bitmap: flits below `b` are freed; `b` and every flit whose bit is clear below
the highest set bit are sent again. -/
def acknowledge (s : State) (p b : Nat) (map : DWord) : State :=
  let held := (s.port p).replay.filter fun q => seqAhead q.1 b < 2048
  let top := ((List.range 64).filter fun i => map.getLsbD i).foldl max 0
  let again := (held.map fun q => q.1).filter fun q => q = b || (seqAhead q b < top && !map.getLsbD (seqAhead q b))
  let s := s.modPort p fun x => { x with
    replay := held, credits := x.credits.filter fun u => held.any fun q => q.1 = u.1 }
  ((s.resend p again).startTimer p).sendBacklog p 512

/-! ### Receive slots (23 R367) -/

/-- The slots in use: the partition of each flit held there and whether the slot is a shared one; those that wait for their
turn, and those that wait for a granule. -/
def usedFlits (s : State) (p : Nat) : List (Nat × Bool) :=
  ((s.port p).reseq.map fun f => (f.part, f.shared)) ++
  (s.fab.waits.filter fun w => w.1 = p).map fun w => (w.2.part, w.2.shared)

/-- The slot that a packet of a partition takes: a reserved one first, a shared one only where none of those is free;
none where no slot is free. `some true` is a shared one. -/
def flitSlot (s : State) (p part : Nat) : Option Bool :=
  let used := s.usedFlits p
  if (used.filter fun u => u.1 = part && !u.2).length < s.fbuf part then some false
  else if (used.filter fun u => u.2).length < s.sharedSlots then some true
  else none

/-- An acknowledgement goes back for what has been received. -/
def sendAck (s : State) (p : Nat) : State := s.modPort p fun x => { x with acked := some (ackOf x) }

/-! ### Answers and expiries (23 R368, R370) -/

/-- An entry of a core's table. -/
def txn? (s : State) (c id : Nat) : Option Txn := (s.core c).out.find? fun x => x.id = id

/-- The entry is freed, and write-combining entries whose mask is full drain as far as the table has room (23 R369). -/
def closeTxn (s : State) (c id : Nat) : State :=
  (s.modCore c fun k => { k with out := k.out.filter fun x => x.id != id }).wcDrain c
    fun e => coversLine (e.bytes.map fun b => (b.off, b.val))

/-- An engine's peer write is answered: the copy goes on, or ends with a cause. -/
def answerOuts (s : State) (c id : Nat) (bad : Option Request) : State :=
  [0, 1].foldl (fun s e => match s.engine c e with
    | some k =>
      if k.outs.contains id then
        let s := s.modEngine c e fun k => { k with outs := k.outs.filter fun x => x != id }
        let s : State := match bad with
          | some r => s.engineFault c e r false
          | none => s
        s.lookEngine c e 1
      else s
    | none => s) s

/-- Answers a transaction: its entry is freed, and whoever waits for it goes on. -/
def answerTxn (s : State) (c : Nat) (x : Txn) (r : Reply) (bad : Option Request) : State :=
  let s := s.closeTxn c x.id
  let s : State := if x.fetch then x.waiters.foldl (fun s t => s.answerFetch x.id (x.line * 128) r t) s
    else x.waiters.foldl (answerThread · x.id r ·) s
  (s.answerEngines x.id r).answerOuts c x.id bad

/-- The entry has expired (23 R370, R371). -/
def txnExpired (s : State) (x : Txn) : Bool := x.since + (if x.multi then 20 * msCycles else 100 * usCycles) ≤ s.cycle

/-- A thread's release awaits the entry. -/
def releaseAwaits (s : State) (x : Txn) (t : Tid) : Bool :=
  x.teams.contains t.team && x.waiters.isEmpty && (match (s.thread t).wait with
    | .release 5 => true
    | .release n => 2 ≤ n && x.owners.contains t
    | _ => false)

/-- A transaction of an engine: it has no owner among the threads. -/
def engineTxn (s : State) (c id : Nat) : Bool :=
  [0, 1].any fun e => (s.engine c e).any fun k => k.outs.contains id || k.ask.any fun a => a.1 = id

/-- The entries of a core that expire in this cycle (23 R370): reads, atomics and engines end with LINK_LOST; releases
that await one trap with the lowest address; other writes set their team's lost flag. -/
def expireTxns (s : State) (c : Nat) : State :=
  let gone := (s.core c).out.filter s.txnExpired
  let mine := s.coreTids c
  let losers := mine.filterMap fun t =>
    let xs := gone.filter fun x => s.releaseAwaits x t
    if xs.isEmpty then none else some (t, xs.foldl (fun m x => min m x.addr.toNat) (2 ^ 64 - 1))
  let idle := (gone.filter fun x => x.waiters.isEmpty && !x.owners.isEmpty && !(s.engineTxn c x.id)).flatMap fun x =>
    x.teams.filter fun n => !(mine.any fun t => t.team = n && s.releaseAwaits x t)
  let s := gone.foldl (fun s x => s.answerTxn c x (.failed .linkLost) (some (Request.of .linkLost x.addr))) s
  let s := idle.foldl (fun s n => s.modTeam n fun m => { m with lost := true }) s
  losers.foldl (fun s t => s.takeTrap t.1 (Request.of .linkLost (BitVec.ofNat 64 t.2))) s

/-- What a response answers (23 R368, 27 R400). -/
def responseOf : Completion → Reply
  | .success x => .data x
  | .poisoned => .failed .dataPoison
  | _ => .failed .accessViolation

end State

open State

/-- FLIT_RECEIVE (R366, R367): a flit of port `id` with sequence number `len`, of partition `team`, arrives. One that has
been received before is acknowledged again; another takes a slot, without which it is not received; flits are passed on in
sequence, each once. With `ok` set, the transactions that wait in their slots are looked at again. -/
def execFlitReceive (s : State) : Host.Outcome State Fault Refusal :=
  let p := s.arg.id
  let q := s.arg.len % 4096
  let x := s.port p
  let flit := fun (shared : Bool) => (⟨q, payloadOf s.arg, s.arg.team, shared⟩ : RxFlit)
  .next (if s.arg.ok then s.pumpFlits
    else if 512 ≤ seqAhead q x.expect || x.reseq.any fun f => f.seq = q then s.sendAck p
    else match s.flitSlot p s.arg.team with
      | none => s
      | some shared => ((s.modPort p fun x => { x with reseq := x.reseq ++ [flit shared] }).passOn p 512).sendAck p)

/-- LINK_ACK (R366): base `len` and bitmap `x` from the far end of port `id`. -/
def execLinkAck (s : State) : Host.Outcome State Fault Refusal := .next (s.acknowledge s.arg.id (s.arg.len % 4096) s.arg.x)

/-- REPLAY_TIMEOUT (R366): with no acknowledgement for 1 µs the oldest flit is sent again. -/
def execReplayTimeout (s : State) : Host.Outcome State Fault Refusal :=
  let p := s.arg.id
  let x := s.port p
  .next (if x.timer != s.arg.len || !x.up || x.training then s
    else match x.replay with
      | [] => s
      | q :: _ => (s.resend p [q.1]).startTimer p)

/-- LINK_RETRAIN_COMPLETE (R366, 27 R405): the held flits are sent again, at full lanes, and sending goes on. -/
def execLinkRetrainComplete (s : State) : Host.Outcome State Fault Refusal :=
  let p := s.arg.id
  let s := s.modPort p fun x => { x with
    up := true, training := false, lanes := 8, resent := (x.replay.map fun q => q.1).reverse ++ x.resent
    replay := x.replay.map fun q => (q.1, 0) }
  .next ((s.startTimer p).sendBacklog p 512)

/-- FABRIC_RESPONSE (R368): the response to a read or atomic, or the acknowledgement of a write, frees its entry; an abort
of a group contribution is a round whose formats differ (R371). -/
def execFabricResponse (s : State) : Host.Outcome State Fault Refusal :=
  let c := s.arg.core
  .next (match s.txn? c s.arg.id with
    | none => s.answerFar s.arg.id (responseOf s.arg.result)
    | some x =>
      let bad := if x.multi && s.arg.result = .abort then some (Request.of .descInvalid x.addr) else none
      s.answerTxn c x (responseOf s.arg.result) bad)

/-- TRANSACTION_EXPIRY (R370). -/
def execTransactionExpiry (s : State) : Host.Outcome State Fault Refusal :=
  .next ((s.expireTxns s.arg.core).answerFar s.arg.id (.failed .linkLost))

end Sys2Proof.Machine
end

