-- ==== Sys2Proof/Machine/Jobs.lean ====
section
/-! DEFINITION. The trough and matrix jobs (08 R197 to R203, 13 R278 to R284, 02 R43 to R46): reservations, job
declarations and their issue, trough entry, K-steps, broadcast sets, completion, accumulators. -/

namespace Sys2Proof.Machine

/-! ### Cards (08 R200) -/

def cardM (c : BitVec 1024) : Nat := cardField c 0 32
def cardN (c : BitVec 1024) : Nat := cardField c 32 32
def cardK (c : BitVec 1024) : Nat := cardField c 64 32
def cardLevels (c : BitVec 1024) : Nat := cardField c 108 3
def cardClear (c : BitVec 1024) : Bool := c.getLsbD 112
def cardLimb (c : BitVec 1024) : Bool := c.getLsbD 113
def cardBcast (c : BitVec 1024) : Bool := c.getLsbD 114
def cardCin (c : BitVec 1024) : Bool := c.getLsbD 115
def cardOut (c : BitVec 1024) : Bool := c.getLsbD 116
def cardOfmt (c : BitVec 1024) : Nat := cardField c 120 4
def cardOutoff (c : BitVec 1024) : Nat := cardField c 128 32
def cardGate (c : BitVec 1024) : Word := c.extractLsb' 160 32
def cardCnt (c : BitVec 1024) (j : Nat) : Nat := cardField c (192 + 64 * j) 16
def cardAstr (c : BitVec 1024) (j : Nat) : Int := (c.extractLsb' (208 + 64 * j) 16).toInt
def cardBstr (c : BitVec 1024) (j : Nat) : Int := (c.extractLsb' (224 + 64 * j) 16).toInt
def cardCstr (c : BitVec 1024) (j : Nat) : Int := (c.extractLsb' (240 + 64 * j) 16).toInt

/-- The levels a card uses. -/
def cardUsed (c : BitVec 1024) : List Nat := List.range (cardLevels c)

/-- C tiles of a job (13 R280). -/
def cardTc (c : BitVec 1024) : Nat := ((cardM c + 63) / 64) * ((cardN c + 63) / 64)
/-- K-groups of a job. -/
def cardKt (c : BitVec 1024) : Nat := (cardK c + 31) / 32
/-- K-steps of a job. -/
def cardSteps (c : BitVec 1024) : Nat := (cardUsed c).foldl (fun n j => n * cardCnt c j) 1
/-- Bytes that OUT writes (13 R281). -/
def cardOutBytes (c : BitVec 1024) : Nat := if cardOut c then cardM c * cardN c * ((fmtOf (cardOfmt c)).bits / 8) else 0

/-- Trough bytes of a block (08 R198). -/
def blockBytes (bl m : Nat) : Nat := bl * m / 8 + 1
/-- Trough bytes of an A or B tile (13 R278). -/
def tileBytes (bl m : Nat) : Nat := 64 * (4 * m + 32 / bl)

/-- Tiles that a record's trough range holds; half of it for each limb (13 R278). -/
def slotTiles (r : BitVec 256) (limb : Bool) : Nat := (if limb then recTlen r / 2 else recTlen r) / tileBytes (recBl r) (recM r)

/-- A walk's linear sum at the counters of a step. -/
def linear (str : Nat → Int) (is : List Nat) : Int := (placed 0 is).foldl (fun x p => x + (p.2 : Int) * str p.1) 0

/-- The counters of K-step `p`, level 0 innermost. -/
def stepCounters (c : BitVec 1024) (p : Nat) : List Nat :=
  ((cardUsed c).foldl (fun (x : Nat × List Nat) j => (x.1 / cardCnt c j, x.2 ++ [x.1 % cardCnt c j])) (p, [])).2

/-- The lowest and highest value of a linear sum over the walk. -/
def span (c : BitVec 1024) (str : Nat → Int) : Int × Int :=
  (cardUsed c).foldl (fun x j =>
    let far := str j * ((cardCnt c j : Int) - 1)
    (x.1 + min 0 far, x.2 + max 0 far)) (0, 0)

/-- The sum stays in 0 to `n` − 1 over the walk. -/
def spans (c : BitVec 1024) (str : Nat → Int) (n : Nat) : Bool :=
  cardSteps c = 0 || (let x := span c str; 0 ≤ x.1 && x.2 < (n : Int))

/-- The walk rules (13 R281). -/
def walkOk (c : BitVec 1024) (a b k : BitVec 256) : Bool :=
  ((List.range 5).all fun j => j < cardLevels c || cardCnt c j = 0) &&
  cardSteps c = cardTc c * cardKt c &&
  spans c (cardAstr c) (slotTiles a (cardLimb c)) && spans c (cardBstr c) (slotTiles b false) &&
  spans c (cardCstr c) (cardTc c) && cardTc c * 16384 ≤ recTlen k

/-- The VA of the card that a register is bound to. -/
def JReg.va (r : JReg) : DWord := r.card.zeroExtend 64

namespace State

/-! ### Reservations (08 R197, R198) -/

/-- The record breaks a rule of the DESC_INVALID list of R198. -/
def badRecord (r : BitVec 256) : Bool :=
  let bits := if recFmt r = 6 then recM r else formatBits (recFmt r)
  r.extractLsb' 183 73 != 0 || r.extractLsb' 115 13 != 0 || recTlen r = 0 || recRole r = 3 ||
  recM r < 2 || 8 < recM r || recRm r = 0 || 5 < recRm r ||
  (if recRole r = 2 then recFmt r != 0 || recLayout r != 2 || (recSlen r != 0 && recSlen r != recTlen r)
   else 6 < recFmt r || recLayout r != recRole r) ||
  recSlen r * 8 % (recBl r * bits) != 0

/-- The scratchpad offset that a record's source or exponent panel has at or beyond the team's scratchpad (08 R198). -/
def recordBeyond (size : Nat) (r : BitVec 256) : Option Nat :=
  if size < recSoff r + recSlen r then some (max (recSoff r) size)
  else if recFmt r = 6 ∧ recRole r ≤ 1 ∧ size < recXoff r + recBlocks r then some (max (recXoff r) size)
  else none

/-- The records installed in any slot of any team on a core. -/
def installed (s : State) (c : Nat) : List (BitVec 256) :=
  (s.residents c).flatMap fun n => (s.team n).slots.map fun p => p.2.record

/-- The trough range does not fit (08 R198). -/
def badTrough (s : State) (c : Nat) (r : BitVec 256) : Bool :=
  let off := recToff r
  let len := recTlen r
  let old := s.installed c
  524288 < off + len ||
  (old.any fun x => recToff x < off + len && off < recToff x + recTlen x) ||
  len < (if recRole r ≤ 1 then recBlocks r * blockBytes (recBl r) (recM r) else 0) ||
  (recRole r = 2 && (off % 16384 != 0 || len % 16384 != 0 ||
    16 < len / 16384 + (old.filter fun x => recRole x = 2).foldl (fun n x => n + recTlen x / 16384) 0))

/-- Frees a slot (08 R198). -/
def freeSlot (s : State) (n k : Nat) : State :=
  s.modTeam n fun m => { m with slots := m.slots.filter fun p => p.1 != k }

/-- An issued job names the slot. -/
def slotNamed (s : State) (n k : Nat) : Bool := (s.core (s.team n).core).jobs.any fun j => j.names n k

/-! ### Convergence registers (01 R12) -/

/-- A convergence register of a team. -/
def jreg (s : State) (n j : Nat) : JReg := nthD JReg.free (s.team n).jregs j
/-- Changes a convergence register. -/
def modJ (s : State) (n j : Nat) (f : JReg → JReg) : State :=
  s.modTeam n fun m => { m with jregs := modAt f j m.jregs }

/-- The address that JDECL binds: the register resolved for the 128 card bytes (08 R413). -/
def cardAddress (s : State) (t : Tid) (reg : Nat) (k : State → DWord → Res) : Res :=
  let r := (s.thread t).areg reg
  if !r.sh.v then k s r.val
  else match s.locate t reg r.val 128 ⟨false, false, false, .load⟩ with
    | (s, .hold w) => .hold s w
    | (s, .fault r) => .trap s r
    | (s, _) => k s ((s.thread t).areg reg).val

/-- The scratchpad bytes of the ranges that a record lends. -/
def sourceBytes (s : State) (n : Nat) (r : BitVec 256) : Memory :=
  (s.team n).scratch.filter fun c => (lentOf r).any fun p => p.1 ≤ c.1 && c.1 < p.1 + p.2

/-- Issued jobs that name the slot as A or B. -/
def jobsReading (s : State) (n k : Nat) : List Job :=
  (s.core (s.team n).core).jobs.filter fun j => j.team = n && (cardA j.card = k || cardB j.card = k)

/-- The slot as a job that issues now sees it: the first job to name it reads what TRES lent, each later one the bytes of its
own issue (08 R199, 13 R279; log entry 82). -/
def slotAtIssue (s : State) (n k : Nat) (x : Slot) : Slot :=
  if !x.used && (s.jobsReading n k).isEmpty then x else { x with kept := s.sourceBytes n x.record }

/-- The slot that a card names holds a record of the role. -/
def cardSlot (s : State) (n k role : Nat) : Option Slot :=
  (s.slot? n k).filter fun x => recRole x.record = role

/-- The job of a card that passes R202, none where it fails. -/
def jobOf (s : State) (n j : Nat) (c : BitVec 1024) : Option Job :=
  let size := (s.team n).scratchSize
  match s.cardSlot n (cardA c) 0, s.cardSlot n (cardB c) 1, s.cardSlot n (cardC c) 2 with
  | some a, some b, some k =>
    let g := (cardGate c).toNat
    let ra := a.record
    let bad :=
      c.extractLsb' 512 512 != 0 || c.extractLsb' 124 4 != 0 || c.extractLsb' 117 3 != 0 || c.getLsbD 111 ||
      cardLevels c = 0 || 5 < cardLevels c || (cardClear c && cardCin c) || (cardCin c && recSlen k.record = 0) ||
      (cardOut c && 4 < cardOfmt c) ||
      (cardLimb c && ((recFmt ra != 1 && recFmt ra != 2) || recM ra != 8 ||
        recTlen ra < 2 * (recBlocks ra * blockBytes (recBl ra) 8))) ||
      !walkOk c ra b.record k.record ||
      (cardGate c != 0xFFFFFFFF && (g % 16 != 0 || size < g + 16)) ||
      (cardOut c && size < cardOutoff c + cardOutBytes c)
    if bad then none
    else some { id := s.nextId, team := n, j := j, card := c, slotA := s.slotAtIssue n (cardA c) a,
                slotB := s.slotAtIssue n (cardB c) b, slotC := k, pos := 0, started := false,
                live := false, busy := false, tilesA := 0, tilesB := 0, again := false, stopped := false, set_ := [] }
  | _, _, _ => none

/-! ### Trough bytes (13 R278, R279) -/

/-- Writes bytes into a core's trough. -/
def troughWrite (s : State) (c off : Nat) (b : List Byte) : State :=
  s.modCore c fun k => { k with trough := k.trough.putAll (bytesAt off b) }

/-- Zeroes a trough range. -/
def troughZero (s : State) (c off len : Nat) : State := s.modCore c fun k => { k with trough := k.trough.clear off len }

/-- The trough bytes of a block: its mantissas in the low bits, its exponent above them. -/
def packBlock (m : Nat) (e : Nat) (xs : List Int) : List Byte :=
  let n := (placed 0 xs).foldl (fun n p => n + (p.2 % (2 ^ m : Int)).toNat * 2 ^ (p.1 * m)) 0
  leBytes (xs.length * m / 8) n ++ [BitVec.ofNat 8 e]

/-- Element `i` of the source of a record as a value (02 R34, R37). -/
def sourceValue (x : Slot) (i : Nat) : FVal :=
  let r := x.record
  let mem := x.kept
  let f := recFmt r
  let bits := formatBits f
  let at_ := i * bits
  let code := mem.le (recSoff r + at_ / 8) (if bits < 8 then 1 else bits / 8) / 2 ^ (at_ % 8) % 2 ^ bits
  decodeF { Modes.plain (recRm r) with nzxen := x.nzxen, nzx := x.nzx } f code

/-- The bytes that source block `q` enters as, and in two-limb mode those of its low limb (02 R40, R46). -/
def entryBlock (x : Slot) (limb : Bool) (q : Nat) : List Byte × List Byte :=
  let r := x.record
  let mem := x.kept
  let bl := recBl r
  let m := recM r
  if recFmt r = 6 then (mem.bytes (recSoff r + q * (bl * m / 8)) (bl * m / 8) ++ [mem.get (recXoff r + q)], [])
  else
    let vs := (List.range bl).map fun i => sourceValue x (q * bl + i)
    let (e, ms) := encodeBlock (recRm r) m vs
    let low := if limb then
        if e = 0xFF then packBlock 8 0xFF (ms.map fun _ => (0 : Int))
        else
          let rest := (vs.zip ms).map fun p => addF 1 p.1 (FVal.flip (blockVal m e p.2))
          let (e', ms') := encodeBlock (recRm r) 8 rest
          packBlock 8 e' ms'
      else []
    (packBlock m e ms, low)

/-- Tiles that a source fills, the last perhaps in part. -/
def sourceTiles (r : BitVec 256) : Nat := (recBlocks r * recBl r + 2047) / 2048

/-- The cycles that a converter takes for tile `t` of a source: 64 elements a cycle, or 256 bytes of a panel (13 R279). -/
def tileCycles (r : BitVec 256) (t : Nat) : Nat :=
  let n := min 2048 (recBlocks r * recBl r - 2048 * t)
  if recFmt r = 6 then (n * recM r / 8 + n / recBl r + 255) / 256 else (n + 63) / 64

/-- Enters tile `t` of a source into its core's trough range (13 R279). -/
def enterTile (s : State) (c : Nat) (x : Slot) (limb : Bool) (t : Nat) : State :=
  let r := x.record
  let per := 2048 / recBl r
  let size := blockBytes (recBl r) (recM r)
  ((List.range per).map fun i => t * per + i).foldl (fun s q =>
    if recBlocks r ≤ q then s
    else
      let (hi, lo) := entryBlock x limb q
      let s := s.troughWrite c (recToff r + q * size) hi
      if limb then s.troughWrite c (recToff r + recTlen r / 2 + q * size) lo else s) s

/-! ### K-steps (02 R43, R44, 13 R280) -/

/-- A mantissa and the exponent of element `i` of tile `t` of a trough range. -/
def troughElement (mem : Memory) (off bl m t i : Nat) : Int × Nat :=
  let pos := t * 2048 + i
  let base := off + pos / bl * blockBytes bl m
  let bit := pos % bl * m
  (sext m (mem.le (base + bit / 8) 2 / 2 ^ (bit % 8)), (mem.get (base + bl * m / 8)).toNat)

/-- The group sum of R43 of a row and a column: none is NaN, otherwise S and its scale. -/
def groupSum (mA mB : Nat) (l : List ((Int × Nat) × (Int × Nat))) : Option (Int × Int) :=
  if l.any fun p => p.1.2 = 0xFF || p.2.2 = 0xFF then none
  else
    let terms := l.map fun p => (p.1.1 * p.2.1, ((p.1.2 : Int) - 127 - ((mA : Int) - 1)) + ((p.2.2 : Int) - 127 - ((mB : Int) - 1)))
    let top := terms.foldl (fun x p => max x p.2) (-1000)
    (some (terms.foldl (fun x p =>
      let d := p.2 - top + 24
      x + (if 0 ≤ d then p.1 * 2 ^ d.toNat else p.1 / 2 ^ (-d).toNat)) 0, top - 24))

/-- A group sum added to an accumulator (02 R44). -/
def accumulate (acc : Nat) (g : Option (Int × Int)) : Nat :=
  match g, decodeRaw 0 acc with
  | none, _ => 0x7FC00000
  | _, .nan _ => 0x7FC00000
  | some (x, e), a =>
    if x = 0 then acc else encodeF (Modes.plain 1) false 0 (addF 1 a (.num (x < 0) x.natAbs e))

/-- Trough bytes of C tile `tc` of a job after a K-step over A tile `ta` and B tile `tb` of group `g`; `ma`, `mb`, `mc` are
the troughs that hold them. -/
def kstepTile (ma mb mc : Memory) (x : Job) (b : BitVec 256) (ta tb tc g : Nat) : List Byte :=
  let ra := x.slotA.record
  let limb := cardLimb x.card
  let ks := (List.range 32).filter fun k => 32 * g + k < cardK x.card
  let row := fun (off r : Nat) => ks.map fun k => troughElement ma off (recBl ra) (recM ra) ta (r * 32 + k)
  let cols := (List.range 64).map fun c => ks.map fun k => troughElement mb (recToff b) (recBl b) (recM b) tb (c * 32 + k)
  let base := recToff x.slotC.record + tc * 16384
  (List.range 64).flatMap fun r =>
    let hi := row (recToff ra) r
    let lo := if limb then row (recToff ra + recTlen ra / 2) r else []
    (placed 0 cols).flatMap fun p =>
      let acc := mc.le (base + (r * 64 + p.1) * 4) 4
      let acc := accumulate acc (groupSum (recM ra) (recM b) (hi.zip p.2))
      let acc := if limb then accumulate acc (groupSum (recM ra) (recM b) (lo.zip p.2)) else acc
      leBytes 4 acc

/-! ### The running job (13 R279 to R284) -/

/-- The job at the head of a core's queue. -/
def headJob (s : State) (c : Nat) : Option Job := (s.core c).jobs.head?
/-- Changes a job of a core. -/
def modJob (s : State) (c id : Nat) (f : Job → Job) : State :=
  s.modCore c fun k => { k with jobs := k.jobs.map fun j => if j.id = id then f j else j }

/-- CLEAR and CIN of a job (13 R280). -/
def clearOrLoad (s : State) (c : Nat) (x : Job) : State :=
  let r := x.slotC.record
  let n := cardTc x.card * 16384
  if cardClear x.card then s.troughZero c (recToff r) n
  else if cardCin x.card then
    let src := (s.team x.team).scratch
    s.modCore c fun k => { k with trough := k.trough.replace (recToff r) n (src.slice (recSoff r) n (recToff r)) }
  else s

/-- CLEAR and CIN of a job, once. -/
def begun (s : State) (c : Nat) (x : Job) : State :=
  if x.started then s else (s.clearOrLoad c x).modJob c x.id fun j => { j with started := true }

/-- The teams of a job's cluster, by cluster-relative index. -/
def mateTeams (s : State) (x : Job) : List Nat :=
  sortBy (fun n => (s.team n).inCluster) (s.cluster (s.team x.team).cluster).teams

/-- The job runs with the other cores of its cluster (13 R284). -/
def broadcast (s : State) (x : Job) : Bool := cardBcast x.card && 1 < (s.mateTeams x).length

/-- The broadcast job at the head of a team's core that belongs to the set: one of the set's own jobs, or, for a set that has
not begun, a job that has joined none and is not ending (13 R284). -/
def mateJob (s : State) (set_ : List Nat) (n : Nat) : Option Job :=
  (s.headJob (s.team n).core).filter fun j => j.team = n && cardBcast j.card && j.live && (s.team n).status = .resident &&
    j.set_ = set_ && (!set_.isEmpty || !j.busy)

/-- A linear sum of a job at its next K-step, as a tile number. -/
def tileAt (x : Job) (str : BitVec 1024 → Nat → Int) : Nat := (linear (str x.card) (stepCounters x.card x.pos)).toNat

/-- The tile has been entered, or the source does not reach it. -/
def entered (r : BitVec 256) (n t : Nat) : Bool := t < n || sourceTiles r ≤ t

/-- The next tile that a converter enters: in ascending order, every tile of the source, or after a resumption those that a
tuple still to visit names (13 R279, 20 R339). -/
def nextTile (x : Job) (r : BitVec 256) (str : BitVec 1024 → Nat → Int) (n : Nat) : Option Nat :=
  let tiles := (List.range (sourceTiles r)).filter fun t => n ≤ t
  if !x.again then tiles.head?
  else
    let named := ((List.range (cardSteps x.card)).drop x.pos).map fun p => (linear (str x.card) (stepCounters x.card p)).toNat
    tiles.find? fun t => named.contains t

/-- The next tile of the A converter. -/
def nextA (x : Job) : Option Nat := nextTile x x.slotA.record cardAstr x.tilesA
/-- The next tile of the B converter. -/
def nextB (x : Job) : Option Nat := nextTile x x.slotB.record cardBstr x.tilesB

/-- The job could begin a K-step as far as its own A tile goes. -/
def readyA (x : Job) : Bool :=
  x.live && !x.busy && !x.stopped && x.pos < cardSteps x.card && entered x.slotA.record x.tilesA (tileAt x cardAstr)

/-- The cycles of a K-step (13 R282). -/
def stepCycles (x : Job) : Nat := if cardLimb x.card then 128 else 8 * recM x.slotA.record

/-- A K-step of a job begins. -/
def beginStep (s : State) (x : Job) (d : Nat) : State :=
  let c := (s.team x.team).core
  (s.modJob c x.id fun j => { j with busy := true }).after d .kstep { core := c, id := x.id }

/-- A job's completion is due: after OUT (13 R282); `brk` for a member that performs no K-step (13 R284). -/
def finishJob (s : State) (x : Job) (brk : Bool) : State :=
  let c := (s.team x.team).core
  let d := if cardOut x.card then 64 * cardTc x.card else 0
  (s.modJob c x.id fun j => { j with busy := true }).after (1 + d) .jobCompletion { core := c, id := x.id, ok := brk }

/-- A broadcast set's next K-step begins in every member together; a member whose step count differs ends with its
accumulators untouched (13 R284). -/
def stepMates (s : State) (x : Job) : State :=
  let teams := if x.set_.isEmpty then s.mateTeams x else x.set_
  let jobs := teams.map (s.mateJob x.set_)
  if jobs.any fun j => j.isNone then s
  else
    let jobs := jobs.filterMap id
    match jobs.head? with
    | none => s
    | some first =>
      let odd := jobs.filter fun j => cardSteps j.card != cardSteps first.card
      let s := odd.foldl (fun s j => s.finishJob j true) s
      let set := jobs.filter fun j => cardSteps j.card = cardSteps first.card
      let names := set.map fun j => j.team
      let s := set.foldl (fun s j =>
        let c := (s.team j.team).core
        (s.begun c j).modJob c j.id fun j => { j with set_ := names }) s
      if set.all fun j => !j.busy && j.pos = first.pos && cardSteps j.card ≤ j.pos then set.foldl (fun s j => s.finishJob j false) s
      else if (set.all fun j => readyA j && j.pos = first.pos) && entered first.slotB.record first.tilesB (tileAt first cardBstr) then
        let d := set.foldl (fun d j => max d (stepCycles j)) 0
        set.foldl (fun s j => s.beginStep j d) s
      else s

/-- A converter begins its next tile, if one is left. -/
def convertNext (s : State) (c : Nat) (x : Job) (a : Bool) : State :=
  match if a then nextA x else nextB x with
  | none => s
  | some t => s.after (max 1 (tileCycles (if a then x.slotA else x.slotB).record t)) .troughEntry { core := c, id := x.id, ok := a }

/-- The running job of a core goes on as far as it can: its next K-step, or its completion. -/
def tryStep (s : State) (c : Nat) : State :=
  match s.headJob c with
  | none => s
  | some x =>
    if !x.live || x.busy || x.stopped then s
    else if s.broadcast x then s.stepMates x
    else if cardSteps x.card ≤ x.pos then s.finishJob x false
    else if readyA x && entered x.slotB.record x.tilesB (tileAt x cardBstr) then s.beginStep x (stepCycles x)
    else s

/-- The element (i, j) of C in the trough (13 R280). -/
def cElement (mem : Memory) (x : Job) (i j : Nat) : Nat :=
  let across := (cardN x.card + 63) / 64
  mem.le (recToff x.slotC.record + (i / 64 * across + j / 64) * 16384 + (i % 64 * 64 + j % 64) * 4) 4

/-- OUT: the rows and columns of C, converted under the record's rounding mode (13 R280). -/
def outBytes (mem : Memory) (x : Job) : List Byte :=
  let f := cardOfmt x.card
  (List.range (cardM x.card)).flatMap fun i => (List.range (cardN x.card)).flatMap fun j =>
    leBytes ((fmtOf f).bits / 8) (convert (Modes.plain (recRm x.slotC.record)) false f 0 (cElement mem x i j))

/-- A job's slots have had a completion, which ends their first lending (08 R199). -/
def slotUsed (s : State) (n k : Nat) : State :=
  s.modTeam n fun m => { m with slots := m.slots.map fun p => if p.1 = k then (p.1, { p.2 with used := true }) else p }

/-- A completed job: ST, the gate, its slots, the next job (08 R201). -/
def endJob (s : State) (c : Nat) (x : Job) (brk : Bool) : State :=
  let n := x.team
  let s : State := if !brk && cardOut x.card then s.scratchWrite n (cardOutoff x.card) (outBytes (s.core c).trough x) else s
  let s := s.modCore c fun k => { k with jobs := k.jobs.filter fun j => j.id != x.id }
  let s := (s.slotUsed n (cardA x.card)).slotUsed n (cardB x.card)
  let s := s.arriveGate n (cardGate x.card) (if brk then 0 else cardOutBytes x.card) brk
  let s := s.modJ n x.j fun r => { r with st := .done }
  ((s.tryEnd n).lookSave n).afterOnce 1 .jobStart { core := c }

/-! ### Accumulators (08 R203) -/

/-- The trough address of the C element that a thread names, after the wait for jobs that name the slot as C. -/
def atAcc (s : State) (t : Tid) (slot x : Nat) (k : Nat → BitVec 256 → Res) : Res :=
  let c := s.coreNum t
  if (s.core c).jobs.any fun j => j.team = t.team && cardC j.card = slot then .hold s (.slotIdle slot)
  else match s.cardSlot t.team slot 2 with
    | none => s.fail .troughRange (BitVec.ofNat 64 x)
    | some r => if recTlen r.record / 4 ≤ x then s.fail .troughRange (BitVec.ofNat 64 x)
      else k (recToff r.record + 4 * x) r.record

end State

open State

/-- TRES: installs a reservation record in a slot (R198). -/
def execTres (f : IF) (s : State) : Host.Outcome State Fault Refusal :=
  .next (s.perIndex (.tres f) fun s t =>
    let n := t.team
    let slot := f.imm.toNat
    let reg := f.a.toNat
    if (s.slot? n slot).isSome && s.slotNamed n slot then .hold s (.slotIdle slot)
    else
      let s := s.freeSlot n slot
      let p := ((s.thread t).areg reg).val
      if p.extractLsb' 0 5 != 0 then s.fail .misaligned p
      else whenRead (s.readPieces t reg 0 2) fun s b =>
        let p := ((s.thread t).areg reg).val
        let r := BitVec.ofNat 256 (leNat b)
        let c := s.coreNum t
        if badRecord r then s.fail .descInvalid p
        else match recordBeyond (s.team n).scratchSize r with
          | some off => s.fail .accessViolation (BitVec.ofNat 64 (windowBase + off))
          | none =>
            if s.badTrough c r then s.fail .troughRange p
            else
              let x : Slot := ⟨r, r.extractLsb' 160 16, r.getLsbD 159, false, s.sourceBytes n r⟩
              .done ((s.troughZero c (recToff r) (recTlen r)).modTeam n fun m => { m with slots := assocSet m.slots slot x }))

/-- TREL: frees a slot once no issued job names it (R198). -/
def execTrel (f : IF) (s : State) : Host.Outcome State Fault Refusal :=
  .next (s.perIndex (.trel f) fun s t =>
    let slot := f.imm.toNat
    if s.slotNamed t.team slot then .hold s (.slotIdle slot) else .done (s.freeSlot t.team slot))

/-- TQSET: the slot's NZX for jobs issued from now on (R198). -/
def execTqset (f : IF) (s : State) : Host.Outcome State Fault Refusal :=
  .next (s.perIndex (.tqset f) fun s t =>
    let slot := f.imm.toNat
    let x := (s.groupOf t).sreg f.a.toNat
    match s.slot? t.team slot with
    | none => s.fail .descInvalid (BitVec.ofNat 64 slot)
    | some y => .done (s.modTeam t.team fun m => { m with
        slots := assocSet m.slots slot { y with nzx := x.extractLsb' 0 16, nzxen := x.getLsbD 16 } }))

/-- JDECL: binds a convergence register to a card and a signer count (R201). DESIGN CHOICE (log entry 88): of a card above 56
bits CARD keeps the low 56. -/
def execJdecl (f : TF) (s : State) : Host.Outcome State Fault Refusal :=
  .next (s.perIndex (.jdecl f) fun s t =>
    let reg := f.a.toNat
    let p := ((s.thread t).areg reg).val
    let j := f.d.toNat
    let n := (s.opB t f).toNat
    if p.extractLsb' 0 7 != 0 then s.fail .misaligned p
    else s.cardAddress t reg fun s c =>
      let r := s.jreg t.team j
      if n = 0 || 2048 < n then s.fail .cardInvalid c
      else if r.st = .bound && r.va = c && r.signers.toNat = n && r.signed = 0 then .done s
      else if r.st = .bound || r.st = .issued then s.fail .cardInvalid c
      else .done (s.modJ t.team j fun _ => ⟨c.extractLsb' 0 56, BitVec.ofNat 12 n, 0, .bound⟩))

/-- SIGN: a signature; the last one reads and checks the card and queues the job (R201). -/
def execSign (f : IF) (s : State) : Host.Outcome State Fault Refusal :=
  .next (s.perIndex (.sign f) fun s t =>
    let n := t.team
    let j := f.imm.toNat
    let r := s.jreg n j
    let c := s.coreNum t
    if r.st != .bound then s.fail .cardInvalid r.va
    else if r.signed + 1 = r.signers && 8 ≤ (s.core c).jobs.length then .hold s .jobRoom
    else s.afterRelease t 2 fun s =>
      if r.signed + 1 != r.signers then .done (s.modJ n j fun r => { r with signed := r.signed + 1 })
      else whenRead (s.readPlain t r.va 8) fun s b =>
        match s.jobOf n j (BitVec.ofNat 1024 (leNat b)) with
        | none => s.fail .cardInvalid r.va
        | some x =>
          let s := s.modJ n j fun r => { r with signed := r.signed + 1, st := .issued }
          let s : State := { s with nextId := s.nextId + 1 }
          let s := s.modCore c fun k => { k with jobs := k.jobs ++ [x] }
          .done (s.after 8 .jobStart { core := c }))

/-- JWAIT: waits until the job is done, then acquires (R201). -/
def execJwait (f : IF) (s : State) : Host.Outcome State Fault Refusal :=
  .next (s.perIndex (.jwait f) fun s t =>
    let j := f.imm.toNat
    let st := (s.jreg t.team j).st
    if st = .done || st = .free then .done (s.acquire t 2) else .hold s (.job j))

/-- ACCRD: an accumulator, converted (R203). -/
def execAccrd (f : IF) (s : State) : Host.Outcome State Fault Refusal :=
  .next (s.perThread (.accrd f) fun s t =>
    let x := ((s.thread t).vreg f.a.toNat).toNat
    s.atAcc t (f.imm.toNat % 16) x fun a _ =>
      let m := Modes.of (s.thread t).fpcr f.p.rm
      let y := convert m f.p.sat (f.imm.toNat / 16) 0 ((s.core (s.coreNum t)).trough.le a 4)
      .done (s.landLater t [t.thr] [s.vdst t f.d.toNat (BitVec.ofNat 32 y)]))

/-- ACCWR: an accumulator from a register (R203). -/
def execAccwr (f : IF) (s : State) : Host.Outcome State Fault Refusal :=
  .next (s.perIndex (.accwr f) fun s t =>
    let x := ((s.thread t).vreg f.a.toNat).toNat
    s.atAcc t (f.imm.toNat % 16) x fun a _ =>
      .done (s.troughWrite (s.coreNum t) a (leBytes 4 ((s.thread t).vreg f.d.toNat).toNat)))

/-- ACCZ: every accumulator of the slot to +0 (R203). For a slot that is free or of another role the spec names no element
index: TRAPADDR is a free value (log entry 14). -/
def execAccz (f : IF) (s : State) : Host.Outcome State Fault Refusal :=
  .next (s.perIndex (.accz f) fun s t =>
    let slot := f.imm.toNat % 16
    if (s.cardSlot t.team slot 2).isNone then
      let (x, s) := s.draw (2 ^ 64)
      s.fail .troughRange (BitVec.ofNat 64 x)
    else s.atAcc t slot 0 fun _ r => .done (s.troughZero (s.coreNum t) (recToff r) (recTlen r)))

/-- The job at the head begins: CLEAR, CIN, then its converters and K-steps (R280, 13 R282). -/
def execJobStart (s : State) : Host.Outcome State Fault Refusal :=
  let c := s.arg.core
  .next (match s.headJob c with
    | none => s
    | some x =>
      if x.live then s
      else
        let s : State := if s.broadcast x then s else s.begun c x
        let s := s.modJob c x.id fun j => { j with live := true }
        ((s.convertNext c x true).convertNext c x false).tryStep c)

/-- A converter has entered a tile and takes its next one: A's where the argument says so, otherwise B's; they work at the
same time (R279). -/
def execTroughEntry (s : State) : Host.Outcome State Fault Refusal :=
  let c := s.arg.core
  .next (match s.headJob c with
    | none => s
    | some x =>
      if x.id != s.arg.id || !x.live then s
      else
        let slot := if s.arg.ok then x.slotA else x.slotB
        match if s.arg.ok then nextA x else nextB x with
        | none => s
        | some t =>
          let s := s.enterTile c slot (s.arg.ok && cardLimb x.card) t
          let y : Job := if s.arg.ok then { x with tilesA := t + 1 } else { x with tilesB := t + 1 }
          let s := s.modJob c x.id fun j => { j with tilesA := y.tilesA, tilesB := y.tilesB }
          (s.convertNext c y s.arg.ok).tryStep c)

/-- A K-step ends: its group sums are added to the C tile (R43, R44, R280); B comes from core 0 of a broadcast set
(R284). -/
def execKstep (s : State) : Host.Outcome State Fault Refusal :=
  let c := s.arg.core
  .next (match (s.core c).jobs.find? fun j => j.id = s.arg.id with
    | none => s
    | some x =>
      if !x.busy then s
      else
        let own := (s.core c).trough
        let first : Option Job := if x.set_.isEmpty then some x else (x.set_.head?).bind (s.mateJob x.set_)
        let s : State := match first with
          | none => s
          | some y =>
            let is := stepCounters x.card x.pos
            let ta := (linear (cardAstr x.card) is).toNat
            let tb := (linear (cardBstr y.card) (stepCounters y.card x.pos)).toNat
            let tc := (linear (cardCstr x.card) is).toNat
            let mb := (s.core (s.team y.team).core).trough
            let b := kstepTile own mb own x y.slotB.record ta tb tc (ta % cardKt x.card)
            s.troughWrite c (recToff x.slotC.record + tc * 16384) b
        let s := s.modJob c x.id fun j => { j with pos := j.pos + 1, busy := false }
        (s.lookSave x.team).tryStep c)

/-- A job ends: OUT, the gate, ST done (R201, R280). -/
def execJobCompletion (s : State) : Host.Outcome State Fault Refusal :=
  let c := s.arg.core
  .next (match (s.core c).jobs.find? fun j => j.id = s.arg.id with
    | none => s
    | some x => s.endJob c x s.arg.ok)

end Sys2Proof.Machine
end

