-- ==== Sys2Proof/Machine/Leases.lean ====
section
/-! DEFINITION. Global time (26 R391, R392), claims and their grants on this module and on peers (08 R184, 25 R383), leases
at both sides (26 R393 to R395), the commit of a fold that spans modules (25 R384, R385), pool extents (26 R396). -/

namespace Sys2Proof.Machine

/-- Cycles of a number of ns (00 R1). -/
def nsCycles (n : Nat) : Nat := 3 * n

namespace State

/-! ### Grants (08 R184, 25 R383) -/

/-- The oldest task of this module that waits for a granule of it. -/
def oldestWant (s : State) (gran : Nat) : Option Want :=
  (s.home.wants.filter fun w => w.gran = gran && !remoteGran w.gran).foldl (fun best w => match best with
    | none => some w
    | some b => if older (s.team w.team).age (s.team b.team).age then some w else some b) none

/-- The oldest task of a peer that waits for a granule of this module; none is granted without SYNC (26 R395). -/
def oldestAsk (s : State) (gran : Nat) : Option RemoteWant :=
  if !s.time.sync then none
  else (s.fab.asked.filter fun w => w.gran = gran).foldl (fun best w => match best with
    | none => some w
    | some b => if older w.age b.age then some w else some b) none

/-- The home looks at a lease when its expiry and the guard band have passed. -/
def watchHome (s : State) (gran expiry : Nat) : State :=
  s.after (1 + nsCycles (expiry + 250 - s.gtime)) .homeLeaseExpiry { addr := gran }

/-- The holder looks at a lease when its expiry less the guard band is reached. -/
def watchHolder (s : State) (team gran expiry : Nat) : State :=
  s.after (1 + nsCycles (expiry - 250 - s.gtime)) .holderLeaseLapse { team := team, addr := gran }

/-- A granule is claimed for a peer's task, as a lease of 50 µs; where a private copy of it cannot be written back, later, its
page request raised meanwhile (25 R380). -/
def grantRemote (s : State) (w : RemoteWant) : State :=
  match s.grantClaim (remoteTeam w.peer) w.gran with
  | (s, .held) =>
    let e := s.gtime + 50000
    let s := s.modFab fun f => { f with
      asked := f.asked.filter fun x => x != w
      given := f.given ++ [⟨w.gran, w.peer, w.age, e, false, []⟩] }
    (s.sendFabric (.renewed w.peer w.gran e)).watchHome w.gran e
  | (s, .fault _) => (s.writeBackEach (s.beforeClaim w.gran) false).after 64 .claimGrant { addr := w.gran }
  | (s, _) => s

/-- A free granule goes to the oldest task that waits for it; one of this module goes on with its slot. -/
def grantNext (s : State) (gran : Nat) : State :=
  if (s.claimOf gran).isSome then s
  else match s.oldestWant gran, s.oldestAsk gran with
    | none, none => s
    | some w, none => s.advanceLater w.team w.slot
    | none, some a => s.grantRemote a
    | some w, some a => if older (s.team w.team).age a.age then s.advanceLater w.team w.slot else s.grantRemote a

/-- What holds the granule that a peer's task asks for: a younger holder is wounded, a free granule goes on (25 R383). -/
def pressFor (s : State) (w : RemoteWant) : State :=
  match s.claimOf w.gran with
  | none => s.grantNext w.gran
  | some c =>
    if remoteHolder c.team then s.woundRemote w.age w.gran
    else if older w.age (s.team c.team).age && s.woundable c.team then s.afterOnce 1 .wound { team := c.team } else s

/-- The peers' requests for a granule count. -/
def pressAll (s : State) (gran : Nat) : State :=
  if s.time.sync then (s.fab.asked.filter fun w => w.gran = gran).foldl pressFor s else s

/-- A peer's task requests a granule. Without SYNC the request waits and holds nothing back: no remote claim is granted, and local
claims proceed unchanged (26 R395). -/
def askRemote (s : State) (w : RemoteWant) : State :=
  let s := s.modFab fun f => { f with asked := f.asked ++ [w] }
  if s.time.sync then s.pressFor w else s

/-- The claim or the request of a peer's task for a granule ends: what it holds for the fold is discarded, the stores that
waited drain, and the granule goes on. A release of another task than the holder changes nothing (R393). -/
def freeRemote (s : State) (peer gran : Nat) (age : DWord) : State :=
  let mine := fun (l : LeaseGiven) => l.gran = gran && l.holder = peer && l.age = age
  if s.fab.given.any mine then
    let s := s.modFab fun f => { f with given := f.given.filter fun l => !mine l }
    let s := s.modHome fun h => { h with claims := h.claims.filter fun c => !(c.gran = gran && c.team = remoteTeam peer) }
    (s.drainLater fun l => gran / 256 = l / 512).grantNext gran
  else s.modFab fun f => { f with asked := f.asked.filter fun w => !(w.gran = gran && w.peer = peer && w.age = age) }

/-- A peer grants a granule to a task of this module until `expiry`; a task that no longer asks gives it back. DESIGN CHOICE
(log entry 81): a module without SYNC gives it back too, and the touching access waits (26 R395). -/
def heldFrom (s : State) (n gran expiry : Nat) : State :=
  let back := s.sendBy n (.release (keyPeer (gran * 256)) (keyPa (gran * 256) / 256) (s.team n).age)
  match s.home.wants.find? fun w => w.gran = gran && w.team = n with
  | none => back
  | some w =>
    let asked := fun (s : State) => s.modHome fun h => { h with wants := h.wants.filter fun x => x != w }
    if !s.time.sync then (asked back).advanceLater n w.slot
    else
      let s := (asked s).modHome fun h => { h with claims := insertBy (fun c => c.gran) ⟨gran, n, false⟩ h.claims }
      let s := s.modFab fun f => { f with held := f.held ++ [⟨n, gran, keyPeer (gran * 256), expiry⟩] }
      ((s.after (20 * usCycles) .leaseRenewal { team := n, addr := gran }).watchHolder n gran expiry).advanceLater n w.slot

/-! ### Time (26 R391, R392, R395) -/

/-- Every lease is looked at: time may have been stepped. -/
def watchLeases (s : State) : State :=
  let s := s.fab.held.foldl (fun s l => s.after 1 .holderLeaseLapse { team := l.team, addr := l.gran }) s
  s.fab.given.foldl (fun s l => s.after 1 .homeLeaseExpiry { addr := l.gran }) s

/-- SYNC becomes 0 (26 R395): every held lease counts as lapsed. -/
def loseSync (s : State) : State :=
  if !s.time.sync then s
  else
    let s : State := { s with time := { s.time with sync := false, losses := s.time.losses + 1, good := 0 } }
    (distinct (s.fab.held.map fun l => l.team)).foldl (fun s n => s.lapseWound n) s

/-- SYNC becomes 1: leases given expire again, and requests of peers count again. -/
def gainSync (s : State) : State :=
  let s : State := { s with time := { s.time with sync := true } }
  let s := s.fab.given.foldl (fun s l => s.after 1 .homeLeaseExpiry { addr := l.gran }) s
  (distinct (s.fab.asked.map fun w => w.gran)).foldl (fun s g => s.after 1 .claimGrant { addr := g, nums := [2] }) s

/-- µs of global time that a step of the clock passes over count for every watchdog that runs; one that they take past its limit
expires (18 R324, 26 R392). -/
def skipTime (s : State) (us : Nat) : State :=
  s.ctxs.foldl (fun s (p : Nat × Ctx) =>
    let k := s.ctx p.1
    if us = 0 || !k.en || k.halt || !(s.teams.any fun m => m.ctx = p.1 && m.status = .resident) then s
    else
      let s := s.modCtx p.1 fun k => { k with wdCount := k.wdCount + us }
      if k.wdlim != 0 && k.wdlim.toNat * 1000 < k.wdCount + us then s.after 1 .watchdogExpiry { ctx := p.1 } else s) s

/-- A time message of the fabric with its time in ns: OFFSET is taken, a clock that is behind is stepped, one that is ahead
is slewed. -/
def timeMessage (s : State) (fabric : Nat) : State :=
  let off : Int := (s.gtime : Int) - fabric
  let far := off.natAbs
  let good := if far ≤ 125 then s.time.good + 1 else 0
  let s : State := if off < 0 then s.skipTime (fabric / 1000 - s.gtime / 1000) else s
  let s : State := { s with time := { s.time with
    offset := off, good := good, last := s.cycle
    sixths := if off < 0 then 6 * fabric else s.time.sixths
    slew := if off < 0 then 0 else 6 * off.natAbs } }
  let s := s.after (100 * usCycles) .syncTimeout { len := s.cycle }
  let s := if 250 < far then s.loseSync else if 3 ≤ good && !s.time.sync then s.gainSync else s
  if off < 0 then s.watchLeases else s

/-! ### The commit across modules (25 R384) -/

/-- The commit of a team, while the team goes on with it. -/
def decision? (s : State) (n : Nat) : Option Decision := s.fab.decisions.find? fun d => d.team = n

/-- Changes the commit that stands under a number. -/
def modDecision (s : State) (n : Nat) (f : Decision → Decision) : State :=
  s.modFab fun x => { x with decisions := x.decisions.map fun d => if d.team = n then f d else d }

/-- The message that applies a granule at its home. -/
def sendApply (s : State) (gran : Nat) : State := s.sendFabric (.apply (keyPeer (gran * 256)) (keyPa (gran * 256) / 256))

/-- Every peer has acknowledged: the commit is decided. The local lines are applied, their units having been copied as its first
step (25 R381), and every home is told to apply its own. -/
def decide_ (s : State) (n : Nat) (grans : List Nat) : State :=
  let s := (s.applyShadows n).modDecision n fun d => { d with peers := grans, decided := true }
  grans.foldl (fun s g => s.sendApply g) s

/-- A peer has acknowledged a prepare. -/
def prepared (s : State) (n gran : Nat) : State :=
  match s.decision? n with
  | none => s
  | some d =>
    if d.decided then s
    else
      let left := d.peers.filter fun g => g != gran
      let s := s.modDecision n fun d => { d with peers := left }
      if left.isEmpty then s.decide_ n d.grans else s

/-- The decided commit of a team that awaits a granule's home; the team may have started again or ended since (25 R384). -/
def awaitsApply (s : State) (n gran : Nat) : Option Decision :=
  s.fab.decisions.find? fun d => d.decided && d.team % 2 ^ 31 = n && d.peers.contains gran

/-- A peer has applied its lines: after the last one the claims are released, and a team that has gone on with the commit has ended
its task. -/
def applied (s : State) (n gran : Nat) : State :=
  match s.awaitsApply n gran with
  | none => s
  | some d =>
    let left := d.peers.filter fun g => g != gran
    if left.isEmpty then
      let s := s.modFab fun f => { f with decisions := f.decisions.filter fun x => x.team != d.team }
      if d.team = n then (s.finishTask n).tryEnd n else s.releaseClaims d.team d.age
    else s.modDecision d.team fun d => { d with peers := left }

/-- The lease that this module has given for a granule. -/
def given? (s : State) (gran : Nat) : Option LeaseGiven := s.fab.given.find? fun l => l.gran = gran

/-- Changes a lease given. -/
def modGiven (s : State) (gran : Nat) (f : LeaseGiven → LeaseGiven) : State :=
  s.modFab fun x => { x with given := x.given.map fun l => if l.gran = gran then f l else l }

/-- A peer's remote lines arrive: the claim of its task is committing, and the prepare is acknowledged; without the claim it
is refused. -/
def prepareRemote (s : State) (peer gran : Nat) (age : DWord) (bytes : List (Nat × Byte)) : State :=
  match s.given? gran with
  | some l =>
    if l.holder != peer || l.age != age then s.sendFabric (.refused peer gran)
    else
      let s := s.modGiven gran fun l => { l with committing := true, bytes := bytes }
      let s := s.modHome fun h => { h with claims := h.claims.map fun c => if c.gran = gran then { c with committing := true } else c }
      (s.sendFabric (.prepared peer gran)).after (20 * usCycles) .applyQuery { addr := gran }
  | none => s.sendFabric (.refused peer gran)

/-- A decided fold's lines are applied at this home and acknowledged; the claim stays committing until its holder releases it,
once every home has applied (12 R257). -/
def applyRemote (s : State) (peer gran : Nat) : State :=
  match s.given? gran with
  | some l =>
    if l.holder != peer || !l.committing then s.sendFabric (.applied peer gran)
    else
      let s := [gran * 2, gran * 2 + 1].foldl (fun s line =>
        let b := l.bytes.filter fun x => lineOf x.1 = line
        if b.isEmpty then s else s.lineWrite line b) s
      (s.modGiven gran fun l => { l with bytes := [] }).sendFabric (.applied peer gran)
  | none => s.sendFabric (.applied peer gran)

/-! ### Extents (26 R396) -/

/-- Ten seconds, and two, in cycles. -/
def leaseCycles : Nat := 10000 * msCycles
def renewCycles : Nat := 2000 * msCycles

/-- A pool port works. -/
def poolUp (s : State) (base : Nat) : Bool := !s.fab.poolDown.contains (base / 2 ^ 45 % 8)

/-- A lease on an extent lapses: its lines are dropped from L1, L2, private copies and buffers, with tasks' shadow lines; dirty ones are discarded, so
that the shelf's content stands, and every access to it will trap. -/
def lapseExtent (s : State) (e : Extent) : State :=
  let inside := fun (line : Nat) => keyTgt (line * 128) = 1 && e.base ≤ keyPa (line * 128) && keyPa (line * 128) < e.base + e.size
  let s := s.modFab fun f => { f with extents := f.extents.map fun x => if x.id = e.id then { x with lapsed := true } else x }
  let s := (s.dropL1All fun x => inside x.line).mapCores fun k => { k with sb := k.sb.filter fun x => !inside x.line }
  let s : State := { s with clusters := s.clusters.map fun (k : Cluster) => { k with privs := k.privs.filter fun p => !inside p.line } }
  let mem := (s.home.l2.filter fun x => inside x.line).foldl (fun (m : Memory) x => match x.under with
    | some old => m.putAll (lineBytes x.line old)
    | none => m) s.mem
  ({ s with mem := mem }).modHome fun h => { h with
    l2 := h.l2.filter fun x => !inside x.line
    shadows := h.shadows.filter fun x => !inside x.line
    fwd := h.fwd.filter fun f => !inside f.line
    flights := h.flights.map fun (f : Flight) => { f with stale := f.stale || inside f.line } }

/-- The shelf zeroes an extent that it reclaimed before it grants it again (26 R397). -/
def zeroExtent (s : State) (base size : Nat) : State :=
  let out := fun (key : Nat) => !(keyTgt key = 1 && base ≤ keyPa key && keyPa key < base + size)
  { s with mem := s.mem.filter fun c => out c.1, poison := s.poison.filter fun l => out (l * 128) }

end State

open State

/-- CLAIM_GRANT (08 R184, 25 R383): a released granule of this module goes to the oldest task that waits for it. With
`nums` [0, peer] a peer's task of age `x` requests it; with [1, peer] its claim is released; with [2] the requests that SYNC has
held back count; for a granule on a peer,
its home grants it to `team` until `len`. -/
def execClaimGrant (s : State) : Host.Outcome State Fault Refusal :=
  let g := s.arg.addr
  .next (match s.arg.nums with
    | [0, peer] => s.askRemote ⟨g, peer, s.arg.x⟩
    | [1, peer] => s.freeRemote peer g s.arg.x
    | [2] => s.pressAll g
    | _ => if remoteGran g then s.heldFrom s.arg.team g s.arg.len else s.grantNext g)

/-- TIME_MESSAGE (R391, R392): `len` is the fabric's time in ns. -/
def execTimeMessage (s : State) : Host.Outcome State Fault Refusal := .next (s.timeMessage s.arg.len)

/-- SYNC_TIMEOUT (R391): no message for 100 µs. -/
def execSyncTimeout (s : State) : Host.Outcome State Fault Refusal :=
  .next (if s.time.last = s.arg.len then s.loseSync else s)

/-- LEASE_RENEWAL (25 R383, 26 R393, R394): every 20 µs a held lease is renewed. With `ok`, the home's answer has come: the
new expiry `len`, or with `nums` not empty a refusal, which wounds the task. A decided commit renews what it holds until every
home has applied. -/
def execLeaseRenewal (s : State) : Host.Outcome State Fault Refusal :=
  let n := s.arg.team
  let g := s.arg.addr
  .next (match s.fab.held.find? fun l => l.team % 2 ^ 31 = n && l.gran = g with
    | none => s
    | some l =>
      if s.arg.ok then
        if !s.arg.nums.isEmpty then if l.team = n then s.lapseWound n else s
        else
          let s := s.modFab fun f => { f with held := f.held.map fun x => if x = l then { x with expiry := max x.expiry s.arg.len } else x }
          s.watchHolder n g s.arg.len
      else
        (s.sendBy n (.renew (keyPeer (g * 256)) (keyPa (g * 256) / 256) (s.gtime + 50000) (s.team n).age)).after (20 * usCycles) .leaseRenewal
          { team := n, addr := g })

/-- RENEWAL_RECEIVE (26 R394, R395): a renewal of peer `id` for its task of age `x` and granule `addr` until `len` is accepted,
clamped, or refused. -/
def execRenewalReceive (s : State) : Host.Outcome State Fault Refusal :=
  let g := s.arg.addr
  let e := min s.arg.len (s.gtime + 50250)
  .next (match s.given? g with
    | some l =>
      if l.holder = s.arg.id && l.age = s.arg.x && s.time.sync then
        let e := max l.expiry e
        ((s.modGiven g fun l => { l with expiry := e }).sendFabric (.renewed s.arg.id g e)).watchHome g e
      else s.sendFabric (.refused s.arg.id g)
    | none => s.sendFabric (.refused s.arg.id g))

/-- HOLDER_LEASE_LAPSE (26 R393, 25 R385): GTIME has reached E − 250 ns, or (`ok`) a claim has not been answered: the task
is wounded, unless its commit is decided. -/
def execHolderLeaseLapse (s : State) : Host.Outcome State Fault Refusal :=
  let n := s.arg.team
  let g := s.arg.addr
  .next (if s.arg.ok then (if s.home.wants.any fun w => w.gran = g && w.team = n then s.lapseWound n else s)
    else match s.fab.held.find? fun l => l.team = n && l.gran = g with
      | none => s
      | some l => if l.expiry ≤ s.gtime + 250 then s.lapseWound n else s.watchHolder n g l.expiry)

/-- HOME_LEASE_EXPIRY (26 R393, R395): GTIME has reached E + 250 ns without a renewal: the claim is released, unless it is
committing; without SYNC it stays held until SYNC is 1 again. -/
def execHomeLeaseExpiry (s : State) : Host.Outcome State Fault Refusal :=
  let g := s.arg.addr
  .next (match s.given? g with
    | none => s
    | some l =>
      if l.committing || !s.time.sync then s
      else if l.expiry + 250 ≤ s.gtime then s.freeRemote l.holder g l.age
      else s.watchHome g l.expiry)

/-- COMMIT_PREPARE (25 R384): the lines of peer `id`, for its task of age `x` and granule `addr`, arrive. -/
def execCommitPrepare (s : State) : Host.Outcome State Fault Refusal :=
  .next (s.prepareRemote s.arg.id s.arg.addr s.arg.x s.arg.image)

/-- PREPARE_ACK (25 R384): the home of granule `addr` acknowledges; the last acknowledgement decides the commit. -/
def execPrepareAck (s : State) : Host.Outcome State Fault Refusal := .next (s.prepared s.arg.team s.arg.addr)

/-- PREPARE_TIMEOUT (25 R384): a missing acknowledgement after 100 µs wounds the task. -/
def execPrepareTimeout (s : State) : Host.Outcome State Fault Refusal :=
  .next (match s.decision? s.arg.team with
    | some d => if d.decided || d.since != s.arg.len then s else s.woundTeam s.arg.team
    | none => s)

/-- COMMIT_APPLY (25 R384): the lines of peer `id` for granule `addr` are applied at this home. With `ok`, a peer has
applied its granule `addr` of `team`. -/
def execCommitApply (s : State) : Host.Outcome State Fault Refusal :=
  .next (if s.arg.ok then s.applied s.arg.team s.arg.addr else s.applyRemote s.arg.id s.arg.addr)

/-- APPLY_QUERY (25 R384): every 20 µs a home that holds committing lines asks the holder. With `ok`, a peer asks this module
about its granule `addr`, held for the task of age `x`: a decided commit is applied there again, an unknown one is
discarded. -/
def execApplyQuery (s : State) : Host.Outcome State Fault Refusal :=
  let g := s.arg.addr
  .next (if s.arg.ok then
      match s.fab.decisions.find? fun d => d.grans.contains g && d.age = s.arg.x with
      | some d => if d.decided then s.sendApply g else s
      | none => s.sendFabric (.release (keyPeer (g * 256)) (keyPa (g * 256) / 256) s.arg.x)
    else match s.given? g with
      | some l => if l.committing then (s.sendFabric (.query l.holder g l.age)).after (20 * usCycles) .applyQuery { addr := g } else s
      | none => s)

/-- A holder's module is removed (25 R384): its committing lines become poisoned, and those claims end. -/
def execHolderModuleRemoved (s : State) : Host.Outcome State Fault Refusal :=
  let p := s.arg.id
  let s := s.modFab fun f => { f with removed := insertBy id p (f.removed.filter fun x => x != p) }
  .next ((s.fab.given.filter fun l => l.holder = p && l.committing).foldl (fun s l =>
    let s := (distinct (l.bytes.map fun b => lineOf b.1)).foldl (fun s line => s.losePoison line 0 0) s
    s.freeRemote p l.gran l.age) s)

/-- EXTENT_RENEWAL (26 R396): every 2 s each held extent is renewed, with SYNC and a working port. With `ok` the shelf's
answer has come: the lease runs anew, or an extent `id` of `len` bytes at `addr` is granted; with `nums` the shelf had
reclaimed it, so it is zero (R397). -/
def execExtentRenewal (s : State) : Host.Outcome State Fault Refusal :=
  let id := s.arg.id
  .next (match s.fab.extents.find? fun e => e.id = id with
    | some e =>
      if e.lapsed then s
      else if s.arg.ok then
        let s := s.modFab fun f => { f with extents := f.extents.map fun x => if x.id = id then { x with renewed := s.cycle } else x }
        s.after leaseCycles .extentLeaseLapse { id := id }
      else
        let s := if s.time.sync && s.poolUp e.base then s.sendFabric (.pool id) else s
        s.after renewCycles .extentRenewal { id := id }
    | none =>
      if s.arg.ok then
        let s := s.modFab fun f => { f with extents := ⟨id, s.arg.addr, s.arg.len, s.cycle, false⟩ :: f.extents }
        let s := if s.arg.nums.isEmpty then s else s.zeroExtent s.arg.addr s.arg.len
        (s.after renewCycles .extentRenewal { id := id }).after leaseCycles .extentLeaseLapse { id := id }
      else s)

/-- EXTENT_LEASE_LAPSE (26 R396). -/
def execExtentLeaseLapse (s : State) : Host.Outcome State Fault Refusal :=
  .next (match s.fab.extents.find? fun e => e.id = s.arg.id with
    | some e => if !e.lapsed && e.renewed + leaseCycles ≤ s.cycle then s.lapseExtent e else s
    | none => s)

end Sys2Proof.Machine
end

