-- ==== Sys2Proof/Machine/Signature.lean ====
section
/-! DEFINITION. ECDSA on brainpoolP384r1 (28 R411): the curve of RFC 5639, its points, a signature. PRESUMED (log entry 10):
the spec names the curve and the scheme; the constants and the steps are those of the standards. -/

namespace Sys2Proof.Machine

/-- The field's prime, the coefficient A of y² = x³ + A·x + B, the order of the base point. -/
def curveP : Nat := 0x8CB91E82A3386D280F5D6F7E50E641DF152F7109ED5456B412B1DA197FB71123ACD3A729901D1A71874700133107EC53
def curveA : Nat := 0x7BC382C63D8C150C3C72080ACE05AFA0C2BEA28E4FB22787139165EFBA91F90F8AA5814A503AD4EB04A8C7DD22CE2826
def curveN : Nat := 0x8CB91E82A3386D280F5D6F7E50E641DF152F7109ED5456B31F166E6CAC0425A7CF3AB6AF6B7FC3103B883202E9046565

/-- The base point. -/
def curveG : Nat × Nat :=
  (0x1D1C64F068CF45FFA2A63A81B7C13F6B8847A3E77EF14FE3DB7FCAFE0CBD10E8E826E03436D646AAEF87B2E247D4AF1E,
   0x8ABE1D7520F9C2A45CB1EB8E95CFD55262B70B29FEEC5864E19C054FF99129280E4646217791811142820341263C5315)

/-- A power modulo `m`; an exponent of at most as many bits as the first number. -/
def modPow (m : Nat) : Nat → Nat → Nat → Nat
  | 0, _, _ => 1
  | bits + 1, b, e =>
    let h := modPow m bits (b * b % m) (e / 2)
    if e % 2 = 1 then h * b % m else h

/-- The inverse modulo a prime of 384 bits. -/
def modInv (m x : Nat) : Nat := modPow m 384 x (m - 2)

/-- The sum of two points; none is the point at infinity. -/
def curveAdd (p q : Option (Nat × Nat)) : Option (Nat × Nat) := match p, q with
  | none, q => q
  | p, none => p
  | some (x1, y1), some (x2, y2) =>
    if x1 = x2 && (y1 + y2) % curveP = 0 then none
    else
      let slope := if x1 = x2 then (3 * x1 * x1 + curveA) * modInv curveP (2 * y1 % curveP) % curveP
        else (y2 + curveP - y1) * modInv curveP ((x2 + curveP - x1) % curveP) % curveP
      let x := (slope * slope + 2 * curveP - x1 - x2) % curveP
      some (x, (slope * (x1 + curveP - x) + curveP - y1) % curveP)

/-- A multiple of a point; a factor of at most as many bits as the first number. -/
def curveMul : Nat → Nat → Option (Nat × Nat) → Option (Nat × Nat)
  | 0, _, _ => none
  | bits + 1, k, p =>
    let h := curveMul bits (k / 2) (curveAdd p p)
    if k % 2 = 1 then curveAdd h p else h

/-- The signature of a digest `z` under key `d` with nonce `k`: r and s. -/
def ecdsa (z d k : Nat) : Nat × Nat := match curveMul 384 k (some curveG) with
  | some (x, _) =>
    let r := x % curveN
    (r, modInv curveN k * (z + r * d) % curveN)
  | none => (0, 0)

/-- The signature with the first of some nonces that gives no zero; the last is taken as it comes. -/
def ecdsaFirst (z d : Nat) : List Nat → Nat × Nat
  | [] => (0, 0)
  | [k] => ecdsa z d k
  | k :: l => let x := ecdsa z d k; if x.1 = 0 || x.2 = 0 then ecdsaFirst z d l else x

/-- A number from 1 to the order less 1. -/
def curveScalar (x : Nat) : Nat := 1 + x % (curveN - 1)

end Sys2Proof.Machine
end

