-- ==== Sys2Proof/Machine/Management.lean ====
section
/-! DEFINITION. The management registers of BAR0 (28 R412): reads and stores; publications (25 R386, R387), digests (25
R390), attestation (28 R411) and the power cap (28 R408). -/

namespace Sys2Proof.Machine

namespace State

/-! ### Reads -/

/-- TIMESTAT (26 R391). -/
def timeStat (s : State) : DWord :=
  BitVec.ofNat 64 (fields [(63, s.time.sync.toNat), (32, s.time.losses.toNat)]) ||| (BitVec.ofInt 32 s.time.offset).zeroExtend 64

/-- 64 bits of COREMAP: bit c is set where core c is present (27 R402). -/
def coreMap (s : State) (i : Nat) : DWord :=
  (List.range 64).foldl (fun (m : DWord) c => if s.repair.absent.contains (64 * i + c) then m else m ||| bit64 c) 0

/-- A register of BAR0 of a module that is ready (28 R412, 18 R311). -/
def register (s : State) (off : Nat) : DWord := match off with
  | 0x0000 => BitVec.ofNat 64 s.mgmt.boot
  | 0x0008 => s.mgmt.ctxTable
  | 0x0010 => s.mgmt.cmdDone
  | 0x0018 => s.mgmt.mgmtErr
  | 0x0020 => s.mgmt.partTab
  | 0x0028 => s.mgmt.prqRing
  | 0x0030 => s.mgmt.prqN
  | 0x0038 => s.mgmt.domTab
  | 0x0040 => s.mgmt.commonsBase
  | 0x0048 => s.mgmt.persTab
  | 0x0060 => s.timeStat
  | 0x0068 => s.mgmt.errLog
  | 0x0070 => s.mgmt.pwrCap
  | 0x0080 => s.mgmt.srRing
  | 0x0088 => s.mgmt.srN
  | n => if 0x1000 ≤ n && n < 0x10C0 && n % 8 = 0 then s.coreMap ((n - 0x1000) / 8) else 0

/-- A read of BAR0: BOOTSTAT alone reads as it stands until the module is ready (28 R410). -/
def bar0 (s : State) (off : Nat) : DWord :=
  if s.mgmt.boot = 6 || off = 0 then s.register off else 0

/-! ### Tasks stored to PUBCMD, DIGCMD and ATTEST, in order (28 R412) -/

/-- The step of a kind of task; `ok` says that it is performed. -/
def taskStep : Nat → Instr
  | 0 => .publish
  | 1 => .digest
  | _ => .attest

/-- The oldest task is performed next. -/
def startTask (s : State) : State := match s.mgmt.tasks with
  | [] => s
  | t :: _ => s.after 1 (taskStep t.1) { x := t.2, ok := true }

/-- A store queues a task. -/
def queueTask (s : State) (kind : Nat) (x : DWord) : State :=
  let idle := s.mgmt.tasks.isEmpty
  let s := s.modMgmt fun m => { m with tasks := m.tasks ++ [(kind, x)] }
  if idle then s.startTask else s

/-- A task is finished. -/
def finishTask_ (s : State) : State := (s.modMgmt fun m => { m with tasks := m.tasks.tail }).startTask

/-! ### Stores (28 R412) -/

/-- Some context is enabled. -/
def anyEnabled (s : State) : Bool := s.ctxs.any fun k => k.2.en

/-- The cap that a store to PWRCAP sets (28 R408). -/
def clampCap (x : DWord) : DWord := if x.toNat < 1200 then 1200 else if 4800 < x.toNat then 4800 else x

/-- In the partition table at an address, two configured partitions share an island (18 R321). DESIGN CHOICE (log
entry 84): a store to PARTTAB that selects such a table is an error and ignored. -/
def tableShares (s : State) (t : Nat) : Bool :=
  let es := (List.range 48).map fun p => BitVec.ofNat 128 (s.mem.le (t + 16 * p) 16)
  let masks := (es.filter fun e => e.extractLsb' 84 4 != 0).map fun e => e.extractLsb' 0 48
  (masks.foldl (fun (acc : BitVec 48 × Bool) m => (acc.1 ||| m, acc.2 || acc.1 &&& m != 0)) (0, false)).2

/-- A store to a register that must not change while a context is enabled. -/
def protectedStore (s : State) (f : Mgmt → Mgmt) : State := if s.anyEnabled then s.mgmtError else s.modMgmt f

/-- A store to BAR0 of a module that is ready. DESIGN CHOICE (log entry 86): an address is kept as stored, aligned or not. -/
def storeBar0 (s : State) (off : Nat) (x : DWord) : State := match off with
  | 0x0008 => s.protectedStore fun m => { m with ctxTable := x }
  | 0x0010 => s.queueCommand x
  | 0x0020 => if s.tableShares x.toNat then s.mgmtError else s.protectedStore fun m => { m with partTab := x }
  | 0x0028 => s.modMgmt fun m => { m with prqRing := x }
  | 0x0038 => s.protectedStore fun m => { m with domTab := x }
  | 0x0040 => s.protectedStore fun m => { m with commonsBase := x }
  | 0x0048 => s.protectedStore fun m => { m with persTab := x }
  | 0x0050 => s.queueTask 0 x
  | 0x0058 => s.queueTask 1 x
  | 0x0068 => s.modMgmt fun m => { m with errLog := x }
  | 0x0070 => s.modMgmt fun m => { m with pwrCap := clampCap x }
  | 0x0078 => s.queueTask 2 x
  | 0x0080 => s.modMgmt fun m => { m with srRing := x }
  | _ => s

/-- Bytes that the module's DRAM holds: 24 stacks of 96 GB, each at 2^37 times its number (18 R314). -/
def populated (a n : Nat) : Bool := a / 2 ^ 37 < 24 && a % 2 ^ 37 + n ≤ 96000000000

/-! ### Publications (25 R386, R387) -/

/-- What a publication comes to: STATUS and WINNER. -/
def pubStatus (s : State) (a st winner : Nat) : State :=
  (s.deviceWrite (a + 53) (leBytes 4 winner)).deviceWrite (a + 57) [BitVec.ofNat 8 st]

/-- STATUS alone. -/
def pubFails (s : State) (a st : Nat) : State := s.deviceWrite (a + 57) [BitVec.ofNat 8 st]

/-- The STATUS for a cause that a copy or a compare meets. -/
def pubCause (c : Cause) : Nat := if c = .linkLost then 0x14 else 0x13

/-- A range of pool memory can be read: a STATUS where it cannot. -/
def poolRange (s : State) (a n : Nat) : Option Nat :=
  let k := poolKey a
  match s.poolLost k n with
  | some c => some (pubCause c)
  | none => if s.poison.any fun l => k < l * 128 + 128 && l * 128 < k + n then some 0x13 else none

/-- Steps 2 to 4 with a pool home. -/
def publishPool (s : State) (a : Nat) (ident : BitVec 63) (expect new : Nat) : State :=
  let dom := s.domainOf ident
  let at_ := dirAt dom ident
  match s.poolRange at_ 32, s.poolDir dom ident with
  | some 0x14, _ => s.pubFails a 0x14
  | _, none => s.pubFails a 0x11
  | _, some bits =>
    let d := DirEntry.of bits
    let n := d.sizem1 + 1
    if !d.ok then s.pubFails a 0x11
    else if d.version != expect then s.pubStatus a 2 d.version
    else match s.poolRange d.addr n, s.poolLost (poolKey new) n with
    | some x, _ => s.pubFails a x
    | none, some c => s.pubFails a (pubCause c)
    | none, none =>
      let s := s.deviceWrite (poolKey new) (s.mem.bytes (poolKey d.addr) n)
      let s := s.deviceWrite (poolKey at_) (leBytes 8 new)
      let s := s.deviceWrite (poolKey at_ + 28) (leBytes 4 ((expect + 1) % 2 ^ 32))
      s.pubFails a 1

/-- What a part of a publication at a peer comes to: it awaits answers, has ended with a STATUS, or has what it needs. -/
inductive PubPart where
  | waits
  | ends (st : Nat)
  | ok (b : List Byte)

/-- Bytes of a peer, line by line: all are asked for, then awaited. -/
def peerBytes (s : State) (peer a n : Nat) : State × PubPart :=
  let place := fun (x : Nat) => (⟨3, peer, x, false⟩ : Phys)
  let (s, rs) := (lineParts a n n).foldl (fun (acc : State × List (Reply × Nat)) p =>
    let (s, r) := acc.1.farRead 0 (place p.1) p.2
    (s, acc.2 ++ [(r, p.2)])) (s, [])
  let bad := rs.findSome? fun r => match r.1 with
    | .failed c => some c
    | _ => none
  (s, match bad with
    | some c => .ends (pubCause c)
    | none => if rs.any fun r => r.1 = .none then .waits
      else .ok (rs.flatMap fun r => match r.1 with
        | .data x => (leBytes 128 x.toNat).take r.2
        | _ => []))

/-- What writes to a peer come to: one has failed, one awaits its acknowledgement, or all have theirs. -/
def writesOf (rs : List Reply) : PubPart :=
  match rs.findSome? fun r => match r with
    | .failed c => some c
    | _ => none with
  | some c => .ends (pubCause c)
  | none => if rs.any fun r => r = .none then .waits else .ok []

/-- Bytes of a line are written to a peer once, and their acknowledgement awaited. -/
def peerLine (s : State) (peer a : Nat) (b : List Byte) : State × Reply :=
  s.farDo 0 .write (⟨3, peer, a, false⟩ : Phys).key b.length fun s =>
    some (s.farSend 0 (.write peer (a / 128) (bytesAt (a % 128) b)))

/-- Bytes are written to a peer, line by line, and their acknowledgements awaited. -/
def peerStore (s : State) (peer a : Nat) (b : List Byte) : State × PubPart :=
  let (s, rs) := (lineParts a b.length b.length).foldl (fun (acc : State × List Reply) p =>
    let (s, r) := acc.1.peerLine peer p.1 ((b.drop (p.1 - a)).take p.2)
    (s, acc.2 ++ [r])) (s, [])
  (s, writesOf rs)

/-- The lines of an object that leaves for a publication reach its peer before the publication goes on: each write is
acknowledged (21 R351, 25 R387). -/
def peerLeaves (s : State) (ctx : Nat) (ident : BitVec 63) : State × PubPart :=
  match (s.findEntry ctx ident).bind s.run? with
  | none => (s, .ok [])
  | some r =>
    let e := s.cEntry r.slot
    let (s, rs) := (homeParts e r).foldl (fun (acc : State × List Reply) p =>
      let (l, a, n) := p
      let new := (acc.1.farOp? 0 .write (⟨3, e.peer, a, false⟩ : Phys).key n).isNone
      let (s, x) := acc.1.peerLine e.peer a (acc.1.partBytes e r a n)
      let s := if new && s.poisoned l then s.sendFabric (.poison e.peer (a / 128)) else s
      (s, acc.2 ++ [x])) (s, [])
    match writesOf rs with
    | .ok b => (s.modHome fun h => { h with runs := h.runs.map fun x => if x.slot = r.slot then { x with written := [] } else x }, .ok b)
    | x => (s, x)

/-- The compare at the peer's home: what it found there. -/
def peerCompare (s : State) (peer at_ expect new : Nat) : State × PubPart :=
  let key := (⟨3, peer, at_, false⟩ : Phys).key
  match s.farDo 0 .compare key 32 fun s => some (s.farSend 0 (.compare peer at_ expect new)) with
  | (s, .none) => (s, .waits)
  | (s, .failed c) => (s, .ends (pubCause c))
  | (s, .data x) => (s, .ok ((leBytes 128 x.toNat).take 32))
  | (s, _) => (s, .ok [])

/-- Steps 2 to 4 with a peer home, as far as its answers have come; whether they are finished. -/
def publishAt (s : State) (a : Nat) (ident : BitVec 63) (expect new : Nat) : State × Bool :=
  let dom := s.domainOf ident
  let at_ := dirAt dom ident
  match s.peerBytes dom.peer at_ 32 with
  | (s, .waits) => (s, false)
  | (s, .ends st) => (s.pubFails a (if st = 0x14 then 0x14 else 0x11), true)
  | (s, .ok dir) =>
    let d := DirEntry.of (BitVec.ofNat 256 (leNat dir))
    if !d.ok then (s.pubFails a 0x11, true)
    else if d.version != expect then (s.pubStatus a 2 d.version, true)
    else match s.peerBytes dom.peer d.addr (d.sizem1 + 1) with
    | (s, .waits) => (s, false)
    | (s, .ends st) => (s.pubFails a st, true)
    | (s, .ok b) => match s.peerStore dom.peer new b with
      | (s, .waits) => (s, false)
      | (s, .ends st) => (s.pubFails a st, true)
      | (s, .ok _) => match s.peerCompare dom.peer at_ expect new with
        | (s, .waits) => (s, false)
        | (s, .ends st) => (s.pubFails a st, true)
        | (s, .ok found) =>
          let v := (DirEntry.of (BitVec.ofNat 256 (leNat found))).version
          (if v = expect then s.pubFails a 1 else s.pubStatus a 2 v, true)

/-- A publication at a peer: what leaves reaches it first. -/
def publishPeer (s : State) (a ctx : Nat) (ident : BitVec 63) (expect new : Nat) : State × Bool :=
  match s.peerLeaves ctx ident with
  | (s, .waits) => (s, false)
  | (s, .ends st) => (s.pubFails a st, true)
  | (s, .ok _) => s.publishAt a ident expect new

/-- An object leaves for a publication and stays in leaving (25 R387, step 1): what has passed 07 R157 completes and its lines go
home, those of a peer as `peerLeaves` says. -/
def leaveHome (s : State) (slot : Nat) : State :=
  match s.run? slot with
  | none => s
  | some r =>
    let s := s.flushRun r
    let e := s.cEntry slot
    let s := s.setCEntry slot { e with st := 3 }
    if e.home = 2 then s
    else (s.writeHome e ((s.run? slot).getD r)).modHome fun h => { h with
      runs := h.runs.map fun x => if x.slot = slot then { x with written := [] } else x }

/-- The object that a publication has sent home is absent again (25 R387, step 5), and its directory entry is read anew. -/
def endPublish (s : State) (ctx : Nat) (ident : BitVec 63) : State :=
  let s := s.forgetDir ctx ident
  match s.findEntry ctx ident with
  | some slot => if (s.cEntry slot).st = 3 then s.endEviction slot else s
  | none => s

/-- Steps 2 to 5. -/
def publishOn (s : State) (a ctx : Nat) (ident : BitVec 63) (expect new : Nat) : State :=
  if (s.domainOf ident).home = 1 then ((s.publishPool a ident expect new).endPublish ctx ident).finishTask_
  else match s.publishPeer a ctx ident expect new with
    | (s, true) => ((s.farDone 0).endPublish ctx ident).finishTask_
    | (s, false) => s.after 64 .publish s.arg

/-- A publication as far as it can go now (25 R387): the resident object leaves once none of its granules is claimed; then
the home decides. A publication whose accesses are under way goes on with them. -/
def publishNow (s : State) (x : DWord) : State :=
  let a := x.toNat
  if a % 64 != 0 || !populated a 64 then s.finishTask_
  else
    let r := BitVec.ofNat 512 (s.dev a 64)
    let ctx := (r.extractLsb' 380 12).toNat
    let ident := r.extractLsb' 317 63
    let expect := (r.extractLsb' 392 32).toNat
    let new := (r.extractLsb' 0 64).toNat
    let go := fun (s : State) => s.publishOn a ctx ident expect new
    if s.mgmt.far.any fun f => f.user = 0 then go s
    else if r.extractLsb' 464 48 != 0 || r.extractLsb' 64 253 != 0 || new % 128 != 0 then (s.pubFails a 0x10).finishTask_
    else if !s.domainKnown ctx ident then (s.pubFails a 0x11).finishTask_
    else if (s.domainOf ident).home = 0 then (s.pubFails a 0x12).finishTask_
    else match s.findEntry ctx ident with
      | none => go s
      | some slot =>
        let st := (s.cEntry slot).st
        if st = 1 || st = 3 then s.after 64 .publish s.arg
        else if st = 0 then go s
        else if (s.home.runs.find? fun r => r.slot = slot).any s.runClaimed then s.after 64 .publish s.arg
        else go (s.leaveHome slot)

/-! ### Digests (25 R390) -/

/-- A byte of host or peer memory among the answers of a task: STATUS where its read has failed. -/
def farByte (s : State) (key : Nat) : Except Nat Byte :=
  match s.mgmt.far.find? fun f => f.user = 0 && f.kind = .read && f.key ≤ key && key < f.key + f.len with
  | some f => match f.reply with
    | .data x => .ok (BitVec.ofNat 8 (x.toNat / 256 ^ (key - f.key)))
    | .failed .dataPoison => .error 0x12
    | _ => .error 0x11
  | none => .error 0x11

/-- A byte of a context's address as a digest takes it, or the STATUS that its address or its line gives. -/
def digestByte (s : State) (c va : Nat) : Except Nat Byte := match placeOf va, s.walk c va with
  | .mapped, .leaf e =>
    let p := e.phys va
    if !s.allowed (s.ctx c).part p || !pteR e.pte || (s.lateFault p 0 false).isSome then .error 0x11
    else if p.tgt ≤ 1 then if s.poisoned (lineOf p.key) then .error 0x12 else .ok (s.mem.get p.key)
    else s.farByte p.key
  | _, _ => .error 0x11

/-- The bytes of a range, or the STATUS of the first that cannot be taken. -/
def digestBytes (s : State) (c va : Nat) : Nat → Except Nat (List Byte)
  | 0 => .ok []
  | n + 1 => match s.digestByte c va with
    | .error st => .error st
    | .ok b => match s.digestBytes c (va + 1) n with
      | .error st => .error st
      | .ok l => .ok (b :: l)

/-- A digest: the record's DIGEST and STATUS are written, once the lines of host and peer memory have been read. -/
def digestNow (s : State) (x : DWord) : State :=
  let a := x.toNat
  let r := BitVec.ofNat 1024 (s.dev a 128)
  let len := (r.extractLsb' 64 64).toNat
  let st := fun (s : State) (n : Nat) => s.deviceWrite (a + 64) [BitVec.ofNat 8 n]
  if a % 128 != 0 || !populated a 128 then s.finishTask_
  else if r.extractLsb' 520 120 != 0 || r.extractLsb' 128 372 != 0 || 2 ^ 40 < len then (st s 0x10).finishTask_
  else
    let c := (r.extractLsb' 500 12).toNat
    let va := (r.extractLsb' 0 64).toNat
    match s.awaits 0 c (lineParts va len len) with
    | (s, true) => s.after 64 .digest s.arg
    | (s, false) =>
      let s' := match s.digestBytes c va len with
        | .error n => st s n
        | .ok l => st (s.deviceWrite (a + 80) (sha384 l)) 1
      (s'.farDone 0).finishTask_

/-! ### Attestation (28 R411) -/

/-- The record lies in populated memory and is not poisoned. -/
def attestable (s : State) (a : Nat) : Bool :=
  a % 512 = 0 && populated a 512 && !(s.poison.any fun l => a < l * 128 + 128 && l * 128 < a + 512)

/-- The signature of bytes by the identity key, r then s: ECDSA over their SHA-384 digest; its nonces are free. -/
def sign (s : State) (b : List Byte) : State × List Byte :=
  let z := leNat (sha384 b).reverse
  let x := ecdsaFirst z (curveScalar Config.identityKey) ((List.range 8).map fun i => curveScalar (Config.signNonce (s.fresh + i)))
  ({ s with fresh := s.fresh + 8 }, beBytes 48 x.1 ++ beBytes 48 x.2)

/-- STATUS of an attestation record, where its byte exists. -/
def attestStatus (s : State) (a st : Nat) : State := if populated (a + 192) 1 then s.deviceWrite (a + 192) [BitVec.ofNat 8 st] else s

/-- The record is filled: the digests of the ROM, the firmware image that runs and the fuses, the signature over bytes 0 to 191,
STATUS; 0 elsewhere. -/
def attestNow (s : State) (x : DWord) : State :=
  let a := x.toNat
  if !s.attestable a then s.attestStatus a 0x10
  else
    let digests := (List.range 3).flatMap fun i => beBytes 48 (Config.partDigest i s.mgmt.firmware).toNat
    let (s, sig) := s.sign (s.mem.bytes a 48 ++ digests)
    let s := s.deviceWrite (a + 48) digests
    s.deviceWrite (a + 192) ([1#8] ++ List.replicate 63 0 ++ sig ++ List.replicate 160 0)

end State

open State

/-- PUBLISH (25 R386, R387): the address `x` is stored to PUBCMD, which is discarded until the module is ready (28 R410); with `ok`
the publication is performed. -/
def execPublish (s : State) : Host.Outcome State Fault Refusal :=
  .next (if s.arg.ok then s.publishNow s.arg.x else if s.mgmt.boot = 6 then s.queueTask 0 s.arg.x else s)

/-- DIGEST (25 R390), as PUBLISH with DIGCMD. -/
def execDigest (s : State) : Host.Outcome State Fault Refusal :=
  .next (if s.arg.ok then s.digestNow s.arg.x else if s.mgmt.boot = 6 then s.queueTask 1 s.arg.x else s)

/-- ATTEST (28 R411), as PUBLISH with ATTEST. STATUS is pending while the shepherd core fills the record; with `len` 1 it has filled
it. -/
def execAttest (s : State) : Host.Outcome State Fault Refusal :=
  let x := s.arg.x
  .next (if !s.arg.ok then if s.mgmt.boot = 6 then s.queueTask 2 x else s
    else if s.arg.len = 0 && s.attestable x.toNat then (s.attestStatus x.toNat 0).soon (2 ^ 20) .attest { x := x, ok := true, len := 1 }
    else (s.attestNow x).finishTask_)

/-- PWRCAP_WRITE (28 R408): clamped to 1,200 to 4,800 W; discarded until the module is ready (R410). -/
def execPwrcapWrite (s : State) : Host.Outcome State Fault Refusal :=
  .next (if s.mgmt.boot = 6 then s.modMgmt fun m => { m with pwrCap := clampCap s.arg.x } else s)

/-- REGISTER_WRITE (28 R412): a store of `x` to BAR0 offset `addr`; discarded until the module is ready (R410). -/
def execRegisterWrite (s : State) : Host.Outcome State Fault Refusal :=
  .next (if s.mgmt.boot = 6 then s.storeBar0 s.arg.addr s.arg.x else s)

end Sys2Proof.Machine
end

