-- ==== Sys2Proof/Machine/System.lean ====
section
/-! DEFINITION. The system instructions (08 R204 to R206) over the special registers (01 R15 to R23), and the PACE word
(04 R79, R80). -/

namespace Sys2Proof.Machine

namespace State

/-- Discovery registers DISC0 to DISC3 (01 R23). -/
def disc (n : Nat) : Word := match n with
  | 0 => 0x0101FFC0
  | 1 => 0x600C1040
  | 2 => 0x30082018
  | _ => 0x00040C80

/-- The value of a special register for a thread, zero-extended to 64 bits (01 R17). -/
def special (s : State) (t : Tid) (n : Nat) : DWord :=
  let m := s.team t.team
  let x := s.thread t
  match n with
  | 0x0000 => BitVec.ofNat 64 t.thr
  | 0x0001 => BitVec.ofNat 64 t.grp
  | 0x0002 => m.idTeam.zeroExtend 64
  | 0x0003 => m.idCluster.zeroExtend 64
  | 0x0004 => BitVec.ofNat 64 m.inCluster
  | 0x0010 => BitVec.ofNat 64 m.width
  | 0x0011 => BitVec.ofNat 64 m.groups.length
  | 0x0012 => m.nTeams.zeroExtend 64
  | 0x0013 => BitVec.ofNat 64 m.nClTeams
  | 0x0020 => BitVec.ofNat 64 (s.lane t)
  | 0x0021 => BitVec.ofNat 64 m.core
  | 0x0022 => BitVec.ofNat 64 (dieOf m.core)
  | 0x1000 => BitVec.ofNat 64 s.cycle
  | 0x1001 => BitVec.ofNat 64 s.gtime
  | 0x2000 => x.fpcr.zeroExtend 64
  | 0x2001 => m.age
  | 0x2002 => BitVec.ofNat 64 m.ctx
  | 0x2003 => x.rgncnt.zeroExtend 64
  | 0x2004 => m.dlvref.zeroExtend 64
  | 0x3000 => x.trapCause.zeroExtend 64
  | 0x3001 => x.trapPc
  | 0x3002 => x.trapRgn
  | 0x3003 => x.trapAddr
  | n => (disc (n - 0x4000)).zeroExtend 64

/-- An FPCR value that SETSR refuses (01 R21). -/
def badFpcr (x : Word) : Bool :=
  let rm := (x.extractLsb' 0 3).toNat
  rm = 0 || 6 ≤ rm || x.extractLsb' 6 10 != 0

/-- Writes a special register that may be written (01 R17); `x` is its source, a pair for a 64-bit register. Refusals of
the same cycle are counted after a write to DLVREF (R19). -/
def setSpecial (s : State) (t : Tid) (n : Nat) (x : DWord) : State :=
  let w := x.extractLsb' 0 32
  match n with
  | 0x2000 => s.modThread t fun y => { y with fpcr := w }
  | 0x2003 => s.modThread t fun y => { y with rgncnt := w }
  | 0x2004 => s.modTeam t.team fun m => { m with dlvref := refusedAdd w (if m.dlvNow.1 = s.cycle then m.dlvNow.2 else 0) }
  | 0x3000 => s.modThread t fun y => { y with trapCause := w }
  | 0x3001 => s.modThread t fun y => { y with trapPc := x }
  | 0x3002 => s.modThread t fun y => { y with trapRgn := x }
  | 0x3003 => s.modThread t fun y => { y with trapAddr := x }
  | _ => s

end State

open State

/-- TRAP: a new region after it, then SOFTWARE with the code (R205). -/
def execTrap (f : LF) (s : State) : Host.Outcome State Fault Refusal :=
  .next (s.perThread (.trap f) fun s t => (s.beginRegion t s.cur.next).fail .software (f.imm.zeroExtend 64))

/-- EBRK: a new region after it, then BREAKPOINT (R205). -/
def execEbrk (f : TF) (s : State) : Host.Outcome State Fault Refusal :=
  .next (s.perThread (.ebrk f) fun s t => (s.beginRegion t s.cur.next).fail .breakpoint 0)

/-- RTE: user mode at TRAPRGN (R205, 10 R226); a misaligned TRAPRGN traps first (04 R67). -/
def execRte (f : TF) (s : State) : Host.Outcome State Fault Refusal :=
  .next (s.control (.rte f) fun s t =>
    let a := (s.thread t).trapRgn
    if a.extractLsb' 0 2 != 0 then s.fail .misaligned a else .away (s.returnFromHandler t))

/-- GETSR: a special register, at latency 4 (R206). -/
def execGetsr (f : LF) (s : State) : Host.Outcome State Fault Refusal :=
  .next (s.perThread (.getsr f) fun s t =>
    let x := s.special t f.imm.toNat
    if Sr.wide f.imm then .done ((s.vdst2 t f.d.toNat x).foldl (fun s d => s.fixedOwn t d 4) s)
    else .done (s.fixedOwn t (s.vdst t f.d.toNat (x.extractLsb' 0 32)) 4))

/-- SETSR: writes a special register (R206, 01 R21). -/
def execSetsr (f : LF) (s : State) : Host.Outcome State Fault Refusal :=
  .next (s.perThread (.setsr f) fun s t =>
    let n := f.imm.toNat
    let x := if Sr.wide f.imm then (s.thread t).vpair f.d.toNat else ((s.thread t).vreg f.d.toNat).zeroExtend 64
    if n = 0x2000 && badFpcr (x.extractLsb' 0 32) then s.fail .reservedField s.cur.opPc
    else .done (s.setSpecial t n x))

/-- PACE: the stall counts of the thread's next seven bundles, without an issue slot (04 R68, R79, R80). DESIGN CHOICE (log
entry 93): the address of a PACE word is a key like any other until its thread goes past it. -/
def execPace (f : PaceF) (s : State) : Host.Outcome State Fault Refusal :=
  .next (s.cur.threads.foldl (fun s t =>
    let stamp := (s.thread t).stamp
    (s.modThread t fun x => { x with
      pc := s.cur.next
      pace := [f.c0, f.c1, f.c2, f.c3, f.c4, f.c5, f.c6].map fun c => c.toNat }).join t stamp) s)

end Sys2Proof.Machine
end

