-- ==== Sys2Proof/Machine/Mapped.lean ====
section
/-! DEFINITION. The mapped opcode space (04 R89, R90): a word executes as its target, for the threads of each team by the
decode table that the team read; or it traps EMULATE or ILLEGAL_OPCODE. -/

namespace Sys2Proof.Machine

/-- What a base instruction does, as a target of a mapped word. -/
def runTarget (i : Instr) (s : State) : Host.Outcome State Fault Refusal :=
  match i with
  | .add f => execAdd f s
  | .sub f => execSub f s
  | .addi f => execAddi f s
  | .mul f => execMul f s
  | .mulhs f => execMulhs f s
  | .mulhn f => execMulhn f s
  | .mad f => execMad f s
  | .divs f => execDivs f s
  | .divn f => execDivn f s
  | .rems f => execRems f s
  | .remn f => execRemn f s
  | .mins f => execMins f s
  | .minn f => execMinn f s
  | .maxs f => execMaxs f s
  | .maxn f => execMaxn f s
  | .abs f => execAbs f s
  | .neg f => execNeg f s
  | .and f => execAnd f s
  | .or f => execOr f s
  | .xor f => execXor f s
  | .andn f => execAndn f s
  | .not f => execNot f s
  | .shl f => execShl f s
  | .shr f => execShr f s
  | .sra f => execSra f s
  | .rol f => execRol f s
  | .shli f => execShli f s
  | .shri f => execShri f s
  | .srai f => execSrai f s
  | .clz f => execClz f s
  | .ctz f => execCtz f s
  | .popc f => execPopc f s
  | .brev f => execBrev f s
  | .bfx f => execBfx f s
  | .bfi f => execBfi f s
  | .prmb f => execPrmb f s
  | .sel f => execSel f s
  | .addw f => execAddw f s
  | .subw f => execSubw f s
  | .mulws f => execMulws f s
  | .mulwn f => execMulwn f s
  | .movl f => execMovl f s
  | .mov f => execMov f s
  | .sadd f => execSadd f s
  | .ssub f => execSsub f s
  | .saddi f => execSaddi f s
  | .smul f => execSmul f s
  | .smad f => execSmad f s
  | .sand f => execSand f s
  | .sor f => execSor f s
  | .sxor f => execSxor f s
  | .sshl f => execSshl f s
  | .sshr f => execSshr f s
  | .ssra f => execSsra f s
  | .sshli f => execSshli f s
  | .sshri f => execSshri f s
  | .smins f => execSmins f s
  | .smaxs f => execSmaxs f s
  | .smov f => execSmov f s
  | .smovl f => execSmovl f s
  | .ssel f => execSsel f s
  | .rfl f => execRfl f s
  | .rdl f => execRdl f s
  | .cmp f => execCmp f s
  | .cmpi f => execCmpi f s
  | .fcmp f => execFcmp f s
  | .scmp f => execScmp f s
  | .kand f => execKand f s
  | .kor f => execKor f s
  | .kxor f => execKxor f s
  | .kandn f => execKandn f s
  | .knot f => execKnot f s
  | .kmov f => execKmov f s
  | .kpop f => execKpop f s
  | .ballot f => execBallot f s
  | .kfrom f => execKfrom f s
  | .ktov f => execKtov f s
  | .kfirst f => execKfirst f s
  | .kall f => execKall f s
  | .bra f => execBra f s
  | .brk f => execBrk f s
  | .brz f => execBrz f s
  | .brnz f => execBrnz f s
  | .call f => execCall f s
  | .calla f => execCalla f s
  | .jmpa f => execJmpa f s
  | .ret f => execRet f s
  | .exit f => execExit f s
  | .yield f => execYield f s
  | .nop f => execNop f s
  | .wbase f => execWbase f s
  | .rgn f => execRgn f s
  | .phint f => execPhint f s
  | .sleep f => execSleep f s
  | .shfli f => execShfli f s
  | .shflu f => execShflu f s
  | .shfld f => execShfld f s
  | .shflx f => execShflx f s
  | .matchOp f => execMatchOp f s
  | .redadd f => execRedadd f s
  | .redmin f => execRedmin f s
  | .redmax f => execRedmax f s
  | .redand f => execRedand f s
  | .redor f => execRedor f s
  | .fredadd f => execFredadd f s
  | .scanadd f => execScanadd f s
  | .scanaddx f => execScanaddx f s
  | .fadd f => execFadd f s
  | .fsub f => execFsub f s
  | .fmul f => execFmul f s
  | .ffma f => execFfma f s
  | .fmin f => execFmin f s
  | .fmax f => execFmax f s
  | .fabs f => execFabs f s
  | .fneg f => execFneg f s
  | .fclass f => execFclass f s
  | .frnd f => execFrnd f s
  | .fscale f => execFscale f s
  | .fcvt f => execFcvt f s
  | .icvt f => execIcvt f s
  | .ficvt f => execFicvt f s
  | .hadd2 f => execHadd2 f s
  | .hsub2 f => execHsub2 f s
  | .hmul2 f => execHmul2 f s
  | .hfma2 f => execHfma2 f s
  | .badd2 f => execBadd2 f s
  | .bmul2 f => execBmul2 f s
  | .bfma2 f => execBfma2 f s
  | .fpk f => execFpk f s
  | .fupk f => execFupk f s
  | .qenc f => execQenc f s
  | .qdec f => execQdec f s
  | .sfrcp f => execSfrcp f s
  | .sfrsq f => execSfrsq f s
  | .sfsqrt f => execSfsqrt f s
  | .sfexp2 f => execSfexp2 f s
  | .sflog2 f => execSflog2 f s
  | .sfsin f => execSfsin f s
  | .sfcos f => execSfcos f s
  | .sftanh f => execSftanh f s
  | .sfsigm f => execSfsigm f s
  | .sferf f => execSferf f s
  | .sfdiv f => execSfdiv f s
  | .sfwait f => execSfwait f s
  | .sftest f => execSftest f s
  | .ldS8 f => execLdS8 f s
  | .ldB8 f => execLdB8 f s
  | .ldS16 f => execLdS16 f s
  | .ldB16 f => execLdB16 f s
  | .ldB32 f => execLdB32 f s
  | .ldB64 f => execLdB64 f s
  | .ldB128 f => execLdB128 f s
  | .stB8 f => execStB8 f s
  | .stB16 f => execStB16 f s
  | .stB32 f => execStB32 f s
  | .stB64 f => execStB64 f s
  | .stB128 f => execStB128 f s
  | .ldsB32 f => execLdsB32 f s
  | .ldsB64 f => execLdsB64 f s
  | .ldsB128 f => execLdsB128 f s
  | .stsB32 f => execStsB32 f s
  | .stsB64 f => execStsB64 f s
  | .stsB128 f => execStsB128 f s
  | .ldoB16 f => execLdoB16 f s
  | .ldoB32 f => execLdoB32 f s
  | .stoB16 f => execStoB16 f s
  | .stoB32 f => execStoB32 f s
  | .ldu f => execLdu f s
  | .ldp f => execLdp f s
  | .stp f => execStp f s
  | .adda f => execAdda f s
  | .addai f => execAddai f s
  | .mova f => execMova f s
  | .movav f => execMovav f s
  | .movva f => execMovva f s
  | .cmpa f => execCmpa f s
  | .suba f => execSuba f s
  | .ida f => execIda f s
  | .pref f => execPref f s
  | .stdlB32 f => execStdlB32 f s
  | .stdlB64 f => execStdlB64 f s
  | .stdlB128 f => execStdlB128 f s
  | .aadd f => execAadd f s
  | .aaddB64 f => execAaddB64 f s
  | .amins f => execAmins f s
  | .aminsB64 f => execAminsB64 f s
  | .aminn f => execAminn f s
  | .aminnB64 f => execAminnB64 f s
  | .amaxs f => execAmaxs f s
  | .amaxsB64 f => execAmaxsB64 f s
  | .amaxn f => execAmaxn f s
  | .amaxnB64 f => execAmaxnB64 f s
  | .aand f => execAand f s
  | .aandB64 f => execAandB64 f s
  | .aor f => execAor f s
  | .aorB64 f => execAorB64 f s
  | .axor f => execAxor f s
  | .axorB64 f => execAxorB64 f s
  | .axchg f => execAxchg f s
  | .axchgB64 f => execAxchgB64 f s
  | .acas f => execAcas f s
  | .acasB64 f => execAcasB64 f s
  | .afadd f => execAfadd f s
  | .aincw f => execAincw f s
  | .fence f => execFence f s
  | .acq f => execAcq f s
  | .rel f => execRel f s
  | .acqr f => execAcqr f s
  | .cctl f => execCctl f s
  | .fold f => execFold f s
  | .unfold f => execUnfold f s
  | .taskend f => execTaskend f s
  | .age f => execAge f s
  | .bara f => execBara f s
  | .barw f => execBarw f s
  | .bars f => execBars f s
  | .ginit f => execGinit f s
  | .gexp f => execGexp f s
  | .garr f => execGarr f s
  | .gwait f => execGwait f s
  | .gtest f => execGtest f s
  | .cpy f => execCpy f s
  | .cpyg f => execCpyg f s
  | .cpys f => execCpys f s
  | .cpyr f => execCpyr f s
  | .tres f => execTres f s
  | .trel f => execTrel f s
  | .jdecl f => execJdecl f s
  | .sign f => execSign f s
  | .jwait f => execJwait f s
  | .accrd f => execAccrd f s
  | .accwr f => execAccwr f s
  | .accz f => execAccz f s
  | .tqset f => execTqset f s
  | .trap f => execTrap f s
  | .ebrk f => execEbrk f s
  | .rte f => execRte f s
  | .getsr f => execGetsr f s
  | .setsr f => execSetsr f s
  | .emit f => execEmit f s
  | _ => .next s

namespace State

/-- Threads of the issue group take a trap of decoding. -/
def allTrap (s : State) (ts : List Tid) (r : Request) : State := ts.foldl (fun s t => s.takeTrap t r) s

/-- A mapped word for the threads of one team (04 R90). -/
def runMapped (s : State) (n : Nat) (p : Pfx) (w : Word) : Host.Outcome State Fault Refusal :=
  let all := s.cur.threads
  let ts := all.filter fun t => t.team = n
  match mappedBy (s.tableEntry n w) p w with
  | .illegal => .next (s.allTrap ts (Request.of .illegalOpcode s.cur.opPc))
  | .emulate => .next (s.allTrap ts (Request.of .emulate (w.zeroExtend 64)))
  | .target (.ok i) => runTarget i { s with cur := { s.cur with threads := ts } }
  | .target (.bad (.reserved k)) => .next (s.allTrap ts (Request.of .reservedField (s.cur.pc + BitVec.ofNat 64 (4 * k))))
  | .target _ => .next (s.allTrap ts (Request.of .illegalOpcode s.cur.opPc))

/-- A mapped word for each team of the issue group in turn. -/
def runTeams (p : Pfx) (w : Word) (all : List Tid) : List Nat → State → Host.Outcome State Fault Refusal
  | [], s => .next s
  | n :: l, s => match ({ s with cur := { s.cur with threads := all } } : State).runMapped n p w with
    | .next s => runTeams p w all l s
    | o => o

end State

/-- A word of the mapped space (R90). -/
def execMappedOpcode (p : Pfx) (w : Word) (s : State) : Host.Outcome State Fault Refusal :=
  let all := s.cur.threads
  State.runTeams p w all (distinct (all.map fun t => t.team)) s

/-- A word whose opcode is never assigned traps ILLEGAL_OPCODE with its address (R89, 10 R231). -/
def execIllegalOpcodeWord (_p : Pfx) (_w : Word) (s : State) : Host.Outcome State Fault Refusal :=
  .next (s.allTrap s.cur.threads (Request.of .illegalOpcode s.cur.opPc))

end Sys2Proof.Machine
end

