-- ==== Sys2Proof/Machine/Repair.lean ====
section
/-! DEFINITION. Errors, poison and repair (27 R399 to R406), power and cooling (28 R408, R409), reset of the module and of an
island (28 R410, 18 R322). -/

namespace Sys2Proof.Machine

/-- The number under which corrected errors of a class of storage are counted (27 R399). -/
def storageNum : Storage → Nat
  | .coreSram => 0
  | .l1 => 1
  | .storeBuffer => 2
  | .writeCombining => 3
  | .l2 => 4
  | .dram => 5
  | .flit => 6

namespace State

/-! ### Lost state (27 R399, R401, R403) -/

/-- The context of the first of these teams, which an error record names (27 R406); 0 with none. -/
def ctxOfFirst (s : State) (ts : List Nat) : Nat := match ts with
  | n :: _ => (s.team n).ctx
  | [] => 0

/-- Entries of a core's store buffer are lost: their lines are poisoned, a line of the host by a posted write that carries EP
(27 R400, R401). -/
def loseStores (s : State) (c : Nat) (p : SbEntry → Bool) : State :=
  let gone := (s.core c).sb.filter p
  let s := s.modCore c fun k => { k with sb := k.sb.filter fun e => !p e }
  gone.foldl (fun s e =>
    let ctx := s.ctxOfFirst (e.bytes.map fun b => b.by_.team)
    if keyTgt (e.line * 128) ≤ 1 then s.losePoison e.line c ctx
    else (s.postHost ⟨keyPa (e.line * 128), [], e.relaxed, none, true⟩).errorLog 10 (e.line * 128) c ctx) s

/-- Entries of a core's write-combining buffer are lost: a poison write goes to the peer for each line, and is logged here. -/
def loseCombined (s : State) (c : Nat) (p : WcEntry → Bool) : State :=
  let gone := (s.core c).wc.filter p
  let s := s.modCore c fun k => { k with wc := k.wc.filter fun e => !p e }
  gone.foldl (fun s e => (s.sendFabric (.poison (keyPeer (e.line * 128)) (keyPa (e.line * 128) / 128))).errorLog 10 (e.line * 128) c
    (s.ctxOfFirst (e.bytes.map fun b => b.by_.team))) s

/-- The clusters with a team on a core. -/
def clustersOn (s : State) (c : Nat) : List Nat := distinct ((s.residents c).map fun n => (s.team n).cluster)

/-- A cluster starts again whole (27 R403): every team of it that has not ended waits as one that never started. -/
def relaunch (s : State) (cl : Nat) : State :=
  ((s.cluster cl).teams.filter fun n => (s.team n).status != .ended).foldl (fun s n =>
    (s.waitAnew n).errorLog 11 0 (s.team n).core (s.team n).ctx) s

/-- The state of a core's teams is lost. -/
def loseTeams (s : State) (c : Nat) : State := (s.clustersOn c).foldl (fun s k => s.relaunch k) s

/-- A core loses everything it holds; each given line of its L1 sends a drop notice (11 R238). -/
def loseCore (s : State) (c : Nat) : State :=
  let s := ((s.loseTeams c).loseStores c fun _ => true).loseCombined c fun _ => true
  (s.dropL1 c fun _ => true).modCore c fun _ => Core.reset

/-- The dispatcher looks again for every context. -/
def lookAll (s : State) : State := s.afterOnce 1 .clusterPlacement {}

/-! ### Cores (27 R402, R403) -/

/-- A spare takes a failed core's number, or the number becomes absent. -/
def replaceCore (s : State) (c : Nat) : State :=
  let used := Sp.get 0 s.repair.spares (dieOf c)
  if used < 8 then (s.modRepair fun r => { r with spares := Sp.set 0 r.spares (dieOf c) (used + 1) }).errorLog 5 0 c 0
  else (s.modRepair fun r => { r with absent := insertBy id c (r.absent.filter fun x => x != c) }).errorLog 6 0 c 0

/-- A failed core's teams with their state intact: each cluster is saved, or relaunched where it cannot be. -/
def rescueTeams (s : State) (c : Nat) : State :=
  (s.clustersOn c).foldl (fun s k =>
    let ns := (s.cluster k).teams.filter fun n => (s.team n).status = .resident
    if ns.all fun n => (s.team n).request.isSome || s.saveable n then ns.foldl (fun s n => s.requestSave n) s
    else s.relaunch k) s

/-! ### Slices and channels (27 R404, R405) -/

/-- The lines whose only modified copy a failed slice held, each with the context of what is lost (27 R404): `dirty` of them,
where they stood in it, pool lines that it had changed, private copies, the lines of committing claims. -/
def slicePoison (s : State) (slice : Nat) (dirty : List Nat) : List (Nat × Nat) :=
  let here := fun (line : Nat) => s.homeSlice (line * 128) = slice
  let changed := (s.home.l2.filter fun x => x.slice = slice && x.under.isSome).map fun x => x.line
  let privs := s.clusters.flatMap fun k => if k.slice = slice then (k.privs.filter fun p => p.dirty).map fun p => (p.line, k.ctx) else []
  let claims := (s.home.claims.filter fun c => c.committing && (here (c.gran * 2) || here (c.gran * 2 + 1))).flatMap fun c =>
    let ctx := if remoteHolder c.team then 0 else (s.team (c.team % 2 ^ 31)).ctx
    [(c.gran * 2, ctx), (c.gran * 2 + 1, ctx)]
  let all := privs ++ claims ++ ((dirty.filter fun l => s.sliceOf l = slice) ++ changed).map fun l => (l, 0)
  (distinct (all.map fun x => x.1)).map fun l => (l, (assoc all l).getD 0)

/-- The given lines that the directory regions of a slice recorded, on cores and on their way (27 R404). -/
def sliceGiven (s : State) (slice : Nat) : List Nat :=
  let regions := s.home.dir.filter fun r => r.slice = slice
  let lines := (s.cores.flatMap fun k => (k.2.l1.filter fun x => x.given).map fun x => x.line) ++ s.home.flights.map fun f => f.line
  (distinct lines).filter fun l => regions.any fun r => s.inRegion r l

/-- The clusters that used a failed slice take another, the nearest, without the private copies that it held (27 R404, 11
R244). -/
def newSlices (s : State) (slice : Nat) : State :=
  { s with clusters := s.clusters.map fun (k : Cluster) =>
    if k.slice != slice then k
    else match k.teams.find? fun n => (s.team n).status = .resident with
      | some n => { k with slice := s.nearRect k.rows k.cols (s.originOf n), privs := [] }
      | none => { k with privs := [] } }

/-- A slice fails: its substitute takes its number; what it held is dropped, poisoned or wounded, a peer's task through its
module. `dirty` are the dirty lines it held. -/
def failSlice (s : State) (slice substitute : Nat) (dirty : List Nat) : State :=
  let here := fun (line : Nat) => s.homeSlice (line * 128) = slice
  let open_ := s.home.claims.filter fun c => !c.committing && (here (c.gran * 2) || here (c.gran * 2 + 1))
  let holders := distinct (((open_.filter fun c => !remoteHolder c.team).map fun c => c.team) ++
    ((s.home.shadows.filter fun x => here x.line).map fun x => x.team))
  let remote := (open_.filter fun c => remoteHolder c.team).map fun c => c.gran
  let lost := s.slicePoison slice dirty
  let given := s.sliceGiven slice
  let s := s.modRepair fun r => { r with
    slices := assocSet ((r.slices.map fun (p : Nat × Nat) => (p.1, if p.2 = slice then substitute else p.2))) slice substitute }
  let s := s.errorLog 7 0 slice 0
  let s := lost.foldl (fun s l => s.losePoison l.1 slice l.2) s
  let s := given.foldl (fun s l => s.endGiven none l) s
  let s := s.modHome fun h => { h with
    l2 := h.l2.filter fun x => x.slice != slice
    dir := h.dir.filter fun r => r.slice != slice
    fwd := h.fwd.filter fun f => !here f.line && f.moved != some slice }
  let s := s.newSlices slice
  let s := holders.foldl (fun s n => s.afterOnce 1 .wound { team := n }) s
  (s.fab.given.filter fun l => remote.contains l.gran).foldl (fun s l => s.sendFabric (.wound l.holder l.gran)) s

/-- A substitute on the die of a slice. -/
def onDie (slice n : Nat) : Nat := slice / 32 * 32 + n % 32

/-! ### Reset -/

/-- An island's clamps close: its cores host no team and lose what they hold (18 R322). -/
def closeIsland (s : State) (i : Nat) : State :=
  let s := s.modRepair fun r => { r with clamped := insertBy id i (r.clamped.filter fun x => x != i) }
  ((s.cores.map fun k => k.1).filter fun c => islandOf c = i).foldl (fun s c => s.loseCore c) s

/-- A channel is copied into a spare of its stack while it has one; a failure with both in use is not logged as spared (27
R405). -/
def spareChannel (s : State) (channel : Nat) : State :=
  let used := Sp.get 0 s.repair.channels (channel / 8)
  if used < 2 then (s.modRepair fun r => { r with channels := Sp.set 0 r.channels (channel / 8) (used + 1) }).errorLog 4 0 channel 0
  else s

/-- What bring-up finds (28 R410), by number: 0 to 31 a fabric port, 32 to 39 a pool port, 40 and 41 a host port that cannot be
trained; from 100 a core, from 2000 a DRAM channel that fails its test. -/
def untrained (found : List Nat) (base n : Nat) : List Nat := (found.filter fun x => base ≤ x && x < base + n).map fun x => x - base

/-- The module after reset (28 R410): as at first, with the repairs applied again, ports that cannot be trained down, and
what lies outside the module kept: pool memory and its poison. -/
def resetModule (s : State) (found : List Nat) : State :=
  let r := State.reset
  let pool := fun (a : Nat) => keyTgt a = 1
  let fab := (untrained found 0 32).foldl (fun (f : Sparse Port) p => Sp.set Port.reset f p { Port.reset with up := false }) []
  { r with
    mem := s.mem.filter fun c => pool c.1
    poison := s.poison.filter fun l => pool (l * 128)
    host := { r.host with active := if (untrained found 40 2).contains 0 then 1 else 0 }
    fab := { r.fab with ports := fab, poolDown := distinct (s.fab.poolDown ++ untrained found 32 8) }
    mgmt := { r.mgmt with firmware := s.mgmt.firmware }
    repair := { r.repair with absent := s.repair.absent, spares := s.repair.spares, slices := s.repair.slices, channels := s.repair.channels }
    fresh := s.fresh }

/-- Parts that fail their test are spared, or marked absent (28 R410, STATE 2; 27 R402, R405). -/
def applySpares (s : State) (found : List Nat) : State :=
  (untrained found 2000 384).foldl spareChannel ((untrained found 100 1536).foldl replaceCore s)

/-- A step of bring-up ends after a free time of at most a second (log entry 1). -/
def bringUp (s : State) (k : Nat) (a : EvArg) : State := s.soon (1000 * msCycles) .moduleReset { a with len := k }

end State

open State

/-- ECC_CORRECTION (R399, R406): corrected in place and counted by class; the third correction of a DRAM row within 24 h
moves the row (`addr`, of channel `id`) to a spare, which is logged. -/
def execEccCorrection (s : State) : Host.Outcome State Fault Refusal :=
  let k := storageNum s.arg.storage
  let s := s.modRepair fun r => { r with corrected := Sp.set 0 r.corrected k (Sp.get 0 r.corrected k + 1) }
  let row := s.arg.addr
  let day := 86400000 * msCycles
  let recent := s.repair.rows.filter fun x => x.1 = row && s.cycle < x.2 + day
  .next (if s.arg.storage != .dram then s
    else if 2 ≤ recent.length then
      (s.modRepair fun r => { r with rows := r.rows.filter fun x => x.1 != row }).errorLog 3 row s.arg.id 0
    else s.modRepair fun r => { r with rows := r.rows ++ [(row, s.cycle)] })

/-- UNCORRECTABLE_ERROR (R399 to R401, R403): by the class of storage, at `core`, line `addr`, slice or channel `id`; `ok`
says that an L2 line was clean. -/
def execUncorrectableError (s : State) : Host.Outcome State Fault Refusal :=
  let c := s.arg.core
  let line := s.arg.addr
  let id := s.arg.id
  .next (match s.arg.storage with
    | .coreSram => ((s.errorLog 1 0 c 0).loseTeams c).lookAll
    | .l1 =>
      let ctx := match (s.core c).l1.find? fun x => x.line = line with
        | some x => x.ctx
        | none => 0
      (s.dropL1 c fun x => x.line = line).errorLog 1 (line * 128) c ctx
    | .storeBuffer =>
      let teams := (s.core c).sb.flatMap fun e => if e.line = line then e.bytes.map fun b => b.by_.team else []
      (s.errorLog 1 (line * 128) c (s.ctxOfFirst teams)).loseStores c fun e => e.line = line
    | .writeCombining =>
      let teams := (s.core c).wc.flatMap fun e => if e.line = line then e.bytes.map fun b => b.by_.team else []
      (s.errorLog 1 (line * 128) c (s.ctxOfFirst teams)).loseCombined c fun e => e.line = line
    | .l2 =>
      let s := s.errorLog 1 (line * 128) id 0
      if s.arg.ok then s else s.failSlice id (onDie id s.arg.len) s.arg.nums
    | .dram => (s.errorLog 2 (line * 128) id 0).losePoison line id 0
    | .flit => s)

/-- SCRUB (R399): every 2^24 cycles; what it corrects is an ECC correction of its own. -/
def execScrub (s : State) : Host.Outcome State Fault Refusal := .next (s.afterOnce (2 ^ 24) .scrub {})

/-- CORE_FAILURE (R402, R403): core `core` fails, with the state of its teams intact (`ok`) or lost. -/
def execCoreFailure (s : State) : Host.Outcome State Fault Refusal :=
  let c := s.arg.core
  let s := s.replaceCore c
  .next (if s.arg.ok then s.rescueTeams c else s.loseCore c).lookAll

/-- SLICE_FAILURE (R404): slice `id` is replaced by the substitute `len` of its die; `nums` are the dirty lines it held. -/
def execSliceFailure (s : State) : Host.Outcome State Fault Refusal :=
  .next (s.failSlice s.arg.id (onDie s.arg.id s.arg.len) s.arg.nums)

/-- CHANNEL_FAILURE (R405): channel `id` (stack · 8 + channel) is copied into a spare while its stack has one; the lines
`nums` that cannot be corrected are poisoned. -/
def execChannelFailure (s : State) : Host.Outcome State Fault Refusal :=
  let s := s.spareChannel s.arg.id
  .next (s.arg.nums.foldl (fun s l => s.losePoison l s.arg.id 0) s)

/-- LANE_DEGRADE (R405): port `id` runs at 4 lanes until it retrains. -/
def execLaneDegrade (s : State) : Host.Outcome State Fault Refusal :=
  .next ((s.modPort s.arg.id fun x => { x with lanes := 4 }).errorLog 8 0 s.arg.id 0)

/-- PORT_DOWN (R405): the next plane takes the transactions of port `id`, with those it still holds. -/
def execPortDown (s : State) : Host.Outcome State Fault Refusal :=
  let p := s.arg.id
  let x := s.port p
  let part := fun (q : Nat × Nat) => ((x.credits.find? fun u => u.1 = q.1).map fun u => u.2.1).getD noPart
  let s := s.modPort p fun x => { x with up := false, replay := [], backlog := [], credits := [] }
  let q := s.planePort ((p + 1) % 32)
  let s := s.modPort q fun y => { y with backlog := y.backlog ++ x.replay.map part ++ x.backlog }
  .next ((s.sendBacklog q 512).errorLog 9 0 p 0)

/-- THERMAL_THROTTLE (28 R408, R409, 27 R407): timing only. -/
def execThermalThrottle (s : State) : Host.Outcome State Fault Refusal :=
  .next (s.modRepair fun r => { r with throttled := s.arg.ok })

/-- THERMAL_SHUTDOWN (28 R409): every context is disabled, then STATE is 4 and the compute dies lose their power. -/
def execThermalShutdown (s : State) : Host.Outcome State Fault Refusal :=
  let on := (s.ctxs.filter fun k => k.2.en).map fun k => k.1
  let (s, all) := on.foldl (fun (acc : State × Bool) c => let (s, d) := acc.1.disablePass c; (s, acc.2 && d)) (s, true)
  .next (if all then s.modMgmt fun m => { m with boot := 4 } else s.after 1 .thermalShutdown s.arg)

/-- MODULE_RESET (28 R410): the module is reset and bring-up begins. With `len` from 2 on, a step of bring-up has ended: 2 says
whether the signature of the firmware image `id` in flash was good (`ok`), without which the module goes no further, 3 that
memories and cores are tested, parts that failed among `nums` being spared or absent, and 6 that the links are trained, but for the
ports among `nums`, and the module is ready. -/
def execModuleReset (s : State) : Host.Outcome State Fault Refusal :=
  let at_ := fun (x : Nat) (s : State) => s.modMgmt fun m => { m with boot := x }
  .next (match s.arg.len, s.mgmt.boot with
    | 0, _ => (at_ 1 (s.resetModule s.arg.nums)).bringUp 2 s.arg
    | 2, 1 =>
      if s.arg.ok then ((at_ 2 s).modMgmt fun m => { m with firmware := s.arg.id }).bringUp 3 s.arg
      else at_ 5 s
    | 3, 2 => (at_ 3 (s.applySpares s.arg.nums)).bringUp 6 s.arg
    | 6, 3 => at_ 6 s
    | _, _ => s)

/-- ISLAND_RESET (18 R322): the clamps of island `id` close, its pastures and troughs are zeroed, and with `ok` the clamps
open again. -/
def execIslandReset (s : State) : Host.Outcome State Fault Refusal :=
  let i := s.arg.id
  let s := s.closeIsland i
  .next (if s.arg.ok then (s.modRepair fun r => { r with clamped := r.clamped.filter fun x => x != i }).lookAll else s)

end Sys2Proof.Machine
end

