-- ==== Sys2Proof/Machine/Saving.lean ====
section
/-! DEFINITION. The save of a team (19 R325 to R332): full stops, what must have ended before it, what of the team is kept,
the parts of the image with a stated layout. -/

namespace Sys2Proof.Machine

namespace State

/-- The parts of the image whose layout R327 states. -/
def teamImage (s : State) (n base : Nat) : List (Nat × Byte) :=
  let m := s.team n
  let lent := s.lentRanges n
  let groups := placed 0 m.groups
  (groups.flatMap fun g => groupImage base g.1 g.2) ++
  (groups.flatMap fun g => (placed 0 g.2.threads).flatMap fun t =>
    if t.2.present then threadImage base (m.width * g.1 + t.1) m.vregs t.2 else []) ++
  (((List.range m.scratchSize).filter (keptByte m lent)).map fun a => (base + 0x400000 + a, m.scratch.get a)) ++
  ((m.slots.filter fun p => recRole p.2.record = 2).flatMap fun p =>
    bytesAt (base + 0x600000 + recToff p.2.record) ((s.core m.core).trough.bytes (recToff p.2.record) (recTlen p.2.record)))

/-- Bytes whose values the spec does not state are written: a free value each (log entry 19). -/
def writeFree (s : State) (a n : Nat) : State :=
  let (x, s) := s.draw (2 ^ (8 * n))
  { s with mem := s.mem.putAll (bytesAt a (leBytes n x)) }

/-- The offsets of the control words of a team's present threads in its image (19 R327). -/
def controlWords (m : Team) : List Nat :=
  (placed 0 m.groups).flatMap fun g => ((placed 0 g.2.threads).filter fun t => t.2.present).map fun t => 0x5000 + 32 * (m.width * g.1 + t.1)

/-- The image is written to the team's block (19 R325, R327). Of the image header and of the control words R327 names the
contents and no layout: their bytes are free, and the team itself keeps what they hold (log entry 19). -/
def writeImage (s : State) (n : Nat) : State :=
  if (s.team n).block.isNone then s
  else
    let base := (s.team n).imageAt
    let s := (controlWords (s.team n)).foldl (fun s off => s.writeFree (base + off) 32) (s.writeFree base 4096)
    { s with mem := s.mem.putAll (s.teamImage n base) }

/-- The team's jobs that a save keeps: none runs on the core any more. -/
def savedJobs (s : State) (n : Nat) : List Job :=
  ((s.core (s.team n).core).jobs.filter fun j => j.team = n).map fun j =>
    { j with live := false, busy := false, stopped := false, tilesA := 0, tilesB := 0, again := j.again || j.live }

/-- The team leaves its core with its state; what its task has not been granted is asked for anew (19 R329, R330, steps 5
and 6). -/
def leaveCore (s : State) (n : Nat) : State :=
  let s := s.writeImage n
  let lent := s.lentRanges n
  let m := s.team n
  let jobs := s.savedJobs n
  let s := s.modTeam n fun m => { m with
    status := .saved, since := s.cycle, request := Option.none, jobs := jobs, lent := lent, fullSave := false
    scratch := m.scratch.filter fun c => keptByte m lent c.1
    groups := m.groups.map savedGroup }
  let s := s.modCore m.core fun k => { k with jobs := k.jobs.filter fun j => j.team != n }
  let s := s.modHome fun h => { h with wants := h.wants.filter fun w => w.team != n }
  ((s.vacate m.cluster).afterOnce 1 .jobStart { core := m.core }).lookDispatch m.ctx

/-- The results of a team's threads land, special-function results with their marks kept, and those of a group that a thread
issued before it exited (19 R330, step 1). -/
def landTeam (s : State) (n : Nat) : State :=
  let s := (s.tids n).foldl (fun s t => (s.landAll t).landSf t) s
  s.modTeam n fun m => { m with groups := m.groups.map Group.landRest }

/-- What a release for a save comes to where it meets a cause: a lost fabric entry is remembered for the resumption; for a
copy-on-write unit that cannot be copied the page request is raised, and the release is tried again (19 R330, 25 R379).
DESIGN CHOICE (log entry 95): that request enters the queue at once, outside the service by turns and without a back-off. -/
def releaseMet (s : State) (n : Nat) (r : Request) : State :=
  if r.cause = .linkLost then s.modTeam n fun m => { m with expired := true }
  else match s.enqueue (s.team n).ctx r with
    | some (s, _) => s
    | none => s

/-- The places of a team's threads, exited ones too. -/
def everyTid (s : State) (n : Nat) : List Tid :=
  (placed 0 (s.team n).groups).flatMap fun g => (placed 0 g.2.threads).map fun x => ⟨n, g.1, x.1⟩

/-- A system-scope release on behalf of every thread, exited ones too; whether it is complete (19 R330, step 2). -/
def releaseTeam (s : State) (n : Nat) : State × Bool :=
  (s.everyTid n).foldl (fun (acc : State × Bool) t => match acc.1.release t 5 with
    | .done s => (s, acc.2)
    | .wait s _ => (s, false)
    | .trap s r => (s.releaseMet n r, false)) (s, true)

/-- The team has a copy that has not ended. -/
def copiesLeft (s : State) (n : Nat) : Bool :=
  let k := s.core (s.team n).core
  let mine := fun (x : Copy) => x.t.team = n
  k.copyQ.any mine || k.eng0.any mine || k.eng1.any mine

/-- The team's running job stops at the next K-step boundary; whether it has (19 R330, step 4). -/
def stopJobs (s : State) (n : Nat) : State × Bool :=
  let c := (s.team n).core
  let s := s.modCore c fun k => { k with jobs := k.jobs.map fun j => if j.team = n && j.live then { j with stopped := true } else j }
  (s, !((s.core c).jobs.any fun j => j.team = n && j.busy))

/-- The commit of the team is under way (19 R337). -/
def committing (s : State) (n : Nat) : Bool := s.fab.decisions.any fun d => d.team = n

/-- The save as far as it can go now; it is looked at again until the team has left (19 R330). -/
def trySave (s : State) (n : Nat) : State :=
  if (s.team n).status != .resident || !s.allStopped n then s
  else if s.committing n then s.soon 64 .teamSave { team := n }
  else
    let (s, released) := (s.landTeam n).releaseTeam n
    if !released || s.copiesLeft n then s.soon 64 .teamSave { team := n }
    else
      let (s, stopped) := s.stopJobs n
      if stopped then s.leaveCore n else s.soon 64 .teamSave { team := n }

end State

open State

/-- FULL_STOP_TIMEOUT (19 R329): threads of the team that have not stopped stop at their bundle boundary. -/
def execFullStopTimeout (s : State) : Host.Outcome State Fault Refusal :=
  let n := s.arg.team
  .next (if (s.team n).status != .resident || (s.team n).request != some s.arg.len then s
    else
      let s := (s.tids n).foldl (fun s t =>
        if (s.thread t).stop.isNone && !s.inBundle t then s.modThread t fun x => { x with stop := some .full } else s) s
      if s.allStopped n then s.lookSave n else s.after 1 .fullStopTimeout { team := n, len := s.arg.len })

/-- TEAM_SAVE (19 R330): once every thread has stopped, the team is released, drained and saved. -/
def execTeamSave (s : State) : Host.Outcome State Fault Refusal := .next (s.trySave s.arg.team)

end Sys2Proof.Machine
end

