-- ==== Sys2Proof/Machine/Dispatch.lean ====
section
/-! DEFINITION. The dispatcher: what each instruction and event does, one arm per constructor. -/

namespace Sys2Proof.Machine

open Sys2Proof

def exec (i : Instr) (s : State) : Host.Outcome State Fault Refusal :=
  match i with
  | .add f => Sys2Proof.Machine.execAdd f s
  | .sub f => Sys2Proof.Machine.execSub f s
  | .addi f => Sys2Proof.Machine.execAddi f s
  | .mul f => Sys2Proof.Machine.execMul f s
  | .mulhs f => Sys2Proof.Machine.execMulhs f s
  | .mulhn f => Sys2Proof.Machine.execMulhn f s
  | .mad f => Sys2Proof.Machine.execMad f s
  | .divs f => Sys2Proof.Machine.execDivs f s
  | .divn f => Sys2Proof.Machine.execDivn f s
  | .rems f => Sys2Proof.Machine.execRems f s
  | .remn f => Sys2Proof.Machine.execRemn f s
  | .mins f => Sys2Proof.Machine.execMins f s
  | .minn f => Sys2Proof.Machine.execMinn f s
  | .maxs f => Sys2Proof.Machine.execMaxs f s
  | .maxn f => Sys2Proof.Machine.execMaxn f s
  | .abs f => Sys2Proof.Machine.execAbs f s
  | .neg f => Sys2Proof.Machine.execNeg f s
  | .and f => Sys2Proof.Machine.execAnd f s
  | .or f => Sys2Proof.Machine.execOr f s
  | .xor f => Sys2Proof.Machine.execXor f s
  | .andn f => Sys2Proof.Machine.execAndn f s
  | .not f => Sys2Proof.Machine.execNot f s
  | .shl f => Sys2Proof.Machine.execShl f s
  | .shr f => Sys2Proof.Machine.execShr f s
  | .sra f => Sys2Proof.Machine.execSra f s
  | .rol f => Sys2Proof.Machine.execRol f s
  | .shli f => Sys2Proof.Machine.execShli f s
  | .shri f => Sys2Proof.Machine.execShri f s
  | .srai f => Sys2Proof.Machine.execSrai f s
  | .clz f => Sys2Proof.Machine.execClz f s
  | .ctz f => Sys2Proof.Machine.execCtz f s
  | .popc f => Sys2Proof.Machine.execPopc f s
  | .brev f => Sys2Proof.Machine.execBrev f s
  | .bfx f => Sys2Proof.Machine.execBfx f s
  | .bfi f => Sys2Proof.Machine.execBfi f s
  | .prmb f => Sys2Proof.Machine.execPrmb f s
  | .sel f => Sys2Proof.Machine.execSel f s
  | .addw f => Sys2Proof.Machine.execAddw f s
  | .subw f => Sys2Proof.Machine.execSubw f s
  | .mulws f => Sys2Proof.Machine.execMulws f s
  | .mulwn f => Sys2Proof.Machine.execMulwn f s
  | .movl f => Sys2Proof.Machine.execMovl f s
  | .mov f => Sys2Proof.Machine.execMov f s
  | .sadd f => Sys2Proof.Machine.execSadd f s
  | .ssub f => Sys2Proof.Machine.execSsub f s
  | .saddi f => Sys2Proof.Machine.execSaddi f s
  | .smul f => Sys2Proof.Machine.execSmul f s
  | .smad f => Sys2Proof.Machine.execSmad f s
  | .sand f => Sys2Proof.Machine.execSand f s
  | .sor f => Sys2Proof.Machine.execSor f s
  | .sxor f => Sys2Proof.Machine.execSxor f s
  | .sshl f => Sys2Proof.Machine.execSshl f s
  | .sshr f => Sys2Proof.Machine.execSshr f s
  | .ssra f => Sys2Proof.Machine.execSsra f s
  | .sshli f => Sys2Proof.Machine.execSshli f s
  | .sshri f => Sys2Proof.Machine.execSshri f s
  | .smins f => Sys2Proof.Machine.execSmins f s
  | .smaxs f => Sys2Proof.Machine.execSmaxs f s
  | .smov f => Sys2Proof.Machine.execSmov f s
  | .smovl f => Sys2Proof.Machine.execSmovl f s
  | .ssel f => Sys2Proof.Machine.execSsel f s
  | .rfl f => Sys2Proof.Machine.execRfl f s
  | .rdl f => Sys2Proof.Machine.execRdl f s
  | .cmp f => Sys2Proof.Machine.execCmp f s
  | .cmpi f => Sys2Proof.Machine.execCmpi f s
  | .fcmp f => Sys2Proof.Machine.execFcmp f s
  | .scmp f => Sys2Proof.Machine.execScmp f s
  | .kand f => Sys2Proof.Machine.execKand f s
  | .kor f => Sys2Proof.Machine.execKor f s
  | .kxor f => Sys2Proof.Machine.execKxor f s
  | .kandn f => Sys2Proof.Machine.execKandn f s
  | .knot f => Sys2Proof.Machine.execKnot f s
  | .kmov f => Sys2Proof.Machine.execKmov f s
  | .kpop f => Sys2Proof.Machine.execKpop f s
  | .ballot f => Sys2Proof.Machine.execBallot f s
  | .kfrom f => Sys2Proof.Machine.execKfrom f s
  | .ktov f => Sys2Proof.Machine.execKtov f s
  | .kfirst f => Sys2Proof.Machine.execKfirst f s
  | .kall f => Sys2Proof.Machine.execKall f s
  | .bra f => Sys2Proof.Machine.execBra f s
  | .brk f => Sys2Proof.Machine.execBrk f s
  | .brz f => Sys2Proof.Machine.execBrz f s
  | .brnz f => Sys2Proof.Machine.execBrnz f s
  | .call f => Sys2Proof.Machine.execCall f s
  | .calla f => Sys2Proof.Machine.execCalla f s
  | .jmpa f => Sys2Proof.Machine.execJmpa f s
  | .ret f => Sys2Proof.Machine.execRet f s
  | .exit f => Sys2Proof.Machine.execExit f s
  | .yield f => Sys2Proof.Machine.execYield f s
  | .nop f => Sys2Proof.Machine.execNop f s
  | .wbase f => Sys2Proof.Machine.execWbase f s
  | .rgn f => Sys2Proof.Machine.execRgn f s
  | .phint f => Sys2Proof.Machine.execPhint f s
  | .sleep f => Sys2Proof.Machine.execSleep f s
  | .shfli f => Sys2Proof.Machine.execShfli f s
  | .shflu f => Sys2Proof.Machine.execShflu f s
  | .shfld f => Sys2Proof.Machine.execShfld f s
  | .shflx f => Sys2Proof.Machine.execShflx f s
  | .matchOp f => Sys2Proof.Machine.execMatchOp f s
  | .redadd f => Sys2Proof.Machine.execRedadd f s
  | .redmin f => Sys2Proof.Machine.execRedmin f s
  | .redmax f => Sys2Proof.Machine.execRedmax f s
  | .redand f => Sys2Proof.Machine.execRedand f s
  | .redor f => Sys2Proof.Machine.execRedor f s
  | .fredadd f => Sys2Proof.Machine.execFredadd f s
  | .scanadd f => Sys2Proof.Machine.execScanadd f s
  | .scanaddx f => Sys2Proof.Machine.execScanaddx f s
  | .fadd f => Sys2Proof.Machine.execFadd f s
  | .fsub f => Sys2Proof.Machine.execFsub f s
  | .fmul f => Sys2Proof.Machine.execFmul f s
  | .ffma f => Sys2Proof.Machine.execFfma f s
  | .fmin f => Sys2Proof.Machine.execFmin f s
  | .fmax f => Sys2Proof.Machine.execFmax f s
  | .fabs f => Sys2Proof.Machine.execFabs f s
  | .fneg f => Sys2Proof.Machine.execFneg f s
  | .fclass f => Sys2Proof.Machine.execFclass f s
  | .frnd f => Sys2Proof.Machine.execFrnd f s
  | .fscale f => Sys2Proof.Machine.execFscale f s
  | .fcvt f => Sys2Proof.Machine.execFcvt f s
  | .icvt f => Sys2Proof.Machine.execIcvt f s
  | .ficvt f => Sys2Proof.Machine.execFicvt f s
  | .hadd2 f => Sys2Proof.Machine.execHadd2 f s
  | .hsub2 f => Sys2Proof.Machine.execHsub2 f s
  | .hmul2 f => Sys2Proof.Machine.execHmul2 f s
  | .hfma2 f => Sys2Proof.Machine.execHfma2 f s
  | .badd2 f => Sys2Proof.Machine.execBadd2 f s
  | .bmul2 f => Sys2Proof.Machine.execBmul2 f s
  | .bfma2 f => Sys2Proof.Machine.execBfma2 f s
  | .fpk f => Sys2Proof.Machine.execFpk f s
  | .fupk f => Sys2Proof.Machine.execFupk f s
  | .qenc f => Sys2Proof.Machine.execQenc f s
  | .qdec f => Sys2Proof.Machine.execQdec f s
  | .sfrcp f => Sys2Proof.Machine.execSfrcp f s
  | .sfrsq f => Sys2Proof.Machine.execSfrsq f s
  | .sfsqrt f => Sys2Proof.Machine.execSfsqrt f s
  | .sfexp2 f => Sys2Proof.Machine.execSfexp2 f s
  | .sflog2 f => Sys2Proof.Machine.execSflog2 f s
  | .sfsin f => Sys2Proof.Machine.execSfsin f s
  | .sfcos f => Sys2Proof.Machine.execSfcos f s
  | .sftanh f => Sys2Proof.Machine.execSftanh f s
  | .sfsigm f => Sys2Proof.Machine.execSfsigm f s
  | .sferf f => Sys2Proof.Machine.execSferf f s
  | .sfdiv f => Sys2Proof.Machine.execSfdiv f s
  | .sfwait f => Sys2Proof.Machine.execSfwait f s
  | .sftest f => Sys2Proof.Machine.execSftest f s
  | .ldS8 f => Sys2Proof.Machine.execLdS8 f s
  | .ldB8 f => Sys2Proof.Machine.execLdB8 f s
  | .ldS16 f => Sys2Proof.Machine.execLdS16 f s
  | .ldB16 f => Sys2Proof.Machine.execLdB16 f s
  | .ldB32 f => Sys2Proof.Machine.execLdB32 f s
  | .ldB64 f => Sys2Proof.Machine.execLdB64 f s
  | .ldB128 f => Sys2Proof.Machine.execLdB128 f s
  | .stB8 f => Sys2Proof.Machine.execStB8 f s
  | .stB16 f => Sys2Proof.Machine.execStB16 f s
  | .stB32 f => Sys2Proof.Machine.execStB32 f s
  | .stB64 f => Sys2Proof.Machine.execStB64 f s
  | .stB128 f => Sys2Proof.Machine.execStB128 f s
  | .ldsB32 f => Sys2Proof.Machine.execLdsB32 f s
  | .ldsB64 f => Sys2Proof.Machine.execLdsB64 f s
  | .ldsB128 f => Sys2Proof.Machine.execLdsB128 f s
  | .stsB32 f => Sys2Proof.Machine.execStsB32 f s
  | .stsB64 f => Sys2Proof.Machine.execStsB64 f s
  | .stsB128 f => Sys2Proof.Machine.execStsB128 f s
  | .ldoB16 f => Sys2Proof.Machine.execLdoB16 f s
  | .ldoB32 f => Sys2Proof.Machine.execLdoB32 f s
  | .stoB16 f => Sys2Proof.Machine.execStoB16 f s
  | .stoB32 f => Sys2Proof.Machine.execStoB32 f s
  | .ldu f => Sys2Proof.Machine.execLdu f s
  | .ldp f => Sys2Proof.Machine.execLdp f s
  | .stp f => Sys2Proof.Machine.execStp f s
  | .adda f => Sys2Proof.Machine.execAdda f s
  | .addai f => Sys2Proof.Machine.execAddai f s
  | .mova f => Sys2Proof.Machine.execMova f s
  | .movav f => Sys2Proof.Machine.execMovav f s
  | .movva f => Sys2Proof.Machine.execMovva f s
  | .cmpa f => Sys2Proof.Machine.execCmpa f s
  | .suba f => Sys2Proof.Machine.execSuba f s
  | .ida f => Sys2Proof.Machine.execIda f s
  | .pref f => Sys2Proof.Machine.execPref f s
  | .stdlB32 f => Sys2Proof.Machine.execStdlB32 f s
  | .stdlB64 f => Sys2Proof.Machine.execStdlB64 f s
  | .stdlB128 f => Sys2Proof.Machine.execStdlB128 f s
  | .aadd f => Sys2Proof.Machine.execAadd f s
  | .aaddB64 f => Sys2Proof.Machine.execAaddB64 f s
  | .amins f => Sys2Proof.Machine.execAmins f s
  | .aminsB64 f => Sys2Proof.Machine.execAminsB64 f s
  | .aminn f => Sys2Proof.Machine.execAminn f s
  | .aminnB64 f => Sys2Proof.Machine.execAminnB64 f s
  | .amaxs f => Sys2Proof.Machine.execAmaxs f s
  | .amaxsB64 f => Sys2Proof.Machine.execAmaxsB64 f s
  | .amaxn f => Sys2Proof.Machine.execAmaxn f s
  | .amaxnB64 f => Sys2Proof.Machine.execAmaxnB64 f s
  | .aand f => Sys2Proof.Machine.execAand f s
  | .aandB64 f => Sys2Proof.Machine.execAandB64 f s
  | .aor f => Sys2Proof.Machine.execAor f s
  | .aorB64 f => Sys2Proof.Machine.execAorB64 f s
  | .axor f => Sys2Proof.Machine.execAxor f s
  | .axorB64 f => Sys2Proof.Machine.execAxorB64 f s
  | .axchg f => Sys2Proof.Machine.execAxchg f s
  | .axchgB64 f => Sys2Proof.Machine.execAxchgB64 f s
  | .acas f => Sys2Proof.Machine.execAcas f s
  | .acasB64 f => Sys2Proof.Machine.execAcasB64 f s
  | .afadd f => Sys2Proof.Machine.execAfadd f s
  | .aincw f => Sys2Proof.Machine.execAincw f s
  | .fence f => Sys2Proof.Machine.execFence f s
  | .acq f => Sys2Proof.Machine.execAcq f s
  | .rel f => Sys2Proof.Machine.execRel f s
  | .acqr f => Sys2Proof.Machine.execAcqr f s
  | .cctl f => Sys2Proof.Machine.execCctl f s
  | .fold f => Sys2Proof.Machine.execFold f s
  | .unfold f => Sys2Proof.Machine.execUnfold f s
  | .taskend f => Sys2Proof.Machine.execTaskend f s
  | .age f => Sys2Proof.Machine.execAge f s
  | .bara f => Sys2Proof.Machine.execBara f s
  | .barw f => Sys2Proof.Machine.execBarw f s
  | .bars f => Sys2Proof.Machine.execBars f s
  | .ginit f => Sys2Proof.Machine.execGinit f s
  | .gexp f => Sys2Proof.Machine.execGexp f s
  | .garr f => Sys2Proof.Machine.execGarr f s
  | .gwait f => Sys2Proof.Machine.execGwait f s
  | .gtest f => Sys2Proof.Machine.execGtest f s
  | .cpy f => Sys2Proof.Machine.execCpy f s
  | .cpyg f => Sys2Proof.Machine.execCpyg f s
  | .cpys f => Sys2Proof.Machine.execCpys f s
  | .cpyr f => Sys2Proof.Machine.execCpyr f s
  | .tres f => Sys2Proof.Machine.execTres f s
  | .trel f => Sys2Proof.Machine.execTrel f s
  | .jdecl f => Sys2Proof.Machine.execJdecl f s
  | .sign f => Sys2Proof.Machine.execSign f s
  | .jwait f => Sys2Proof.Machine.execJwait f s
  | .accrd f => Sys2Proof.Machine.execAccrd f s
  | .accwr f => Sys2Proof.Machine.execAccwr f s
  | .accz f => Sys2Proof.Machine.execAccz f s
  | .tqset f => Sys2Proof.Machine.execTqset f s
  | .trap f => Sys2Proof.Machine.execTrap f s
  | .ebrk f => Sys2Proof.Machine.execEbrk f s
  | .rte f => Sys2Proof.Machine.execRte f s
  | .getsr f => Sys2Proof.Machine.execGetsr f s
  | .setsr f => Sys2Proof.Machine.execSetsr f s
  | .emit f => Sys2Proof.Machine.execEmit f s
  | .pace f => Sys2Proof.Machine.execPace f s
  | .mappedOpcode p w => Sys2Proof.Machine.execMappedOpcode p w s
  | .illegalOpcodeWord p w => Sys2Proof.Machine.execIllegalOpcodeWord p w s
  | .permitBackoffExpiry => Sys2Proof.Machine.execPermitBackoffExpiry s
  | .pageRequestArrival => Sys2Proof.Machine.execPageRequestArrival s
  | .engineRequestRetry => Sys2Proof.Machine.execEngineRequestRetry s
  | .variableLatencyResult => Sys2Proof.Machine.execVariableLatencyResult s
  | .sfResult => Sys2Proof.Machine.execSfResult s
  | .sleepExpiry => Sys2Proof.Machine.execSleepExpiry s
  | .yieldExpiry => Sys2Proof.Machine.execYieldExpiry s
  | .wound => Sys2Proof.Machine.execWound s
  | .claimGrant => Sys2Proof.Machine.execClaimGrant s
  | .givenFill => Sys2Proof.Machine.execGivenFill s
  | .dropNotice => Sys2Proof.Machine.execDropNotice s
  | .lineInvalidation => Sys2Proof.Machine.execLineInvalidation s
  | .writeAck => Sys2Proof.Machine.execWriteAck s
  | .storeBufferDrain => Sys2Proof.Machine.execStoreBufferDrain s
  | .homeRetry => Sys2Proof.Machine.execHomeRetry s
  | .regionMerge => Sys2Proof.Machine.execRegionMerge s
  | .acqrRequest => Sys2Proof.Machine.execAcqrRequest s
  | .copyStart => Sys2Proof.Machine.execCopyStart s
  | .copyCompletion => Sys2Proof.Machine.execCopyCompletion s
  | .troughEntry => Sys2Proof.Machine.execTroughEntry s
  | .kstep => Sys2Proof.Machine.execKstep s
  | .jobCompletion => Sys2Proof.Machine.execJobCompletion s
  | .jobStart => Sys2Proof.Machine.execJobStart s
  | .clusterPlacement => Sys2Proof.Machine.execClusterPlacement s
  | .drainDecision => Sys2Proof.Machine.execDrainDecision s
  | .quantumExpiry => Sys2Proof.Machine.execQuantumExpiry s
  | .fullStopTimeout => Sys2Proof.Machine.execFullStopTimeout s
  | .teamSave => Sys2Proof.Machine.execTeamSave s
  | .teamResume => Sys2Proof.Machine.execTeamResume s
  | .nodeTimerExpiry => Sys2Proof.Machine.execNodeTimerExpiry s
  | .nodeDispatch => Sys2Proof.Machine.execNodeDispatch s
  | .launchEntry => Sys2Proof.Machine.execLaunchEntry s
  | .graphLoad => Sys2Proof.Machine.execGraphLoad s
  | .graphUnload => Sys2Proof.Machine.execGraphUnload s
  | .enable => Sys2Proof.Machine.execEnable s
  | .ringCommand => Sys2Proof.Machine.execRingCommand s
  | .invalidateAll => Sys2Proof.Machine.execInvalidateAll s
  | .invalidatePage => Sys2Proof.Machine.execInvalidatePage s
  | .requestDone => Sys2Proof.Machine.execRequestDone s
  | .requestFailed => Sys2Proof.Machine.execRequestFailed s
  | .watchdogRestart => Sys2Proof.Machine.execWatchdogRestart s
  | .disable => Sys2Proof.Machine.execDisable s
  | .resumeTeam => Sys2Proof.Machine.execResumeTeam s
  | .endTeam => Sys2Proof.Machine.execEndTeam s
  | .ctxcmdInvalid => Sys2Proof.Machine.execCtxcmdInvalid s
  | .watchdogExpiry => Sys2Proof.Machine.execWatchdogExpiry s
  | .objectFetchComplete => Sys2Proof.Machine.execObjectFetchComplete s
  | .evictionComplete => Sys2Proof.Machine.execEvictionComplete s
  | .hostCompletion => Sys2Proof.Machine.execHostCompletion s
  | .hostCompletionTimeout => Sys2Proof.Machine.execHostCompletionTimeout s
  | .hostBar2Read => Sys2Proof.Machine.execHostBar2Read s
  | .hostBar2Write => Sys2Proof.Machine.execHostBar2Write s
  | .hostAtomicop => Sys2Proof.Machine.execHostAtomicop s
  | .portFailover => Sys2Proof.Machine.execPortFailover s
  | .backInvalidate => Sys2Proof.Machine.execBackInvalidate s
  | .poolTimeout => Sys2Proof.Machine.execPoolTimeout s
  | .flitReceive => Sys2Proof.Machine.execFlitReceive s
  | .linkAck => Sys2Proof.Machine.execLinkAck s
  | .replayTimeout => Sys2Proof.Machine.execReplayTimeout s
  | .fabricResponse => Sys2Proof.Machine.execFabricResponse s
  | .wcDrain => Sys2Proof.Machine.execWcDrain s
  | .transactionExpiry => Sys2Proof.Machine.execTransactionExpiry s
  | .timeMessage => Sys2Proof.Machine.execTimeMessage s
  | .syncTimeout => Sys2Proof.Machine.execSyncTimeout s
  | .leaseRenewal => Sys2Proof.Machine.execLeaseRenewal s
  | .renewalReceive => Sys2Proof.Machine.execRenewalReceive s
  | .holderLeaseLapse => Sys2Proof.Machine.execHolderLeaseLapse s
  | .homeLeaseExpiry => Sys2Proof.Machine.execHomeLeaseExpiry s
  | .commitPrepare => Sys2Proof.Machine.execCommitPrepare s
  | .prepareAck => Sys2Proof.Machine.execPrepareAck s
  | .prepareTimeout => Sys2Proof.Machine.execPrepareTimeout s
  | .commitApply => Sys2Proof.Machine.execCommitApply s
  | .applyQuery => Sys2Proof.Machine.execApplyQuery s
  | .extentRenewal => Sys2Proof.Machine.execExtentRenewal s
  | .extentLeaseLapse => Sys2Proof.Machine.execExtentLeaseLapse s
  | .publish => Sys2Proof.Machine.execPublish s
  | .digest => Sys2Proof.Machine.execDigest s
  | .attest => Sys2Proof.Machine.execAttest s
  | .pwrcapWrite => Sys2Proof.Machine.execPwrcapWrite s
  | .registerWrite => Sys2Proof.Machine.execRegisterWrite s
  | .eccCorrection => Sys2Proof.Machine.execEccCorrection s
  | .uncorrectableError => Sys2Proof.Machine.execUncorrectableError s
  | .scrub => Sys2Proof.Machine.execScrub s
  | .coreFailure => Sys2Proof.Machine.execCoreFailure s
  | .sliceFailure => Sys2Proof.Machine.execSliceFailure s
  | .channelFailure => Sys2Proof.Machine.execChannelFailure s
  | .laneDegrade => Sys2Proof.Machine.execLaneDegrade s
  | .portDown => Sys2Proof.Machine.execPortDown s
  | .thermalThrottle => Sys2Proof.Machine.execThermalThrottle s
  | .thermalShutdown => Sys2Proof.Machine.execThermalShutdown s
  | .moduleReset => Sys2Proof.Machine.execModuleReset s
  | .islandReset => Sys2Proof.Machine.execIslandReset s
  | .fixedLatencyResult => Sys2Proof.Machine.execFixedLatencyResult s
  | .linkRetrainComplete => Sys2Proof.Machine.execLinkRetrainComplete s
  | .liveFieldTakesEffect => Sys2Proof.Machine.execLiveFieldTakesEffect s
  | .holderModuleRemoved => Sys2Proof.Machine.execHolderModuleRemoved s

end Sys2Proof.Machine
end

