-- ==== Sys2Proof/Machine/Step.lean ====
section
/-! DEFINITION. One step of the module: a step that is due, a PACE word, a bundle of one core, or the end of the cycle
(09 R214); and the placing of a first instruction (log entry 15). -/

namespace Sys2Proof.Machine

namespace State

/-- Executes the bundle at the program counter of an issue group (04 R93, 09 R214, 10 R221). -/
def executeAt (s : State) (c : Nat) (ts : List Tid) : Host.Outcome State Fault Refusal :=
  match ts with
  | [] => .next s
  | t :: _ =>
    let pc := (s.thread t).pc
    match s.fetchBundle t.team pc with
    | (s', .ok i n) => exec i (((s'.noteCode t.team pc).noteCode t.team (pc + BitVec.ofNat 64 (4 * (n - 1)))).issuing c ts pc n)
    | (s', .fault r) => .next (ts.foldl (fun s u => s.takeTrap u r) (s'.issuing c ts pc 1))
    | (s', .absent p) => .next (ts.foldl (fun s u => s.askCode u p) s')

end State

/-- A module without power, or whose start failed, does nothing before a reset (28 R409, R410): the reset that the agenda
holds, whenever it comes, or the fault. -/
def State.stopped (s : State) (f : Fault) : Host.Outcome State Fault Refusal :=
  match State.takeReset s.agenda with
  | some (d, rest) => exec d.ev { s with agenda := rest, arg := d.arg }
  | none => .fault f

/-- One step of the module: a step that is due, a PACE word, the bundle of a core, or the end of the cycle. -/
def step (s : State) : Host.Outcome State Fault Refusal :=
  if s.mgmt.boot = 4 then s.stopped .powerRemoved
  else if s.mgmt.boot = 5 then s.stopped .bootFailed
  else match State.takeDue s.cycle s.agenda with
    | some (d, rest) => exec d.ev { s with agenda := rest, arg := d.arg }
    | none => match s.nextPace with
      | some t => s.executeAt (s.coreNum t) [t]
      | none => match s.nextIssue with
        | some (c, e) =>
          let ts := s.issueGroup c e
          let s := (s.endYields c e).modCore c fun k => { k with issued := some (s.cycle, e) }
          s.executeAt c ts
        | none => .next s.tick

namespace State

/-! ### Placing a first instruction (log entry 15) -/

/-- The thread whose bundle the next step fetches, where no other step is due. -/
def nextThread (s : State) : Option Tid := match s.nextPace with
  | some t => some t
  | none => match s.nextIssue with
    | some (c, e) => (s.issueGroup c e).head?
    | none => none

/-- The place in memory that the next step fetches from, where it lies in device or pool memory. -/
def fetchKey (s : State) : Option Nat := match s.nextThread with
  | none => none
  | some t => match s.translate (s.coreNum t) (s.team t.team).ctx (s.thread t).pc.toNat Need.fetch with
    | (_, .ok p _) => if p.tgt ≤ 1 then some p.key else none
    | _ => none

/-- The address of the first program word that `programLoaded` places, in virtual and in device memory. -/
def loadBase : Nat := 0x10000

/-- The team of `programLoaded`: one group of width 8, of which thread 0 is present (09 R208, 01 R14). -/
def loadTeam (s : State) : Team :=
  let m := { Team.none with
    status := .resident, ctx := 1, width := 8, idTeam := 0, nTeams := 1, nClTeams := 1, taskEnded := false
    entry := BitVec.ofNat 64 loadBase, barriers := List.replicate 16 ⟨false, 0, 8, 0⟩, jregs := List.replicate 8 JReg.free
    dtab := List.replicate 112 0, since := s.cycle }
  let t : Thread := { freshThread m s.cycle with entry := 0, stamp := s.cycle }
  { m with groups := [⟨[], [], [], t :: List.replicate 7 Thread.none⟩] }

/-- A program loaded and started from outside: context 1 enabled in partition 0, which may use DRAM stack 0, its code page
mapped, and one team with one thread on core 0 that stands at the page. -/
def programLoaded (s : State) : State :=
  let s := s.modCtx 1 fun k => { k with en := true }
  let s := { s with mem := s.mem.put (s.mgmt.partTab.toNat + 6) 1, teams := [s.loadTeam], clusters := [{ Cluster.none with teams := [0], placed := true }]
                    grids := [{ Grid.none with ctx := 1, nTeams := 1, nextCluster := 1, left := 1, dead := false }] }
  s.modCore 0 fun k => { k with
    entries := [⟨0, BitVec.ofNat 64 loadBase, 1⟩], issued := none
    tlb := [⟨1, loadBase, 0, BitVec.ofNat 64 (loadBase + 0x59), 0⟩] }

/-- The machine with an instruction placed where the next step fetches. Steps that are due and lines of code
fetched before are forgotten; where no thread would issue, a program is loaded. -/
def withFetchWord (s : State) (nbits w : Nat) : State :=
  let s := { s with agenda := [], mgmt := { s.mgmt with boot := 6 } }.mapCores fun k => { k with code := [] }
  let s := if s.fetchKey.isSome then s else s.programLoaded
  match s.fetchKey with
  | some key => { s with mem := s.mem.putAll (bytesAt key (leBytes 12 (w % 2 ^ nbits))) }
  | none => s

end State

end Sys2Proof.Machine
end

