-- ==== Sys2Proof/Certificates/Slice0/Obligations.lean ====
section
/-! DEFINITION. The statements for the provers. -/

namespace Sys2Proof.Claims

open Sys2Proof.Machine

/-! ### Terms of the statements -/

/-- The fourth operand of a bundle where it names one, else field d (04 R72). -/
def fourth (p : Pfx) (d : Field) : Field := match p.x with
  | some x => if x.c = 0 then d else x.c
  | none => d

/-- The bundle saturates (04 R72). -/
def saturates (p : Pfx) : Bool := match p.x with
  | some x => x.sat
  | none => false

/-- The governing mask's number (04 R72). -/
def maskName (p : Pfx) : Nat := match p.x with
  | some x => x.k.toNat
  | none => 0

/-- Masked-off destinations are zeroed (04 R72). -/
def zeroing (p : Pfx) : Bool := match p.x with
  | some x => x.z
  | none => false

/-- Nothing of decoding stops a thread at the bundle, its bit in the governing mask is 1, and no register it reads or writes
is bound to a pending token (04 R74, R93, 06 R149). -/
def takesPart (s : State) (i : Instr) (t : Tid) : Prop :=
  s.decodeTrap t i = none ∧ s.governed t i = true ∧ s.pendingReg t i = none

/-- The issue group is one thread, which takes part. -/
def alone (s : State) (i : Instr) (t : Tid) : Prop := s.cur.threads = [t] ∧ takesPart s i t

/-- The issue group is the listed threads of one group, by rising index, and each takes part. -/
def together (s : State) (i : Instr) (n g : Nat) (ts : List Tid) : Prop :=
  s.cur.threads = ts ∧ ts ≠ [] ∧ ts.Pairwise (fun t u => t.thr < u.thr) ∧ ∀ t ∈ ts, t.team = n ∧ t.grp = g ∧ takesPart s i t

/-- A thread without what the completion of a bundle changes: program counter, pacing, place in the issue table, wait,
answers. -/
def bare (x : Thread) : Thread :=
  { x with pc := 0, pace := [], since := 0, entry := 0, stamp := 0, wait := .none, reply := .none, sent := none, got := [] }

/-- The module without its cores, its teams, the steps due and the model's counters. -/
def module (s : State) : State := { s with cores := [], teams := [], agenda := [], nextId := 0, fresh := 0 }

/-- What a step leaves as it was: everything but the issue table, the steps due and the model's counters, what `threads`
completed bundles change, and what the four functions clear. All of memory is in `module`; `co`, `te` and `th` clear
parts of every core, team and thread. Uniform and mask registers keep their values, for a result under way lands later. -/
def frame (s s' : State) (ts : List Tid) (st : State → State) (co : Core → Core) (te : Team → Team) (th : Thread → Thread) : Prop :=
  st (module s') = st (module s) ∧
  (∀ c, co { s'.core c with entries := [] } = co { s.core c with entries := [] }) ∧
  (∀ n, te { s'.team n with groups := [] } = te { s.team n with groups := [] }) ∧
  (∀ n g, (s'.group n g).s = (s.group n g).s ∧ (s'.group n g).k = (s.group n g).k) ∧
  (∀ n g, (∀ t ∈ ts, (t.team, t.grp) ≠ (n, g)) → (s'.group n g).pend = (s.group n g).pend) ∧
  (∀ u, u ∉ ts → s'.thread u = s.thread u) ∧
  (∀ u, th (bare (s'.thread u)) = th (bare (s.thread u)))

/-- What a bundle that writes only registers leaves as it was: every byte of memory and all of the module but issue tables,
steps due and the model's counters; every team, uniform and mask register, and every other thread; of the issuing
threads, all registers as they stand (a result is under way and lands later) and all special registers. -/
def onlyRegisters (s s' : State) (ts : List Tid) : Prop := frame s s' ts id id id id

/-- A thread has completed its bundle (04 R80, R81): it goes on at `pc`, waits for nothing, its next bundle may issue from
the next cycle on, and one stall count, or at the end of PACE coverage all, is used up. -/
def goesOn (s s' : State) (t : Tid) (pc : DWord) (ends : Bool) : Prop :=
  (s'.thread t).pc = pc ∧ (s'.thread t).wait = .none ∧ (s'.thread t).since = s.cycle + 1 ∧
  (s'.thread t).pace = if ends then [] else (s.thread t).pace.tail

/-- A result of the thread is under way: to the destination, landing after the latency (04 R82), or after a variable one
(R85). -/
def underWay (s s' : State) (t : Tid) (own : List Nat) (d : Dst) (lat : Option Nat) : Prop :=
  ∃ e ∈ (s'.groupOf t).pend, e.dst = d ∧ e.due = lat.map (s.cycle + ·) ∧ e.own = own ∧ e.landed = false

/-- Every result under way was so before, or is one of `new`. -/
def noOtherResult (s s' : State) (t : Tid) (new : List Dst) : Prop :=
  ∀ e ∈ (s'.groupOf t).pend, e ∈ (s.groupOf t).pend ∨ e.dst ∈ new

/-- Once the thread's results under way have landed, the vector register `d` holds `x`; v0 discards it (01 R4). -/
def holdsV (s s' : State) (t : Tid) (d : Nat) (x : Word) : Prop :=
  ((s'.landAll t).thread t).vreg d =
    if physOf (s.thread t).base d = 0 then (s.thread t).vreg d else x

/-- Once the thread's results under way have landed, the address register `d` holds `x`; a0 discards it (01 R10). -/
def holdsA (s s' : State) (t : Tid) (d : Nat) (x : AReg) : Prop :=
  ((s'.landAll t).thread t).areg d = if d = 0 then (s.thread t).areg d else x

/-- Once the thread's results under way have landed, the uniform register `d` holds `x`; s0 discards it (01 R4). -/
def holdsS (s s' : State) (t : Tid) (d : Nat) (x : Word) : Prop :=
  ((s'.landAll t).groupOf t).sreg d = if d = 0 then (s.groupOf t).sreg d else x

/-- The low and the high word of a pair. -/
def low (x : DWord) : Word := x.extractLsb' 0 32
def high (x : DWord) : Word := x.extractLsb' 32 32

/-! ### Operands -/

/-- Operands A, B and D of a T word (05 R94). -/
def A (s : State) (t : Tid) (f : TF) : Word := (s.thread t).vreg f.a.toNat
def B (s : State) (t : Tid) (f : TF) : Word :=
  if f.u then (s.groupOf t).sreg f.b.toNat else (s.thread t).vreg f.b.toNat
def D (s : State) (t : Tid) (f : TF) : Word := (s.thread t).vreg (fourth f.p f.d).toNat
/-- Operand B as a pair (05 R96). -/
def B2 (s : State) (t : Tid) (f : TF) : DWord :=
  if f.u then (s.groupOf t).spair f.b.toNat else (s.thread t).vpair f.b.toNat
/-- Operand A of an I word. -/
def AI (s : State) (t : Tid) (f : IF) : Word := (s.thread t).vreg f.a.toNat
/-- The modes of a floating bundle: FPCR as read at issue, with RM replaced by a rounding option (01 R21, R22). -/
def M (s : State) (t : Tid) (p : Pfx) : Modes :=
  let rm := match p.x with
    | some x => x.rm.toNat
    | none => 0
  let c := (s.thread t).fpcr
  ⟨if rm = 0 then (c.extractLsb' 0 3).toNat else rm, c.getLsbD 3, c.getLsbD 4, c.getLsbD 5, c.extractLsb' 16 16⟩

/-- The result of a per-thread instruction with one vector register as its destination and a fixed latency: the
destination, the latency of R82, the value (05 R97, R103; 06 R128, R137). -/
def vectorResult : Instr → Option (Field × Nat × (State → Tid → Word))
  | .add f => some (f.d, 4, fun s t => addI 32 (saturates f.p) (A s t f) (B s t f))
  | .sub f => some (f.d, 4, fun s t => subI 32 (saturates f.p) (A s t f) (B s t f))
  | .addi f => some (f.d, 4, fun s t => addI 32 (saturates f.p) (AI s t f) (immW f.p f.imm))
  | .mul f => some (f.d, 4, fun s t => mulI (saturates f.p) (A s t f) (B s t f))
  | .mulhs f => some (f.d, 4, fun s t => mulHigh true (A s t f) (B s t f))
  | .mulhn f => some (f.d, 4, fun s t => mulHigh false (A s t f) (B s t f))
  | .mad f => some (f.d, 4, fun s t => madI (saturates f.p) (A s t f) (B s t f) (D s t f))
  | .divs f => some (f.d, 4, fun s t => quotI true (A s t f) (B s t f))
  | .divn f => some (f.d, 4, fun s t => quotI false (A s t f) (B s t f))
  | .rems f => some (f.d, 4, fun s t => remI true (A s t f) (B s t f))
  | .remn f => some (f.d, 4, fun s t => remI false (A s t f) (B s t f))
  | .mins f => some (f.d, 4, fun s t => if (A s t f).toInt ≤ (B s t f).toInt then A s t f else B s t f)
  | .minn f => some (f.d, 4, fun s t => if (A s t f).toNat ≤ (B s t f).toNat then A s t f else B s t f)
  | .maxs f => some (f.d, 4, fun s t => if (A s t f).toInt ≤ (B s t f).toInt then B s t f else A s t f)
  | .maxn f => some (f.d, 4, fun s t => if (A s t f).toNat ≤ (B s t f).toNat then B s t f else A s t f)
  | .abs f => some (f.d, 4, fun s t => absI (saturates f.p) (B s t f))
  | .neg f => some (f.d, 4, fun s t => negI (saturates f.p) (B s t f))
  | .and f => some (f.d, 4, fun s t => A s t f &&& B s t f)
  | .or f => some (f.d, 4, fun s t => A s t f ||| B s t f)
  | .xor f => some (f.d, 4, fun s t => A s t f ^^^ B s t f)
  | .andn f => some (f.d, 4, fun s t => A s t f &&& ~~~B s t f)
  | .not f => some (f.d, 4, fun s t => ~~~B s t f)
  | .shl f => some (f.d, 4, fun s t => A s t f <<< (B s t f).toNat)
  | .shr f => some (f.d, 4, fun s t => A s t f >>> (B s t f).toNat)
  | .sra f => some (f.d, 4, fun s t => (A s t f).sshiftRight (B s t f).toNat)
  | .rol f => some (f.d, 4, fun s t => (A s t f).rotateLeft ((B s t f).toNat % 32))
  | .shli f => some (f.d, 4, fun s t => AI s t f <<< f.imm.toNat)
  | .shri f => some (f.d, 4, fun s t => AI s t f >>> f.imm.toNat)
  | .srai f => some (f.d, 4, fun s t => (AI s t f).sshiftRight f.imm.toNat)
  | .clz f => some (f.d, 4, fun s t => clzI (B s t f))
  | .ctz f => some (f.d, 4, fun s t => ctzI (B s t f))
  | .popc f => some (f.d, 4, fun s t => BitVec.ofNat 32 (popcount (B s t f)))
  | .brev f => some (f.d, 4, fun s t => brevI (B s t f))
  | .bfx f => some (f.d, 4, fun s t => bfxI (A s t f) (B s t f))
  | .bfi f => some (f.d, 4, fun s t => bfiI (A s t f) (B s t f) (D s t f))
  | .prmb f => some (f.d, 4, fun s t => prmbI (A s t f) (B s t f) (D s t f))
  | .sel f => some (f.d, 4, fun s t => if D s t f = 0 then B s t f else A s t f)
  | .movl f => some (f.d, 4, fun _ _ => immL f.p f.imm)
  | .mov f => some (f.d, 4, fun s t => B s t f)
  | .ktov f => some (f.d, 2, fun s t => if ((s.groupOf t).mask f.a.toNat).getLsbD t.thr then 0xFFFFFFFF else 0)
  | .fadd f => some (f.d, 6, fun s t =>
      BitVec.ofNat 32 (binF (M s t f.p) (saturates f.p) 0 (addF (M s t f.p).rm) (A s t f).toNat (B s t f).toNat))
  | .fsub f => some (f.d, 6, fun s t =>
      BitVec.ofNat 32 (binF (M s t f.p) (saturates f.p) 0 (fun x y => addF (M s t f.p).rm x y.flip)
        (A s t f).toNat (B s t f).toNat))
  | .fmul f => some (f.d, 6, fun s t =>
      BitVec.ofNat 32 (binF (M s t f.p) (saturates f.p) 0 mulF (A s t f).toNat (B s t f).toNat))
  | .ffma f => some (f.d, 6, fun s t =>
      BitVec.ofNat 32 (fmaF (M s t f.p) (saturates f.p) 0 (A s t f).toNat (B s t f).toNat (D s t f).toNat))
  | .fmin f => some (f.d, 6, fun s t => minMax32 (M s t f.p) false (A s t f) (B s t f))
  | .fmax f => some (f.d, 6, fun s t => minMax32 (M s t f.p) true (A s t f) (B s t f))
  | .fabs f => some (f.d, 6, fun s t => B s t f &&& 0x7FFFFFFF)
  | .fneg f => some (f.d, 6, fun s t => B s t f ^^^ 0x80000000)
  | .fclass f => some (f.d, 6, fun s t => class32 (B s t f))
  | .frnd f => some (f.d, 6, fun s t => roundInt32 (M s t f.p) (B s t f))
  | .fscale f => some (f.d, 6, fun s t => scale32 (M s t f.p) (saturates f.p) (A s t f) (B s t f))
  | .fcvt f => some (f.d, 6, fun s t => BitVec.ofNat 32
      (convert (M s t f.p) (saturates f.p) (f.imm.toNat / 16) (f.imm.toNat % 16) (AI s t f).toNat))
  | .icvt f => some (f.d, 6, fun s t => BitVec.ofNat 32
      (convertInt (M s t f.p) (saturates f.p) (f.imm.toNat / 16) (f.imm.toNat % 16) (AI s t f).toNat))
  | .ficvt f => some (f.d, 6, fun s t =>
      convertToInt (M s t f.p) (f.imm.toNat / 16) (f.imm.toNat % 16) (AI s t f).toNat)
  | .hadd2 f => some (f.d, 6, fun s t => packed (fun a b _ => binF (M s t f.p) (saturates f.p) 1 (addF (M s t f.p).rm) a b)
      (A s t f) (B s t f) 0)
  | .hsub2 f => some (f.d, 6, fun s t => packed (fun a b _ => binF (M s t f.p) (saturates f.p) 1
      (fun x y => addF (M s t f.p).rm x y.flip) a b) (A s t f) (B s t f) 0)
  | .hmul2 f => some (f.d, 6, fun s t => packed (fun a b _ => binF (M s t f.p) (saturates f.p) 1 mulF a b)
      (A s t f) (B s t f) 0)
  | .hfma2 f => some (f.d, 6, fun s t => packed (fmaF (M s t f.p) (saturates f.p) 1) (A s t f) (B s t f) (D s t f))
  | .badd2 f => some (f.d, 6, fun s t => packed (fun a b _ => binF (M s t f.p) (saturates f.p) 2 (addF (M s t f.p).rm) a b)
      (A s t f) (B s t f) 0)
  | .bmul2 f => some (f.d, 6, fun s t => packed (fun a b _ => binF (M s t f.p) (saturates f.p) 2 mulF a b)
      (A s t f) (B s t f) 0)
  | .bfma2 f => some (f.d, 6, fun s t => packed (fmaF (M s t f.p) (saturates f.p) 2) (A s t f) (B s t f) (D s t f))
  | .fpk f => some (f.d, 6, fun s t => setElement (f.imm.toNat / 16) ((s.thread t).vreg (fourth f.p f.d).toNat)
      (f.imm.toNat % 8) (convert (M s t f.p) (saturates f.p) (f.imm.toNat / 16) 0 (AI s t f).toNat))
  | .fupk f => some (f.d, 6, fun s t => BitVec.ofNat 32
      (convert (M s t f.p) false 0 (f.imm.toNat / 16) (element (f.imm.toNat / 16) (AI s t f) (f.imm.toNat % 8))))
  | _ => none

/-- A pair as its two words, a quad as its four. -/
def words2 (x : DWord) : List Word := [low x, high x]
def words4 (x : Quad) : List Word := words2 (x.extractLsb' 0 64) ++ words2 (x.extractLsb' 64 64)

/-- The value of a special register (01 R17, R20, R21, R23) and whether it is 64 bits wide. -/
def registerValue (s : State) (t : Tid) (n : Nat) : Option (Bool × DWord) :=
  let m := s.team t.team
  let x := s.thread t
  match n with
  | 0x0000 => some (false, BitVec.ofNat 64 t.thr)
  | 0x0001 => some (false, BitVec.ofNat 64 t.grp)
  | 0x0002 => some (false, m.idTeam.zeroExtend 64)
  | 0x0003 => some (false, m.idCluster.zeroExtend 64)
  | 0x0004 => some (false, BitVec.ofNat 64 m.inCluster)
  | 0x0010 => some (false, BitVec.ofNat 64 m.width)
  | 0x0011 => some (false, BitVec.ofNat 64 m.groups.length)
  | 0x0012 => some (false, m.nTeams.zeroExtend 64)
  | 0x0013 => some (false, BitVec.ofNat 64 m.nClTeams)
  | 0x0020 => some (false, BitVec.ofNat 64 ((m.lane0 + m.width * t.grp + t.thr) % 64))
  | 0x0021 => some (false, BitVec.ofNat 64 m.core)
  | 0x0022 => some (false, BitVec.ofNat 64 (m.core / 128))
  | 0x1000 => some (true, BitVec.ofNat 64 s.cycle)
  | 0x1001 => some (true, BitVec.ofNat 64 (s.time.sixths / 6))
  | 0x2000 => some (false, x.fpcr.zeroExtend 64)
  | 0x2001 => some (true, m.age)
  | 0x2002 => some (false, BitVec.ofNat 64 m.ctx)
  | 0x2003 => some (false, x.rgncnt.zeroExtend 64)
  | 0x2004 => some (false, m.dlvref.zeroExtend 64)
  | 0x3000 => some (false, x.trapCause.zeroExtend 64)
  | 0x3001 => some (true, x.trapPc)
  | 0x3002 => some (true, x.trapRgn)
  | 0x3003 => some (true, x.trapAddr)
  | 0x4000 => some (false, 0x0101FFC0)
  | 0x4001 => some (false, 0x600C1040)
  | 0x4002 => some (false, 0x30082018)
  | 0x4003 => some (false, 0x00040C80)
  | _ => none

/-- The words that a per-thread instruction writes to a vector pair, quad or register at a fixed latency, the first to
`d` (05 R97; 07 R166, R168; 08 R206). -/
def wordsResult : Instr → Option (Field × Nat × (State → Tid → List Word))
  | .addw f => some (f.d, 4, fun s t => words2 (addI 64 (saturates f.p) ((s.thread t).vpair f.a.toNat) (B2 s t f)))
  | .subw f => some (f.d, 4, fun s t => words2 (subI 64 (saturates f.p) ((s.thread t).vpair f.a.toNat) (B2 s t f)))
  | .mulws f => some (f.d, 4, fun s t => words2 ((A s t f).signExtend 64 * (B s t f).signExtend 64))
  | .mulwn f => some (f.d, 4, fun s t => words2 ((A s t f).zeroExtend 64 * (B s t f).zeroExtend 64))
  | .movav f => some (f.d, 4, fun s t => words2 ((s.thread t).areg f.a.toNat).val)
  | .suba f => some (f.d, 4, fun s t =>
      words2 (AReg.sub ((s.thread t).areg f.a.toNat) ((s.thread t).areg f.b.toNat)))
  | .ida f => some (f.d, 4, fun s t => words4 ((s.thread t).areg f.a.toNat).brand)
  | .getsr f => some (f.d, 4, fun s t => match registerValue s t f.imm.toNat with
      | some (true, x) => words2 x
      | some (false, x) => [low x]
      | none => [])
  | _ => none

/-- The bit that a per-thread compare writes at its own index of mask kd (06 R125 to R128, 07 R167). -/
def bitResult : Instr → Option (BitVec 3 × (State → Tid → Bool))
  | .cmp f => some (f.kd, fun s t => testInt f.cond.toNat ((s.thread t).vreg f.a.toNat)
      (if f.u then (s.groupOf t).sreg f.b.toNat else (s.thread t).vreg f.b.toNat))
  | .cmpi f => some (f.kd, fun s t => testInt f.cond.toNat ((s.thread t).vreg f.a.toNat) (f.b.signExtend 32))
  | .fcmp f => some (f.kd, fun s t => testFloat f.cond.toNat (flush32 (M s t f.p) ((s.thread t).vreg f.a.toNat))
      (flush32 (M s t f.p) (if f.u then (s.groupOf t).sreg f.b.toNat else (s.thread t).vreg f.b.toNat)))
  | .kfrom f => some (f.kd, fun s t => decide ((s.thread t).vreg f.a.toNat ≠ 0))
  | .cmpa f => some (f.kd, fun s t =>
      let x := ((s.thread t).areg f.a.toNat).key
      let y := ((s.thread t).areg f.b.toNat).key
      match f.cond.toNat with
      | 0 => decide (x = y)
      | 1 => decide (x ≠ y)
      | 2 => keyLess x y
      | _ => keyLess x y || decide (x = y))
  | _ => none

/-- The result of a pointer instruction that changes only registers (07 R166). -/
def pointerResult : Instr → Option (Field × (State → Tid → AReg))
  | .adda f => some (f.d, fun s t =>
      ⟨((s.thread t).areg f.a.toNat).val + (B s t f).signExtend 64, ((s.thread t).areg f.a.toNat).sh⟩)
  | .addai f => some (f.d, fun s t =>
      ⟨((s.thread t).areg f.a.toNat).val + BitVec.ofInt 64 (immI f.p f.imm), ((s.thread t).areg f.a.toNat).sh⟩)
  | .mova f => some (f.d, fun s t => (s.thread t).areg f.a.toNat)
  | .movva f => some (f.d, fun s t => ⟨B2 s t f, Tether.clear⟩)
  | _ => none

/-- The result of a uniform instruction, from the group's registers as they stand at the execution (05 R108, R109, 06
R128). -/
def uniformResult : Instr → Option (Field × Nat × (State → Nat → Nat → List Tid → Word))
  | .sadd f => some (f.d, 4, fun s n g _ => addI 32 (saturates f.p) ((s.group n g).sreg f.a.toNat) ((s.group n g).sreg f.b.toNat))
  | .ssub f => some (f.d, 4, fun s n g _ => subI 32 (saturates f.p) ((s.group n g).sreg f.a.toNat) ((s.group n g).sreg f.b.toNat))
  | .saddi f => some (f.d, 4, fun s n g _ => addI 32 (saturates f.p) ((s.group n g).sreg f.a.toNat) (immW f.p f.imm))
  | .smul f => some (f.d, 4, fun s n g _ => mulI (saturates f.p) ((s.group n g).sreg f.a.toNat) ((s.group n g).sreg f.b.toNat))
  | .smad f => some (f.d, 4, fun s n g _ =>
      madI (saturates f.p) ((s.group n g).sreg f.a.toNat) ((s.group n g).sreg f.b.toNat) ((s.group n g).sreg f.d.toNat))
  | .sand f => some (f.d, 4, fun s n g _ => (s.group n g).sreg f.a.toNat &&& (s.group n g).sreg f.b.toNat)
  | .sor f => some (f.d, 4, fun s n g _ => (s.group n g).sreg f.a.toNat ||| (s.group n g).sreg f.b.toNat)
  | .sxor f => some (f.d, 4, fun s n g _ => (s.group n g).sreg f.a.toNat ^^^ (s.group n g).sreg f.b.toNat)
  | .sshl f => some (f.d, 4, fun s n g _ => (s.group n g).sreg f.a.toNat <<< ((s.group n g).sreg f.b.toNat).toNat)
  | .sshr f => some (f.d, 4, fun s n g _ => (s.group n g).sreg f.a.toNat >>> ((s.group n g).sreg f.b.toNat).toNat)
  | .ssra f => some (f.d, 4, fun s n g _ =>
      ((s.group n g).sreg f.a.toNat).sshiftRight ((s.group n g).sreg f.b.toNat).toNat)
  | .sshli f => some (f.d, 4, fun s n g _ => (s.group n g).sreg f.a.toNat <<< f.imm.toNat)
  | .sshri f => some (f.d, 4, fun s n g _ => (s.group n g).sreg f.a.toNat >>> f.imm.toNat)
  | .smins f => some (f.d, 4, fun s n g _ => minS ((s.group n g).sreg f.a.toNat) ((s.group n g).sreg f.b.toNat))
  | .smaxs f => some (f.d, 4, fun s n g _ => maxS ((s.group n g).sreg f.a.toNat) ((s.group n g).sreg f.b.toNat))
  | .smov f => some (f.d, 4, fun s n g _ => (s.group n g).sreg f.a.toNat)
  | .smovl f => some (f.d, 4, fun _ _ _ _ => immL f.p f.imm)
  | .ssel f => some (f.d, 4, fun s n g _ => if (s.group n g).sreg f.d.toNat = 0 then (s.group n g).sreg f.b.toNat
      else (s.group n g).sreg f.a.toNat)
  | .rfl f => some (f.d, 4, fun s _ _ ts => match ts with
      | t :: _ => (s.thread t).vreg f.a.toNat
      | [] => 0)
  | .kpop f => some (f.d, 2, fun s n g _ =>
      BitVec.ofNat 32 (popcount ((s.group n g).mask f.a.toNat &&& (s.group n g).mask (maskName f.p))))
  | .sftest f => some (f.d, 4, fun s _ _ ts =>
      (List.range 8).foldl (fun (x : Word) i => if f.imm.getLsbD i && ts.all (fun t =>
        (s.thread t).tokens.all fun k => k.num != i || k.landed) then x ||| (1#32 <<< i) else x) 0)
  | _ => none

/-- The result of a convergent mask instruction at the positions of its governing mask `G` (06 R128, R129). -/
def maskResult : Instr → Option (BitVec 3 × (Group → DWord → DWord))
  | .scmp f => some (f.kd, fun g _ =>
      if testInt f.cond.toNat (g.sreg f.a.toNat) (g.sreg f.b.toNat) then BitVec.allOnes 64 else 0)
  | .kand f => some (f.kd, fun g _ => g.mask f.a.toNat &&& g.mask f.b.toNat)
  | .kor f => some (f.kd, fun g _ => g.mask f.a.toNat ||| g.mask f.b.toNat)
  | .kxor f => some (f.kd, fun g _ => g.mask f.a.toNat ^^^ g.mask f.b.toNat)
  | .kandn f => some (f.kd, fun g _ => g.mask f.a.toNat &&& ~~~g.mask f.b.toNat)
  | .knot f => some (f.kd, fun g _ => ~~~g.mask f.a.toNat)
  | .kmov f => some (f.kd, fun g _ => g.mask f.a.toNat)
  | .kfirst f => some (f.kd, fun g G => (g.mask f.a.toNat &&& G) &&& -(g.mask f.a.toNat &&& G))
  | .kall f => some (f.kd, fun g G => if g.mask f.a.toNat &&& G = G then BitVec.allOnes 64 else 0)
  | _ => none

/-! ### Cross-lane values (06 R131 to R135) -/

/-- The word that a thread of the group supplies: 0 unless it takes part. -/
def supplied (s : State) (n g : Nat) (ts : List Tid) (a : Field) (k : Nat) : Word :=
  if (⟨n, g, k⟩ : Tid) ∈ ts then (s.thread ⟨n, g, k⟩).vreg a.toNat else 0

/-- The signed words of the participants that `p` selects. -/
def terms (s : State) (ts : List Tid) (a : Field) (p : Nat → Bool) : List Int :=
  (ts.filter fun t => p t.thr).map fun t => ((s.thread t).vreg a.toNat).toInt

/-- The word that a participant receives. `W` is the group's width. -/
def crossResult : Instr → Option (Field × (State → Nat → Nat → List Tid → Tid → Word))
  | .shfli f => some (f.d, fun s n g ts t => supplied s n g ts f.a (B s t f).toNat)
  | .shflu f => some (f.d, fun s n g ts t =>
      supplied s n g ts f.a (if t.thr < (B s t f).toNat ∨ (s.team n).width ≤ t.thr - (B s t f).toNat then t.thr else t.thr - (B s t f).toNat))
  | .shfld f => some (f.d, fun s n g ts t =>
      supplied s n g ts f.a (if (s.team n).width ≤ t.thr + (B s t f).toNat then t.thr else t.thr + (B s t f).toNat))
  | .shflx f => some (f.d, fun s n g ts t =>
      supplied s n g ts f.a (if (s.team n).width ≤ t.thr ^^^ (B s t f).toNat then t.thr else t.thr ^^^ (B s t f).toNat))
  | .redadd f => some (f.d, fun s _ _ ts _ => narrow 32 (saturates f.p) (terms s ts f.a fun _ => true).sum)
  | .scanadd f => some (f.d, fun s _ _ ts t => narrow 32 (saturates f.p) (terms s ts f.a fun k => k ≤ t.thr).sum)
  | .scanaddx f => some (f.d, fun s _ _ ts t => narrow 32 (saturates f.p) (terms s ts f.a fun k => k < t.thr).sum)
  | .redmin f => some (f.d, fun s _ _ ts _ =>
      (ts.map fun t => (s.thread t).vreg f.a.toNat).foldl (fun x y => if x.toInt ≤ y.toInt then x else y) 0x7FFFFFFF)
  | .redmax f => some (f.d, fun s _ _ ts _ =>
      (ts.map fun t => (s.thread t).vreg f.a.toNat).foldl (fun x y => if x.toInt ≤ y.toInt then y else x) 0x80000000)
  | .redand f => some (f.d, fun s _ _ ts _ => (ts.map fun t => (s.thread t).vreg f.a.toNat).foldl (· &&& ·) 0xFFFFFFFF)
  | .redor f => some (f.d, fun s _ _ ts _ => (ts.map fun t => (s.thread t).vreg f.a.toNat).foldl (· ||| ·) 0)
  | .fredadd f => some (f.d, fun s n g ts _ => match ts with
      | [] => 0
      | t :: _ => treeSum (M s t f.p) 6 ((List.range (s.team n).width).map fun k =>
          if (⟨n, g, k⟩ : Tid) ∈ ts then some (flush32 (M s t f.p) ((s.thread ⟨n, g, k⟩).vreg f.a.toNat)) else none))
  | _ => none

end Sys2Proof.Claims

open Sys2Proof Sys2Proof.Machine Sys2Proof.Claims

/-! ### Registers: per-thread instructions -/

/-- R94, R97, R137, R82: the d register of an integer, floating or KTOV instruction receives the operation of the operands as
read at the issue, after the latency of R82; the thread goes on at the following word; nothing else changes. Forms whose own
effect completes here: ADD, SUB, ADDI, MUL, MULHS, MULHN, MAD, DIVS, DIVN, REMS, REMN, MINS, MINN, MAXS, MAXN, ABS, NEG, AND,
OR, XOR, ANDN, NOT, SHL, SHR, SRA, ROL, SHLI, SHRI, SRAI, CLZ, CTZ, POPC, BREV, BFX, BFI, PRMB, SEL, MOVL, MOV, KTOV, FADD,
FSUB, FMUL, FFMA, FMIN, FMAX, FABS, FNEG, FCLASS, FRND, FSCALE, FCVT, ICVT, FICVT, HADD2, HSUB2, HMUL2, HFMA2, BADD2, BMUL2,
BFMA2, FPK, FUPK. -/
def Obligations.VectorResultsLand : Prop :=
  ∀ (i : Instr) (s : State) (t : Tid) (d : Field) (lat : Nat) (val : State → Tid → Word),
    vectorResult i = some (d, lat, val) → alone s i t →
    ∃ s', exec i s = .next s' ∧ onlyRegisters s s' [t] ∧ goesOn s s' t s.cur.next false ∧
      holdsV s s' t d.toNat (val s t) ∧
      underWay s s' t [t.thr] (.v t.thr (physOf (s.thread t).base d.toNat) (val s t)) (some lat) ∧
      noOtherResult s s' t [.v t.thr (physOf (s.thread t).base d.toNat) (val s t)]

/-- R97, R166, R168, R206, R82: an instruction that writes a vector pair, a quad, or a special register's value; the words land
together. GETSR of a system register is such an instruction in system mode. R125, R167, R166, R8, R9: a compare writes its
thread's bit of mask kd after two cycles, and no other bit. ADDA and ADDAI change an address register's value and keep its
shadow, MOVA copies both, MOVVA clears the shadow. Forms whose own effect completes here: ADDW, SUBW, MULWS, MULWN, CMP,
CMPI, FCMP, KFROM, ADDA, ADDAI, MOVA, MOVAV, MOVVA, CMPA, SUBA, IDA, GETSR. -/
def Obligations.WideComparedAndPointerResultsLand : Prop :=
  (∀ (i : Instr) (s : State) (t : Tid) (d : Field) (lat : Nat) (val : State → Tid → List Word),
    wordsResult i = some (d, lat, val) → i.WellFormed → alone s i t →
    ∃ s', exec i s = .next s' ∧ onlyRegisters s s' [t] ∧ goesOn s s' t s.cur.next false ∧ val s t ≠ [] ∧
      (∀ j x, (val s t)[j]? = some x → holdsV s s' t (d.toNat + j) x ∧
        underWay s s' t [t.thr] (.v t.thr (physOf (s.thread t).base (d.toNat + j)) x) (some lat)) ∧
      ∀ e ∈ (s'.groupOf t).pend, e ∈ (s.groupOf t).pend ∨ ∃ j x, (val s t)[j]? = some x ∧
        e.dst = .v t.thr (physOf (s.thread t).base (d.toNat + j)) x) ∧
  ((∀ (i : Instr) (s : State) (t : Tid) (kd : BitVec 3) (val : State → Tid → Bool),
    bitResult i = some (kd, val) → i.WellFormed → alone s i t →
    ∃ s', exec i s = .next s' ∧ onlyRegisters s s' [t] ∧ goesOn s s' t s.cur.next false ∧
      (((s'.landAll t).groupOf t).mask kd.toNat).getLsbD t.thr = val s t ∧
      underWay s s' t [t.thr] (.k kd.toNat (1#64 <<< t.thr) (if val s t then 1#64 <<< t.thr else 0)) (some 2) ∧
      ∀ e ∈ (s'.groupOf t).pend, e ∈ (s.groupOf t).pend ∨ ∃ b x, e.dst = .k kd.toNat b x ∧
        (b = 1#64 <<< t.thr ∨ ∃ e' ∈ (s.groupOf t).pend, ∃ b', e'.dst = .k kd.toNat b' x ∧ b &&& ~~~b' = 0)) ∧
  (∀ (i : Instr) (s : State) (t : Tid) (d : Field) (val : State → Tid → AReg),
    pointerResult i = some (d, val) → alone s i t →
    ∃ s', exec i s = .next s' ∧ onlyRegisters s s' [t] ∧ goesOn s s' t s.cur.next false ∧
      holdsA s s' t d.toNat (val s t) ∧
      underWay s s' t [t.thr] (.a t.thr d.toNat (val s t)) (some 4) ∧
      noOtherResult s s' t [.a t.thr d.toNat (val s t)]))

/-! ### Registers: convergent instructions -/

/-- R105, R106, R108, R109, R152: a uniform instruction executes once for the threads of its group; its result lands in one
uniform register for all of them. Forms whose own effect completes here: SADD, SSUB, SADDI, SMUL, SMAD, SAND, SOR, SXOR,
SSHL, SSHR, SSRA, SSHLI, SSHRI, SMINS, SMAXS, SMOV, SMOVL, SSEL, RFL, KPOP, SFTEST. -/
def Obligations.UniformResultsLandOnce : Prop :=
  ∀ (i : Instr) (s : State) (n g : Nat) (ts : List Tid) (d : Field) (lat : Nat)
    (val : State → Nat → Nat → List Tid → Word),
    uniformResult i = some (d, lat, val) → together s i n g ts →
    ∃ s', exec i s = .next s' ∧ onlyRegisters s s' ts ∧
      (∀ t ∈ ts, goesOn s s' t s.cur.next false ∧ holdsS s s' t d.toNat (val s n g ts) ∧
        underWay s s' t (ts.map fun t => t.thr) (.s d.toNat (val s n g ts)) (some lat) ∧
        noOtherResult s s' t [.s d.toNat (val s n g ts)])

/-- R128, R129: a convergent mask instruction writes the positions of its governing mask, and no others: what is under way after
it is its result at those positions, and results that were under way before, those of an earlier write of the same register
that would land later kept at the other positions (04 R84). Forms whose own effect completes here: SCMP, KAND, KOR, KXOR,
KANDN, KNOT, KMOV, KFIRST, KALL. -/
def Obligations.MaskResultsKeepUngovernedPositions : Prop :=
  ∀ (i : Instr) (s : State) (n g : Nat) (ts : List Tid) (kd : BitVec 3) (val : Group → DWord → DWord),
    maskResult i = some (kd, val) → i.WellFormed → together s i n g ts →
    ∃ s', exec i s = .next s' ∧ onlyRegisters s s' ts ∧
      (∀ t ∈ ts, goesOn s s' t s.cur.next false ∧
        underWay s s' t (ts.map fun t => t.thr) (.k kd.toNat ((s.group n g).mask (maskName i.pfx))
          (val (s.group n g) ((s.group n g).mask (maskName i.pfx)) &&& (s.group n g).mask (maskName i.pfx))) (some 2) ∧
        ∀ j, ((s.group n g).mask (maskName i.pfx)).getLsbD j = true →
          (((s'.landAll t).groupOf t).mask kd.toNat).getLsbD j =
            (val (s.group n g) ((s.group n g).mask (maskName i.pfx))).getLsbD j) ∧
      ∀ t ∈ ts, ∀ e ∈ (s'.groupOf t).pend, e ∈ (s.groupOf t).pend ∨
        (∃ e' ∈ (s.groupOf t).pend, ∃ b x, e'.dst = .k kd.toNat b x ∧
          e = { e' with dst := .k kd.toNat (b &&& ~~~(s.group n g).mask (maskName i.pfx)) x }) ∨
        e.dst = .k kd.toNat ((s.group n g).mask (maskName i.pfx))
          (val (s.group n g) ((s.group n g).mask (maskName i.pfx)) &&& (s.group n g).mask (maskName i.pfx))

/-- R131 to R135: a cross-lane instruction gives each participant a word of the participants' registers as read at the execution;
it lands at a variable latency. For SHFLI every index lies below the width. Forms whose own effect completes here: SHFLI,
SHFLU, SHFLD, SHFLX, REDADD, REDMIN, REDMAX, REDAND, REDOR, FREDADD, SCANADD, SCANADDX. -/
def Obligations.CrossLaneResultsLand : Prop :=
  ∀ (i : Instr) (s : State) (n g : Nat) (ts : List Tid) (d : Field) (val : State → Nat → Nat → List Tid → Tid → Word),
    crossResult i = some (d, val) → together s i n g ts →
    (∀ f, i = .shfli f → ∀ t ∈ ts, (B s t f).toNat < (s.team n).width) →
    ∃ s', exec i s = .next s' ∧ onlyRegisters s s' ts ∧
      (∀ t ∈ ts, goesOn s s' t s.cur.next false ∧ holdsV s s' t d.toNat (val s n g ts t) ∧
        underWay s s' t [t.thr] (.v t.thr (physOf (s.thread t).base d.toNat) (val s n g ts t)) none)

namespace Sys2Proof.Claims

open Sys2Proof.Machine

/-! ### Further results -/

/-- The bits of the listed threads that `p` selects, each at the thread's index. -/
def isBits (x : DWord) (ts : List Tid) (p : Tid → Prop) : Prop :=
  ∀ j, j < 64 → (x.getLsbD j = true ↔ ∃ t ∈ ts, t.thr = j ∧ p t)

/-- The blocks of a block conversion: length and mantissa width (06 R145). -/
def blockLength (f : IF) : Nat := if f.imm.getLsbD 0 then 32 else 16
def blockWidth (f : IF) : Nat := (f.imm.extractLsb' 4 4).toNat

/-! ### Control -/

/-- The target of a branch or jump; whether it writes the return address; whether it takes its target from an address
register (05 R114, R115). -/
def goesTo : Instr → Option (Bool × Bool × (State → Tid → DWord))
  | .bra f => some (false, false, fun s _ => s.cur.opPc + 4 * f.disp.signExtend 64)
  | .brk f => some (false, false, fun s t => if ((s.groupOf t).mask f.k.toNat).getLsbD t.thr = f.sense
      then s.cur.opPc + 4 * f.disp.signExtend 64 else s.cur.next)
  | .brz f => some (false, false, fun s t => if (s.thread t).vreg f.a.toNat = 0
      then s.cur.opPc + 4 * f.disp.signExtend 64 else s.cur.next)
  | .brnz f => some (false, false, fun s t => if (s.thread t).vreg f.a.toNat = 0
      then s.cur.next else s.cur.opPc + 4 * f.disp.signExtend 64)
  | .call f => some (true, false, fun s _ => s.cur.opPc + 4 * f.disp.signExtend 64)
  | .calla f => some (true, true, fun s t => ((s.thread t).areg f.a.toNat).val)
  | .jmpa f => some (false, true, fun s t => ((s.thread t).areg f.a.toNat).val)
  | .ret _ => some (false, true, fun s t => ((s.thread t).areg 15).val)
  | _ => none

/-- Words at this address are aligned (04 R67). -/
def aligned4 (a : DWord) : Prop := a.extractLsb' 0 2 = 0

/-- What an instruction that acts at once changes of its thread, and of its team's registers (01 R19,
R21; 05 R117 to R121; 06 R151; 08 R206; 19 R331). -/
def atOnce (s : State) (t : Tid) : Instr → Option ((Thread → Thread) × (Team → Team))
  | .nop _ => some (id, id)
  | .sleep f => if f.imm = 0 then some (id, id) else none
  | .phint _ => if (s.team t.team).request = none then some (id, id) else none
  | .wbase f => if 1 ≤ f.imm.toNat ∧ 16 * f.imm.toNat + 112 ≤ (s.team t.team).vregs
      then some (fun x => { x with base := 16 * f.imm.toNat }, id) else none
  | .rgn _ => some (fun x => { x with region := s.cur.pc, rgncnt := x.rgncnt + 1 }, id)
  | .sfwait f => if (s.thread t).tokens.all fun k => k.landed || !f.imm.getLsbD k.num
      then some (fun x => { x with tokens := x.tokens.filter fun k => !f.imm.getLsbD k.num }, id) else none
  | .setsr f =>
      let w := (s.thread t).vreg f.d.toNat
      let d := (s.thread t).vpair f.d.toNat
      match f.imm.toNat with
      | 0x2000 => if (1 ≤ (w.extractLsb' 0 3).toNat ∧ (w.extractLsb' 0 3).toNat ≤ 5) ∧ w.extractLsb' 6 10 = 0
          then some (fun x => { x with fpcr := w }, id) else none
      | 0x2003 => some (fun x => { x with rgncnt := w }, id)
      | 0x2004 => some (id, fun m => { m with dlvref := w })
      | 0x3000 => some (fun x => { x with trapCause := w }, id)
      | 0x3001 => some (fun x => { x with trapPc := d }, id)
      | 0x3002 => some (fun x => { x with trapRgn := d }, id)
      | 0x3003 => some (fun x => { x with trapAddr := d }, id)
      | _ => none
  | _ => none

/-! ### Traps -/

/-- The state in which the thread's results under way have landed (10 R221). -/
def landed (s : State) (t : Tid) : State := (s.landAll t).landSf t

/-- A thread in user mode whose context has a handler (10 R225). -/
def handled (s : State) (t : Tid) : Prop := (s.thread t).sys = false ∧ (s.ctxOf t).hbase ≠ 0

/-- The thread has entered its handler (10 R221, R225): cause, address, program counter and region entry saved, system
mode at the handler base, its tokens free, its PACE counts gone. All else stands as it did once the thread's results
under way had landed. -/
def entersHandler (s s' : State) (t : Tid) (c : Cause) (addr : DWord) : Prop :=
  (s'.thread t).trapCause = BitVec.ofNat 32 c.code ∧ (s'.thread t).trapPc = (s.thread t).pc ∧
  (s'.thread t).trapRgn = (s.thread t).region ∧ (s'.thread t).trapAddr = addr ∧
  (s'.thread t).sys = true ∧ (s'.thread t).pc = (s.ctxOf t).hbase ∧ (s'.thread t).wait = .none ∧
  (s'.thread t).tokens = [] ∧ (s'.thread t).pace = [] ∧
  frame (landed s t) s' [t] id id id fun x =>
    { x with trapCause := 0, trapPc := 0, trapRgn := 0, trapAddr := 0, sys := false, tokens := [] }

/-- A region begins at the word after the bundle (10 R222). -/
def regionAfter (s : State) (t : Tid) : State :=
  s.modThread t fun x => { x with region := s.cur.next, rgncnt := x.rgncnt + 1 }

/-- The width, the address register and the address of an access of LD, ST, LDP, STP, LDO and STO (07 R154, R160). -/
def accesses : Instr → Option (Nat × Nat × (State → Tid → DWord))
  | .ldS8 f | .ldB8 f | .stB8 f => some (1, f.a.toNat, fun s t => s.addrA t f 1)
  | .ldS16 f | .ldB16 f | .stB16 f => some (2, f.a.toNat, fun s t => s.addrA t f 2)
  | .ldB32 f | .stB32 f => some (4, f.a.toNat, fun s t => s.addrA t f 4)
  | .ldB64 f | .stB64 f => some (8, f.a.toNat, fun s t => s.addrA t f 8)
  | .ldB128 f | .stB128 f | .ldp f | .stp f => some (16, f.a.toNat, fun s t => s.addrA t f 16)
  | .ldoB16 f | .stoB16 f => some (2, 0, fun s t => s.addrO t f)
  | .ldoB32 f | .stoB32 f => some (4, 0, fun s t => s.addrO t f)
  | _ => none

/-- The width and the exact offset of a scratchpad-offset access (07 R154, R161). -/
def scratchAccesses : Instr → Option (Nat × (State → Tid → Int))
  | .ldsB32 f | .stsB32 f => some (4, fun s t => s.offS t f 4)
  | .ldsB64 f | .stsB64 f => some (8, fun s t => s.offS t f 8)
  | .ldsB128 f | .stsB128 f => some (16, fun s t => s.offS t f 16)
  | _ => none

/-- The trap that an instruction's operands give it before anything else, and its TRAPADDR (01 R21; 05 R115, R119; 06
R149; 07 R156, R161, R178; 08 R192, R205). -/
def operandTrap (s : State) (t : Tid) (i : Instr) : Option (Cause × DWord) :=
  match accesses i with
  | some (n, _, a) =>
    if (a s t).toNat % n ≠ 0 then some (.misaligned, a s t)
    else if placeOf (a s t).toNat = .bad then some (.accessViolation, a s t)
    else if placeOf (a s t).toNat = .scratch ∧ (s.team t.team).scratchSize < (a s t).toNat - windowBase + n then
      some (.accessViolation, a s t)
    else none
  | none => match scratchAccesses i with
    | some (n, off) =>
      let a := BitVec.ofInt 64 (windowBase + off s t)
      if a.toNat % n ≠ 0 then some (.misaligned, a)
      else if off s t < 0 ∨ ((s.team t.team).scratchSize : Int) < off s t + n then some (.accessViolation, a)
      else none
    | none => match i with
      | .calla f | .jmpa f =>
        let a := ((s.thread t).areg f.a.toNat).val
        if a.extractLsb' 0 2 = 0 then none else some (.misaligned, a)
      | .ret _ =>
        let a := ((s.thread t).areg 15).val
        if a.extractLsb' 0 2 = 0 then none else some (.misaligned, a)
      | .wbase f =>
        if 1 ≤ f.imm.toNat ∧ 16 * f.imm.toNat + 112 ≤ (s.team t.team).vregs then none
        else some (.windowRange, BitVec.ofNat 64 (16 * f.imm.toNat))
      | .setsr f =>
        let w := (s.thread t).vreg f.d.toNat
        if f.imm.toNat = 0x2000 ∧ ¬((1 ≤ (w.extractLsb' 0 3).toNat ∧ (w.extractLsb' 0 3).toNat ≤ 5) ∧ w.extractLsb' 6 10 = 0)
        then some (.reservedField, s.cur.opPc) else none
      | .sfrcp f | .sfrsq f | .sfsqrt f | .sfexp2 f | .sflog2 f | .sfsin f | .sfcos f | .sftanh f | .sfsigm f | .sferf f
      | .sfdiv f =>
        if (s.thread t).tokens.any fun k => k.num = f.imm.toNat then some (.tokenMisuse, BitVec.ofNat 64 f.imm.toNat) else none
      | .acqr f => if 1536 ≤ (B s t f).toNat then some (.accessViolation, BitVec.ofNat 64 (B s t f).toNat) else none
      | .ginit f | .gexp f | .garr f | .gwait f | .gtest f =>
        let off := (A s t f).toNat
        if off % 16 ≠ 0 then some (.misaligned, BitVec.ofNat 64 (windowBase + off))
        else if (s.team t.team).scratchSize < off + 16 then some (.accessViolation, BitVec.ofNat 64 (windowBase + off))
        else none
      | .cpy f | .cpyg f | .cpys f | .cpyr f | .emit f =>
        let a := ((s.thread t).areg f.a.toNat).val
        if a.extractLsb' 0 4 = 0 then none else some (.misaligned, a)
      | .fold f =>
        let a := ((s.thread t).areg f.a.toNat).val
        if a.extractLsb' 0 4 = 0 then none else some (.misaligned, a)
      | .jdecl f =>
        let a := ((s.thread t).areg f.a.toNat).val
        if a.extractLsb' 0 7 = 0 then none else some (.misaligned, a)
      | .stdlB32 f => if ((s.thread t).areg f.a.toNat).val.extractLsb' 0 2 = 0 then none
          else some (.misaligned, ((s.thread t).areg f.a.toNat).val)
      | .stdlB64 f => if ((s.thread t).areg f.a.toNat).val.extractLsb' 0 3 = 0 then none
          else some (.misaligned, ((s.thread t).areg f.a.toNat).val)
      | .stdlB128 f => if ((s.thread t).areg f.a.toNat).val.extractLsb' 0 4 = 0 then none
          else some (.misaligned, ((s.thread t).areg f.a.toNat).val)
      | _ => none

/-- The words with operands: every instruction word but PACE, the mapped words and the words never assigned. -/
def ordinary (i : Instr) : Prop := i.isWord = true ∧
  (∀ f, i ≠ .pace f) ∧ (∀ p w, i ≠ .mappedOpcode p w) ∧ (∀ p w, i ≠ .illegalOpcodeWord p w)

/-- The special functions: their fields and their values from the modes, A, D and FPCR (06 R150). Where R150 gives
a bound, the implementation chooses within it, by a free value (log entry 4). -/
def specialFunction : Instr → Option (IF × (Modes → Word → Word → Word → Word))
  | .sfrcp f => some (f, fun m a _ _ => word32 m (divF one32 (decodeF m 0 a.toNat)))
  | .sfrsq f => some (f, fun m a _ c => rsqVal m a c)
  | .sfsqrt f => some (f, fun m a _ _ => word32 m (sqrtF (decodeF m 0 a.toNat)))
  | .sfexp2 f => some (f, fun m a _ c => exp2Val m a c)
  | .sflog2 f => some (f, fun m a _ c => log2Val m a c)
  | .sfsin f => some (f, fun m a _ c => sinVal m a c)
  | .sfcos f => some (f, fun m a _ c => cosVal m a c)
  | .sftanh f => some (f, fun m a _ c => tanhVal m a c)
  | .sfsigm f => some (f, fun m a _ c => sigmVal m a c)
  | .sferf f => some (f, fun m a _ c => erfVal m a c)
  | .sfdiv f => some (f, fun m a d _ => word32 m (divF (decodeF m 0 d.toNat) (decodeF m 0 a.toNat)))
  | _ => none

end Sys2Proof.Claims

/-! ### Convergent instructions with other results -/

/-- R110, R128, R129, R132, R188: RDL writes a uniform register with the vector register of the thread that s[b] names, 0 where
that thread is not governed. BALLOT gives an s pair the mask of the participants whose word is not zero, AGE gives it the
team's stamp; MATCH gives each participant a v pair with the mask of the participants that hold its word. R145, R146, R123:
QENC converts the group's values, a thread outside the participants counting 0, in blocks: the mantissa of each participant
lands in v[a], the block exponents side by side in s[d]. QDEC lands the FP32 value of each participant's mantissa under its
block's exponent in v[d]. R110, R132, R134: RDL and SHFLI with an index at or above the width, and QENC and QDEC with a width
below the block length, trap CONVERGENCE in every participant, with the index or the width in TRAPADDR. Forms whose own
effect completes here: RDL, BALLOT, MATCH, QENC, QDEC, AGE. -/
def Obligations.GroupResultsOfOneThreadOrAll : Prop :=
  ((∀ (f : TF) (s : State) (n g : Nat) (ts : List Tid),
    together s (.rdl f) n g ts → ((s.group n g).sreg f.b.toNat).toNat < (s.team n).width →
    (∀ r, s.pendingReg ⟨n, g, ((s.group n g).sreg f.b.toNat).toNat⟩ (.rdl f) ≠ some r) →
    let k := ((s.group n g).sreg f.b.toNat).toNat
    let x := if ((s.group n g).mask (maskName f.p)).getLsbD k then (s.thread ⟨n, g, k⟩).vreg f.a.toNat else 0
    ∃ s', exec (.rdl f) s = .next s' ∧ onlyRegisters s s' ts ∧
      ∀ t ∈ ts, goesOn s s' t s.cur.next false ∧ holdsS s s' t f.d.toNat x ∧
        underWay s s' t (ts.map fun t => t.thr) (.s f.d.toNat x) (some 4) ∧ noOtherResult s s' t [.s f.d.toNat x]) ∧
  ((∀ (f : TF) (s : State) (n g : Nat) (ts : List Tid), Instr.WellFormed (.ballot f) → together s (.ballot f) n g ts →
    ∃ s' x, exec (.ballot f) s = .next s' ∧ onlyRegisters s s' ts ∧
      isBits x ts (fun t => (s.thread t).vreg f.a.toNat ≠ 0) ∧
      ∀ t ∈ ts, goesOn s s' t s.cur.next false ∧
        holdsS s s' t f.d.toNat (low x) ∧ holdsS s s' t (f.d.toNat + 1) (high x) ∧
        underWay s s' t (ts.map fun t => t.thr) (.s f.d.toNat (low x)) (some 2) ∧
        underWay s s' t (ts.map fun t => t.thr) (.s (f.d.toNat + 1) (high x)) (some 2)) ∧
  (∀ (f : TF) (s : State) (n g : Nat) (ts : List Tid), Instr.WellFormed (.age f) → together s (.age f) n g ts →
    ∃ s', exec (.age f) s = .next s' ∧ onlyRegisters s s' ts ∧
      ∀ t ∈ ts, goesOn s s' t s.cur.next false ∧
        holdsS s s' t f.d.toNat (low (s.team n).age) ∧ holdsS s s' t (f.d.toNat + 1) (high (s.team n).age)) ∧
  (∀ (f : TF) (s : State) (n g : Nat) (ts : List Tid), Instr.WellFormed (.matchOp f) → together s (.matchOp f) n g ts →
    ∃ s', exec (.matchOp f) s = .next s' ∧ onlyRegisters s s' ts ∧
      ∀ t ∈ ts, goesOn s s' t s.cur.next false ∧
        ∃ x, isBits x ts (fun u => (s.thread u).vreg f.a.toNat = (s.thread t).vreg f.a.toNat) ∧
          holdsV s s' t f.d.toNat (low x) ∧ holdsV s s' t (f.d.toNat + 1) (high x)))) ∧
  (((∀ (f : IF) (s : State) (n g : Nat) (t : Tid) (ts : List Tid), Instr.WellFormed (.qenc f) →
    together s (.qenc f) n g (t :: ts) → blockLength f ≤ (s.team n).width → (∃ k, k ≤ 6 ∧ (s.team n).width = 2 ^ k) →
    (∀ u ∈ t :: ts, u.thr < (s.team n).width) →
    let m := M s t f.p
    let value := fun k => decodeF m 0 (supplied s n g (t :: ts) f.a k).toNat
    let block := fun b => encodeBlock m.rm (blockWidth f) ((List.range (blockLength f)).map fun j => value (b * blockLength f + j))
    ∃ s' e, exec (.qenc f) s = .next s' ∧ onlyRegisters s s' (t :: ts) ∧
      (∀ b, b < (s.team n).width / blockLength f → (e.toNat / 256 ^ b) % 256 = (block b).1 % 256) ∧
      ∀ u ∈ t :: ts, goesOn s s' u s.cur.next false ∧ holdsS s s' u f.d.toNat e ∧
        holdsV s s' u f.a.toNat
          (BitVec.ofInt 32 (nthD 0 (block (u.thr / blockLength f)).2 (u.thr % blockLength f)))) ∧
  (∀ (f : IF) (s : State) (n g : Nat) (t : Tid) (ts : List Tid), Instr.WellFormed (.qdec f) →
    together s (.qdec f) n g (t :: ts) → blockLength f ≤ (s.team n).width →
    let m := M s t f.p
    ∃ s', exec (.qdec f) s = .next s' ∧ onlyRegisters s s' (t :: ts) ∧
      ∀ u ∈ t :: ts, goesOn s s' u s.cur.next false ∧
        holdsV s s' u f.d.toNat (BitVec.ofNat 32 (encodeF m false 0 (blockVal (blockWidth f)
          (((s.group n g).sreg f.a.toNat).extractLsb' (8 * (u.thr / blockLength f)) 8).toNat
          (sext (blockWidth f) ((s.thread u).vreg (fourth f.p f.d).toNat).toNat)))))) ∧
  (∀ (i : Instr) (s : State) (n g : Nat) (ts : List Tid) (x : Nat),
    ((∃ f, i = .rdl f ∧ x = ((s.group n g).sreg f.b.toNat).toNat ∧ (s.team n).width ≤ x ∧
        ∀ r, s.pendingReg ⟨n, g, x⟩ i ≠ some r) ∨
      (∃ f, i = .shfli f ∧ ∃ t ∈ ts, x = (B s t f).toNat ∧ (s.team n).width ≤ x ∧
        ∀ u ∈ ts, (s.team n).width ≤ (B s u f).toNat → (B s u f).toNat = x) ∨
      (∃ f, (i = .qenc f ∨ i = .qdec f) ∧ x = (s.team n).width ∧ x < blockLength f)) →
    together s i n g ts → (∀ t ∈ ts, handled s t) →
    ∃ s', exec i s = .next s' ∧ ∀ t ∈ ts,
      (s'.thread t).trapCause = BitVec.ofNat 32 Cause.convergence.code ∧ (s'.thread t).trapAddr = BitVec.ofNat 64 x ∧
      (s'.thread t).trapPc = (s.thread t).pc ∧ (s'.thread t).trapRgn = (s.thread t).region ∧
      (s'.thread t).sys = true ∧ (s'.thread t).pc = (s.ctxOf t).hbase))

/-! ### Who executes -/

/-- R74: a thread whose bit in the governing mask is 0 passes the bundle; under z its destinations receive zero, and
without z it writes nothing. -/
def Obligations.MaskedOffThreadsPass : Prop :=
  ∀ (i : Instr) (s : State) (t : Tid), ordinary i → i.WellFormed → s.cur.threads = [t] → s.decodeTrap t i = none →
    (s.thread t).present = true → s.governed t i = false →
    ∃ s' ends, exec i s = .next s' ∧ onlyRegisters s s' [t] ∧ goesOn s s' t s.cur.next ends ∧
      (zeroing i.pfx = false → noOtherResult s s' t []) ∧
      (zeroing i.pfx = true → (∀ n, Reg.v n ∈ i.writes → holdsV s s' t n 0) ∧ (∀ n, Reg.a n ∈ i.writes → holdsA s s' t n AReg.zero) ∧
        ∀ n, Reg.k n ∈ i.writes → (((s'.landAll t).groupOf t).mask n).getLsbD t.thr = false ∨ n = 0)

/-- R94, R181: the threads of an issue group execute a per-thread bundle one after another. -/
def Obligations.IssueGroupsRunThreadByThread : Prop :=
  ∀ (i : Instr) (s : State) (t : Tid) (ts : List Tid),
    ((vectorResult i).isSome ∨ (wordsResult i).isSome ∨ (bitResult i).isSome ∨ (pointerResult i).isSome ∨ (goesTo i).isSome) →
    s.cur.threads = t :: ts →
    ∃ s1 s2, exec i { s with cur := { s.cur with threads := [t] } } = .next s1 ∧
      exec i { s1 with cur := { s1.cur with threads := ts } } = .next s2 ∧
      exec i s = .next { s2 with cur := s.cur }

/-! ### Control -/

/-- R114, R115, R67: branches go to the word they name where their condition holds, jumps to the address in the register; a call
writes the address of the next word to a15, its shadow clear. Forms whose own effect completes here: BRA, BRK, BRZ, BRNZ,
CALL, CALLA, JMPA, RET. -/
def Obligations.BranchesAndCallsGoToTheirTargets : Prop :=
  ∀ (i : Instr) (s : State) (t : Tid) (link reg : Bool) (target : State → Tid → DWord),
    goesTo i = some (link, reg, target) → alone s i t → (reg = true → aligned4 (target s t)) →
    ∃ s', exec i s = .next s' ∧ onlyRegisters s s' [t] ∧ goesOn s s' t (target s t) true ∧
      (if link then holdsA s s' t 15 ⟨s.cur.next, Tether.clear⟩ ∧
          underWay s s' t [t.thr] (.a t.thr 15 ⟨s.cur.next, Tether.clear⟩) (some 4) ∧
          noOtherResult s s' t [.a t.thr 15 ⟨s.cur.next, Tether.clear⟩]
        else noOtherResult s s' t [])

/-- R116, R187: EXIT ends its thread and no other; while another thread of the team is present and the task need not end here,
the team stays. The last thread of a group releases its uniform and mask registers. When the last thread of a team exits, its
task ended and no copy or job of it under way, the team ends. R117, R118: a sleeping thread is not ready for 16 cycles for
each unit of imm8, a yielding one for 8 cycles unless an entry other than its own issues; the expiry is due, and ends the
wait. R122, R329, R331: under a pre-emption request PHINT completes and its thread stops: with the liveness record below its
team's entry where that can be read and is well formed, fully otherwise; a translation or access fault of the record gives
the whole team a full save (log entry 74). Forms whose own effect completes here: EXIT, YIELD, PHINT, SLEEP, SLEEP_EXPIRY,
YIELD_EXPIRY. -/
def Obligations.ThreadsEndSleepYieldAndStop : Prop :=
  ((∀ (f : TF) (s : State) (t u : Tid), alone s (.exit f) t → u ≠ t →
    u ∈ s.tids t.team →
    ((s.team t.team).taskEnded = true ∨ ∃ v ∈ s.tids t.team, v ≠ t ∧ (s.thread v).wait ≠ .taskEnd) →
    ∃ s', exec (.exit f) s = .next s' ∧ s'.thread t = Thread.none ∧ s'.mem = s.mem ∧
      (∀ v, v ≠ t → s'.thread v = s.thread v ∨ v.team = t.team ∧ v.grp = t.grp ∧ ∃ p a, s'.thread v = { s.thread v with v := p, a := a }) ∧
      (s'.team t.team).status = (s.team t.team).status ∧
      ((∀ j, (⟨t.team, t.grp, j⟩ : Tid) ≠ t → (s.thread ⟨t.team, t.grp, j⟩).present = false) →
        (s'.groupOf t).s = [] ∧ (s'.groupOf t).k = [] ∧ (s'.groupOf t).pend = [])) ∧
  (∀ (f : TF) (s : State) (t : Tid), alone s (.exit f) t → s.tids t.team = [t] → (s.team t.team).taskEnded = true →
    (s.team t.team).status = .resident → s.workLeft t.team = false → (s.team t.team).request = none →
    ∃ s', exec (.exit f) s = .next s' ∧ (s'.team t.team).status = .ended)) ∧
  (((∀ (i : Instr) (s : State) (t : Tid) (d til : Nat) (ev : Instr),
    ((∃ f, i = .sleep f ∧ f.imm ≠ 0 ∧ d = 1 + 16 * f.imm.toNat ∧ ev = .sleepExpiry) ∨ (∃ f, i = .yield f ∧ d = 8 ∧ ev = .yieldExpiry)) →
    til = s.cycle + d → (s.team t.team).request = none → alone s i t →
    ∃ s', exec i s = .next s' ∧ onlyRegisters s s' [t] ∧ (s'.thread t).pc = s.cur.next ∧ (s'.thread t).pace = (s.thread t).pace.tail ∧
      (s'.thread t).wait = (if ev = .sleepExpiry then .sleep til else .yield til) ∧
      s'.waitOver t = false ∧ noOtherResult s s' t [] ∧
      (⟨til, ev, { t.arg with len := til }⟩ : Due) ∈ s'.agenda) ∧
  (∀ (s : State) (t : Tid) (til : Nat), s.arg = { t.arg with len := til } → (s.thread t).present = true →
    ((s.thread t).wait = .sleep til → ∃ s', exec .sleepExpiry s = .next s' ∧ (s'.thread t).wait = .none ∧
      onlyRegisters s s' [t] ∧ (s'.thread t).pc = (s.thread t).pc) ∧
    ((s.thread t).wait = .yield til → ∃ s', exec .yieldExpiry s = .next s' ∧ (s'.thread t).wait = .none ∧
      onlyRegisters s s' [t] ∧ (s'.thread t).pc = (s.thread t).pc))) ∧
  (∀ (f : LF) (s : State) (t : Tid) (c : Nat), alone s (.phint f) t → (s.team t.team).request = some c →
    let record := s.readRecord t ((s.team t.team).entry - BitVec.ofNat 64 (64 * (f.imm.toNat + 1))) 16
    let stop := match record with
      | .ok u b => if State.recordOk (BitVec.ofNat 512 (leNat b)) && !(u.team t.team).fullSave then Stop.phint (BitVec.ofNat 512 (leNat b))
        else .full
      | _ => .full
    (∀ u w, record ≠ .hold u w) →
    ∃ s', exec (.phint f) s = .next s' ∧ (s'.thread t).stop = some stop ∧ goesOn s s' t s.cur.next false ∧
      (∀ u r, record = .fault u r → r.cause = .translation ∨ r.cause = .accessViolation → (s'.team t.team).fullSave = true) ∧
      ∃ at_, (⟨at_, .teamSave, { team := t.team }⟩ : Due) ∈ s'.agenda))

/-- R117, R118, R119, R121, R122, R151, R206, R19: NOP, SLEEP 0 and PHINT without a request have no effect; WBASE sets the window
base; RGN begins a region at itself; SFWAIT frees landed tokens; SETSR writes its register. R79, R80, R68: a PACE word sets
the stall counts of the thread's next seven bundles and leaves its place in the order of issue. Forms whose own effect
completes here: NOP, WBASE, RGN, PHINT, SLEEP, SFWAIT, SETSR, PACE. -/
def Obligations.InstructionsThatActAtOnce : Prop :=
  (∀ (i : Instr) (s : State) (t : Tid) (w : Thread → Thread) (v : Team → Team),
    atOnce s t i = some (w, v) → alone s i t →
    ∃ s', exec i s = .next s' ∧ frame s s' [t] id id (fun _ => Team.none) (fun _ => Thread.none) ∧
      bare (s'.thread t) = bare (w (s.thread t)) ∧
      (∀ n, { s'.team n with groups := [] } = if n = t.team then v { s.team n with groups := [] } else { s.team n with groups := [] }) ∧
      goesOn s s' t s.cur.next false ∧ noOtherResult s s' t []) ∧
  (∀ (f : PaceF) (s : State) (t : Tid), s.cur.threads = [t] → (s.thread t).present = true →
    ∃ s', exec (.pace f) s = .next s' ∧ onlyRegisters s s' [t] ∧ (s'.thread t).pc = s.cur.next ∧
      (s'.thread t).pace = [f.c0.toNat, f.c1.toNat, f.c2.toNat, f.c3.toNat, f.c4.toNat, f.c5.toNat, f.c6.toNat] ∧
      (s'.thread t).stamp = (s.thread t).stamp ∧ (s'.thread t).since = (s.thread t).since ∧ noOtherResult s s' t [])

/-! ### Traps -/

/-- R205, R221, R225: TRAP and EBRK begin a region at the next word and take SOFTWARE with the code, or BREAKPOINT; in user mode
under a handler base the thread enters the handler. R205, R226, R87: RTE in system mode lands the thread's results and
returns it to user mode at TRAPRGN. Forms whose own effect completes here: TRAP, EBRK, RTE. -/
def Obligations.HandlersAreEnteredAndLeft : Prop :=
  ((∀ (f : LF) (s : State) (t : Tid), alone s (.trap f) t → handled s t →
    ∃ s', exec (.trap f) s = .next s' ∧ entersHandler (regionAfter s t) s' t .software (f.imm.zeroExtend 64)) ∧
  (∀ (f : TF) (s : State) (t : Tid), alone s (.ebrk f) t → handled s t →
    ∃ s', exec (.ebrk f) s = .next s' ∧ entersHandler (regionAfter s t) s' t .breakpoint 0)) ∧
  (∀ (f : TF) (s : State) (t : Tid), alone s (.rte f) t → aligned4 (s.thread t).trapRgn →
    ∃ s', exec (.rte f) s = .next s' ∧ (s'.thread t).pc = (s.thread t).trapRgn ∧ (s'.thread t).sys = false ∧
      (s'.thread t).pace = [] ∧ (s'.thread t).wait = .none ∧
      frame (s.landAll t) s' [t] id id id fun x => { x with sys := false })

/-- R16, R205, R206, R86, R93: a bundle that needs system mode traps PRIVILEGE in user mode with the number of its register, 0
for RTE; under CHKSB a bundle that reads a register too early traps UNDERSIZED_STALL. Both come before the governing mask is
looked at, and before any effect. R149: a bundle whose thread takes part and that reads or writes a register bound to a
pending token traps PENDING_READ with the register's code. R67, R119, R21, R149, R156, R161, R178, R192, R194, R205: traps
that operands give: misaligned targets, accesses, descriptors and gates, addresses outside every region, offsets beyond the
scratchpad, a window out of range, a reserved rounding mode, a token in use, a core number that does not exist. R89, R90: a
word whose opcode is never assigned traps ILLEGAL_OPCODE at its address. A mapped word acts by its table entry as the team
read it: with ACT 1 as the target's word would, with ACT 2 it traps EMULATE with the word itself, and otherwise
ILLEGAL_OPCODE. Of its clauses, these are the model's choices: PENDING_READ for an integer instruction too, and never for v0
(log entry 72), and which undersized source UNDERSIZED_STALL names (log entry 71). Forms whose own effect completes here:
MAPPED_OPCODE, ILLEGAL_OPCODE_WORD. -/
def Obligations.DecodeAndOperandTraps : Prop :=
  ((∀ (i : Instr) (s : State) (t : Tid) (c : Cause) (addr : DWord), ordinary i → s.cur.threads = [t] →
    (s.thread t).present = true → handled s t →
    ((c = .privilege ∧ ((∃ f, i = .rte f ∧ addr = 0) ∨
        (∃ f, i = .getsr f ∧ 0x3000 ≤ f.imm.toNat ∧ f.imm.toNat ≤ 0x3003 ∧ addr = f.imm.zeroExtend 64) ∨
        (∃ f, i = .setsr f ∧ (f.imm.toNat = 0x2003 ∨ 0x3000 ≤ f.imm.toNat ∧ f.imm.toNat ≤ 0x3003) ∧ addr = f.imm.zeroExtend 64))) ∨
      (c = .undersizedStall ∧ s.privileged t i = none ∧ ∃ r, s.undersized t i = some r ∧ addr = State.regCode r)) →
    ∃ s', exec i s = .next s' ∧ entersHandler s s' t c addr) ∧
  (∀ (i : Instr) (s : State) (t : Tid) (r : Reg), ordinary i → (∀ f, i ≠ .rdl f) → s.cur.threads = [t] →
    s.decodeTrap t i = none → s.governed t i = true → s.pendingReg t i = some r → handled s t →
    ∃ s', exec i s = .next s' ∧ entersHandler s s' t .pendingRead (State.regCode r))) ∧
  (∀ (i : Instr) (s : State) (t : Tid) (c : Cause) (addr : DWord),
    operandTrap s t i = some (c, addr) → alone s i t → handled s t →
    ∃ s', exec i s = .next s' ∧ entersHandler s s' t c addr) ∧
  ((∀ (p : Pfx) (w : Word) (s : State) (t : Tid), s.cur.threads = [t] → (s.thread t).present = true → handled s t →
    ∃ s', exec (.illegalOpcodeWord p w) s = .next s' ∧ entersHandler s s' t .illegalOpcode s.cur.opPc) ∧
  (∀ (p : Pfx) (w : Word) (s : State) (t : Tid), s.cur.threads = [t] → (s.thread t).present = true →
    match mappedBy (s.tableEntry t.team w) p w with
    | .target (.ok i) => ordinary i → exec (.mappedOpcode p w) s = exec i s
    | .emulate => handled s t → ∃ s', exec (.mappedOpcode p w) s = .next s' ∧ entersHandler s s' t .emulate (w.zeroExtend 64)
    | .illegal => handled s t → ∃ s', exec (.mappedOpcode p w) s = .next s' ∧ entersHandler s s' t .illegalOpcode s.cur.opPc
    | _ => True))

/-- R148, R149, R222: a special function takes an entry of its group's queue and binds its token: the value is that of the
sources and FPCR as read now, due within 4,096 cycles (log entry 3); a region begins after it. Forms whose own effect
completes here: SFRCP, SFRSQ, SFSQRT, SFEXP2, SFLOG2, SFSIN, SFCOS, SFTANH, SFSIGM, SFERF, SFDIV. -/
def Obligations.SpecialFunctionsAreQueued : Prop :=
  ∀ (i : Instr) (f : IF) (s : State) (t : Tid) (val : Modes → Word → Word → Word → Word),
    specialFunction i = some (f, val) → alone s i t → (∀ k ∈ (s.thread t).tokens, k.num ≠ f.imm.toNat) →
    ((s.core (s.coreNum t)).sfq.filter fun e => e.q = t.grp % 4).length < 16 →
    let phys : Nat := physOf (s.thread t).base f.d.toNat
    let x : Word := val (M s t f.p) ((s.thread t).vreg f.a.toNat) ((s.thread t).vreg (fourth f.p f.d).toNat) (s.thread t).fpcr
    ∃ s' n at_, exec i s = .next s' ∧
      (s'.core (s.coreNum t)).sfq = (s.core (s.coreNum t)).sfq ++ [⟨n, t.grp % 4, t, f.imm.toNat, phys, x⟩] ∧
      (s'.thread t).tokens = (s.thread t).tokens ++ [⟨f.imm.toNat, phys, false⟩] ∧
      (s'.thread t).region = s.cur.next ∧ (s'.thread t).rgncnt = (s.thread t).rgncnt + 1 ∧
      goesOn s s' t s.cur.next false ∧ noOtherResult s s' t [] ∧
      s.cycle < at_ ∧ at_ ≤ s.cycle + 4096 ∧ (⟨at_, .sfResult, { core := s.coreNum t, id := n }⟩ : Due) ∈ s'.agenda ∧
      frame s s' [t] id (fun k => { k with sfq := [] }) id fun x => { x with tokens := [], region := 0, rgncnt := 0 }

/-- R225, R228, R414: a cause in system mode, or with no handler base, is reported where a permit is free: the record stands in
the ring, message 1 is sent, and the team is halted. R228, R229: a page request takes one of the core's permits and is on its
way to the queue; with no permit the thread backs off. The delay of a message is a free value (log entry 3). That the record,
the vector and the halt come in the same step as the permit is log entry 29. -/
def Obligations.ReportsAndPageRequestsTakePermits : Prop :=
  (∀ (s : State) (t : Tid) (c : Cause) (addr : DWord),
    c.isPage = false → ((s.thread t).sys = true ∨ (s.ctxOf t).hbase = 0) → (s.thread t).present = true →
    (s.core (s.coreNum t)).permits ≠ 0 →
    (∀ j, j < 64 → s.partAt (s.mgmt.srRing.toNat + 64 * (s.mgmt.srN.toNat % 1024) + j) = none) →
    let ring := s.mgmt.srRing.toNat + 64 * (s.mgmt.srN.toNat % 1024)
    let s' := s.takeTrap t (Request.of c addr)
    (∀ j, j < 64 → s'.mem.get (ring + j) = nthD 0 (leBytes 64 (fields [(448, (s.thread t).pc.toNat), (384, (s.thread t).region.toNat),
      (320, addr.toNat), (256, s.mgmt.srN.toNat), (192, s.time.sixths / 6), (160, (s.team t.team).idTeam.toNat),
      (140, (s.team t.team).handle.toNat), (128, (s.team t.team).ctx), (112, (s.team t.team).core), (106, t.grp), (100, t.thr),
      (64, c.code), (0, (s.team t.team).record.toNat)])) j) ∧
    (∀ k, (∀ j, j < 64 → k ≠ ring + j) → s'.mem.get k = s.mem.get k) ∧
    s'.mgmt.srN = s.mgmt.srN + 1 ∧ s'.host.msix = 1 :: s.host.msix ∧ (s'.team t.team).halted = true ∧
    (s'.thread t).reported = true ∧ (s'.thread t).pc = (s.thread t).pc ∧ (s'.thread t).wait = .none) ∧
  (∀ (s : State) (t : Tid) (r : Request), r.cause.isPage = true → (s.thread t).present = true →
    let s' := s.takeTrap t r
    (if (s.core (s.coreNum t)).permits = 0 then
      (s'.thread t).backoff = min 16384 (2 * (s.thread t).backoff) ∧ (s'.thread t).wait = .backoff (s.cycle + (s.thread t).backoff)
    else (s'.core (s.coreNum t)).permits = (s.core (s.coreNum t)).permits - 1 ∧ (s'.thread t).wait = .request r ∧
      ∃ at_, s.cycle < at_ ∧ at_ ≤ s.cycle + 2046 ∧
        (⟨at_, .pageRequestArrival, { t.arg with core := s.coreNum t }⟩ : Due) ∈ s'.agenda) ∧
    (s'.thread t).pc = (s.thread t).pc ∧ s'.mem = s.mem)

namespace Sys2Proof.Claims

open Sys2Proof.Machine

/-! ### Loads, stores and atomics -/

/-- The destination of a load, whether it extends the sign, and its prefixes (07 R160). -/
def loads : Instr → Option (Field × Bool × Pfx)
  | .ldS8 f | .ldS16 f => some (f.d, true, f.p)
  | .ldB8 f | .ldB16 f | .ldB32 f | .ldB64 f | .ldB128 f => some (f.d, false, f.p)
  | .ldoB16 f | .ldoB32 f => some (f.d, false, f.p)
  | _ => none

/-- The line is read-only, or the next to be replaced (04 R72). -/
def readOnly (p : Pfx) : Bool := match p.x with
  | some x => x.ro
  | none => false
def nonTemporal (p : Pfx) : Bool := match p.x with
  | some x => x.nt
  | none => false

/-- The words of loaded bytes (02 R25, 07 R160): one word, sign-extended or zero-extended, or the two of a pair or the four
of a quad. -/
def loadedWords (signed : Bool) (b : List Byte) : List Word :=
  if b.length = 8 then words2 (BitVec.ofNat 64 (leNat b))
  else if b.length = 16 then words4 (BitVec.ofNat 128 (leNat b))
  else if signed ∧ 2 ^ (8 * b.length) ≤ 2 * leNat b then [BitVec.ofInt 32 ((leNat b : Int) - 2 ^ (8 * b.length))]
  else [BitVec.ofNat 32 (leNat b)]

/-- The bytes that a store stores (07 R160, R165). -/
def storedBytes : Instr → Option (State → Tid → List Byte)
  | .stB8 f => some fun s t => leBytes 1 ((s.thread t).vreg f.d.toNat).toNat
  | .stB16 f => some fun s t => leBytes 2 ((s.thread t).vreg f.d.toNat).toNat
  | .stB32 f => some fun s t => leBytes 4 ((s.thread t).vreg f.d.toNat).toNat
  | .stB64 f => some fun s t => leBytes 8 ((s.thread t).vpair f.d.toNat).toNat
  | .stB128 f => some fun s t => leBytes 16 ((s.thread t).vquad f.d.toNat).toNat
  | .stoB16 f => some fun s t => leBytes 2 ((s.thread t).vreg f.d.toNat).toNat
  | .stoB32 f => some fun s t => leBytes 4 ((s.thread t).vreg f.d.toNat).toNat
  | .stsB32 f => some fun s t => leBytes 4 ((s.thread t).vreg f.d.toNat).toNat
  | .stsB64 f => some fun s t => leBytes 8 ((s.thread t).vpair f.d.toNat).toNat
  | .stsB128 f => some fun s t => leBytes 16 ((s.thread t).vquad f.d.toNat).toNat
  | .stp f => some fun s t => leBytes 16 ((s.thread t).areg f.d.toNat).brand.toNat
  | _ => none

/-- The address lies in the team's scratchpad (07 R156). -/
def inScratchpad (s : State) (t : Tid) (a : DWord) (n : Nat) : Prop :=
  a.toNat % n = 0 ∧ windowBase ≤ a.toNat ∧ a.toNat - windowBase + n ≤ 0x200000 ∧
  a.toNat - windowBase + n ≤ (s.team t.team).scratchSize

/-- The scratchpad of team `m` with the bytes at an offset, and nothing else of it changed. -/
def scratchpadWith (m m' : Team) (off : Nat) (b : List Byte) : Prop :=
  (∀ j, j < b.length → m'.scratch.get (off + j) = nthD 0 b j) ∧
  (∀ k, k < off ∨ off + b.length ≤ k → m'.scratch.get k = m.scratch.get k)

/-- An access leads to a location in device or pool memory (07 R156 to R158): through a register without a tether or with a
current one, under a leaf without copy-on-write; the team has no fold and no tentative line; nothing is wrong with the location. -/
def reaches (s : State) (t : Tid) (reg : Nat) (a : DWord) (n : Nat) (need : Need) (poison : Bool) (p : Phys) : Prop :=
  (((s.thread t).areg reg).sh.v = false ∨ (s.tetherCurrent (s.team t.team).ctx ((s.thread t).areg reg)).isSome) ∧
  (∃ leaf, (s.locate t reg a n need).2 = .mem p leaf a ∧ ∀ e, leaf = some e → pteCow e.pte = false) ∧
  p.tgt ≤ 1 ∧ p.key % n = 0 ∧ n ∣ 128 ∧ (s.team t.team).folds = [] ∧ (∀ x ∈ s.home.shadows, x.team ≠ t.team) ∧
  (∀ k, (s.thread t).wait ≠ .claim k) ∧
  s.lateFault p a poison = none

/-- A byte of device or pool memory as a load of threads of a team sees it, `t` being the first of them (08 R185, 11 R238, R239,
R244): its task's tentative byte; otherwise their own buffered store, its core's L1, its cluster's private copy, or the home. -/
def seen (s : State) (t : Tid) (own : List Tid) (key : Nat) : Byte :=
  let m := s.team t.team
  if s.holds t.team (granOf key) then s.shadowByte t.team key (s.mem.get key)
  else s.shadowByte t.team key <| match s.sbByte? own m.core key with
    | some b => b
    | none => match (s.core m.core).l1.find? fun x => x.line = lineOf key && x.ctx = m.ctx with
      | some x => lineByte x.data (key % 128)
      | none => match s.priv? m.cluster (lineOf key) with
        | some q => lineByte q.data (key % 128)
        | none => s.mem.get key

/-- What accesses change beside what they are for: cached translations, L1 lines, request counts at a home. -/
def withoutCaches (s : State) : State := { s with dieTlb := [], home := { s.home with fwd := [], l2 := [] } }
def withoutLines (k : Core) : Core := { k with l1 := [], fills := [], tlb := [] }

/-- The home of a line would perform a write of it now (11 R241, R246, R247): none is in progress there, no request for it
has been refused, and no core but the writer is recorded with a given copy. -/
def quietLine (s : State) (writer : Option Nat) (line : Nat) : Prop :=
  (∀ x ∈ s.home.txns, x.line ≠ line) ∧ (∀ r ∈ s.home.refused, r.line ≠ line) ∧
  ∀ r, s.region? (line * 128) = some r → ∀ c ∈ r.given, some c = writer

/-- No store of a thread to a line stands in its core's store buffer. -/
def noOwnStores (s : State) (t : Tid) (line : Nat) : Prop := ∀ e ∈ (s.core (s.coreNum t)).sb, e.line ≠ line

/-- The atomics: 64-bit or not, what they compute from the old value, B and C, how a host window performs them (07 R174,
23 R358). -/
def atomics : Instr → Option (TF × Bool × AtomFn × HostForm)
  | .aadd f => some (f, false, on32 fun o b _ => o + b, .add)
  | .aaddB64 f => some (f, true, fun o b _ => o + b, .add)
  | .amins f => some (f, false, on32 fun o b _ => if o.toInt ≤ b.toInt then o else b, .none)
  | .aminsB64 f => some (f, true, fun o b _ => if o.toInt ≤ b.toInt then o else b, .none)
  | .aminn f => some (f, false, on32 fun o b _ => if o.toNat ≤ b.toNat then o else b, .none)
  | .aminnB64 f => some (f, true, fun o b _ => if o.toNat ≤ b.toNat then o else b, .none)
  | .amaxs f => some (f, false, on32 fun o b _ => if o.toInt ≤ b.toInt then b else o, .none)
  | .amaxsB64 f => some (f, true, fun o b _ => if o.toInt ≤ b.toInt then b else o, .none)
  | .amaxn f => some (f, false, on32 fun o b _ => if o.toNat ≤ b.toNat then b else o, .none)
  | .amaxnB64 f => some (f, true, fun o b _ => if o.toNat ≤ b.toNat then b else o, .none)
  | .aand f => some (f, false, on32 fun o b _ => o &&& b, .none)
  | .aandB64 f => some (f, true, fun o b _ => o &&& b, .none)
  | .aor f => some (f, false, on32 fun o b _ => o ||| b, .none)
  | .aorB64 f => some (f, true, fun o b _ => o ||| b, .none)
  | .axor f => some (f, false, on32 fun o b _ => o ^^^ b, .none)
  | .axorB64 f => some (f, true, fun o b _ => o ^^^ b, .none)
  | .axchg f => some (f, false, on32 fun _ b _ => b, .swap)
  | .axchgB64 f => some (f, true, fun _ b _ => b, .swap)
  | .acas f => some (f, false, on32 fun o b c => if o = c then b else o, .cas)
  | .acasB64 f => some (f, true, fun o b c => if o = c then b else o, .cas)
  | .afadd f => some (f, false, on32 fun o b _ =>
      BitVec.ofNat 32 (binF (Modes.plain 1) false 0 (addF 1) o.toNat b.toNat), .none)
  | .aincw f => some (f, false, on32 fun o b _ => if b.toNat ≤ o.toNat then 0 else o + 1, .none)
  | _ => none

/-- The delivering stores: their fields and width (07 R169). -/
def deliveries : Instr → Option (TF × Nat)
  | .stdlB32 f => some (f, 4)
  | .stdlB64 f => some (f, 8)
  | .stdlB128 f => some (f, 16)
  | _ => none

/-- The scope that a bundle names; device where it names none (04 R72): 1 group, 2 team, 3 cluster, 4 device, 5 system. -/
def scopeName (p : Pfx) : Nat := match p.x with
  | some x => if x.rm = 0 then 4 else x.rm.toNat
  | none => 4

/-- What an access of an instruction comes to before the instruction completes: the state with the bytes read. -/
def access (s : State) (t : Tid) (i : Instr) : Option MemRes :=
  match accesses i with
  | some (n, reg, a) => match loads i, storedBytes i with
    | some (_, _, p), _ => some (s.load t [t] reg (a s t) n (readOnly p) (nonTemporal p))
    | none, some b => match s.store t reg (a s t) (b s t) (nonTemporal i.pfx) with
      | .ok s => some (.ok s [])
      | .hold s w => some (.hold s w)
      | .fault s r => some (.fault s r)
    | none, none => none
  | none => match atomics i, deliveries i with
    | some (f, w64, fn, form), _ => some (s.atomic t i fun s u => s.atomOf u f w64 fn form i.opcode)
    | none, some (f, n) => match s.deliverStore t i f.a.toNat ((s.groupOf t).sreg f.b.toNat) (s.storeSrc t f.d.toNat n) with
      | .ok s => some (.ok s [])
      | .hold s w => some (.hold s w)
      | .fault s r => some (.fault s r)
    | none, none => none

end Sys2Proof.Claims

/-! ### Memory -/

/-- R94, R154, R158, R184, R225: a load, store, delivering store or atomic whose access must wait leaves its thread at the
bundle, with the wait; one whose access faults traps before its bundle. -/
def Obligations.AccessesThatDoNotComplete : Prop :=
  ∀ (i : Instr) (s s1 : State) (t : Tid), alone s i t →
    (∀ w, access s t i = some (.hold s1 w) → (s1.team t.team).request = none → (s1.thread t).present = true →
      ∃ s', exec i s = .next s' ∧ (s'.thread t).wait = w ∧ onlyRegisters s1 s' [t] ∧
        (s'.thread t).pc = (s1.thread t).pc ∧ noOtherResult s1 s' t []) ∧
    (∀ r, access s t i = some (.fault s1 r) → r.cause.isPage = false → r.cause ≠ .watchdog → handled s1 t → (s1.thread t).present = true →
      ∃ s', exec i s = .next s' ∧ entersHandler s1 s' t r.cause r.addr)

/-- R156, R160, R161, R25: an access in the scratchpad window reads and writes the team's own scratchpad, byte for byte, at once;
a write waits while a byte of it is lent (R199). No other byte, and no byte of memory, changes. R154, R160, R161: LDS and STS
use the exact offset of v[a] and the scaled immediate. Forms whose own effect completes here: LDS_B32, LDS_B64, LDS_B128,
STS_B32, STS_B64, STS_B128. -/
def Obligations.ScratchpadAccessesComplete : Prop :=
  (∀ (s : State) (t : Tid) (own : List Tid) (reg n : Nat) (a : DWord) (ro nt : Bool), n ∣ 16 → inScratchpad s t a n → s.answered t = none →
    let off := a.toNat - windowBase
    (∃ b, s.load t own reg a n ro nt = .ok s b ∧ b.length = n ∧ ∀ j, j < n → nthD 0 b j = (s.team t.team).scratch.get (off + j)) ∧
    (∀ b, b.length = n → if s.isLent t.team off n then ∃ w, s.store t reg a b nt = .hold s w
      else ∃ s1, s.store t reg a b nt = .ok s1 ∧ frame s s1 [] id id (fun m => { m with scratch := [] }) id ∧
        (t.team < s.teams.length → scratchpadWith (s.team t.team) (s1.team t.team) off b) ∧
        ∀ m, m ≠ t.team → (s1.team m).scratch = (s.team m).scratch)) ∧
  (∀ (i : Instr) (s : State) (t : Tid) (n : Nat) (off : State → Tid → Int),
    scratchAccesses i = some (n, off) → i.WellFormed → alone s i t → 0 ≤ off s t → (off s t).toNat % n = 0 →
    off s t + n ≤ ((s.team t.team).scratchSize : Int) → (s.team t.team).scratchSize ≤ 0x200000 →
    match storedBytes i with
    | some b => if s.isLent t.team (off s t).toNat n then
          ∃ s' w, exec i s = .next s' ∧ (s'.thread t).wait = w ∧ w ≠ .none ∧ (s'.thread t).pc = (s.thread t).pc ∧ s'.mem = s.mem
        else ∃ s', exec i s = .next s' ∧ frame s s' [t] id id (fun m => { m with scratch := [] }) id ∧
          goesOn s s' t s.cur.next false ∧ noOtherResult s s' t [] ∧
          scratchpadWith (s.team t.team) (s'.team t.team) (off s t).toNat (b s t) ∧
          ∀ m, m ≠ t.team → (s'.team m).scratch = (s.team m).scratch
    | none => ∃ s' d b, exec i s = .next s' ∧ onlyRegisters s s' [t] ∧ goesOn s s' t s.cur.next false ∧
        (∃ f, (i = .ldsB32 f ∨ i = .ldsB64 f ∨ i = .ldsB128 f) ∧ d = f.d) ∧ b.length = n ∧
        (∀ j, j < n → nthD 0 b j = (s.team t.team).scratch.get ((off s t).toNat + j)) ∧
        ∀ j x, (loadedWords false b)[j]? = some x → holdsV s s' t (d.toNat + j) x ∧
          underWay s s' t [t.thr] (.v t.thr (physOf (s.thread t).base (d.toNat + j)) x) none)

/-- R158, R159, R160, R238, R239, R257: a load from device or pool memory reads each byte as its threads see it, and changes
nothing but caches. R159, R160, R239, R185: a store to device or pool memory that no task holds enters the store buffer: its
thread sees the bytes at once, and memory keeps its bytes until the entry drains. The buffer has an entry free or the line's
own, and the entry is not filled. -/
def Obligations.LoadsReadAndStoresAreBuffered : Prop :=
  (∀ (s : State) (t : Tid) (own : List Tid) (reg n : Nat) (a : DWord) (ro nt : Bool) (p : Phys), reaches s t reg a n Need.load true p →
    s.answered t = none → (∀ c, s.claimOf (granOf p.key) = some c → c.committing = true → c.team = t.team) →
    ∃ s1 b, s.load t own reg a n ro nt = .ok s1 b ∧ b.length = n ∧ (∀ j, j < n → nthD 0 b j = seen s t own (p.key + j)) ∧
      frame s s1 [] withoutCaches withoutLines id id) ∧
  (∀ (s : State) (t : Tid) (reg : Nat) (a : DWord) (b : List Byte) (nt : Bool) (p : Phys), reaches s t reg a b.length Need.store false p →
    0 < b.length → b.length ≤ 16 → s.claimOf (granOf p.key) = none → (s.core (s.coreNum t)).sb.length < 16 →
    (∀ e ∈ (s.core (s.coreNum t)).sb, e.line = lineOf p.key → e.bytes.length + b.length < 128) →
    ∃ s1, s.store t reg a b nt = .ok s1 ∧ frame s s1 [] withoutCaches (fun k => { k with sb := [], tlb := [] }) id id ∧
      s1.mem = s.mem ∧ (∀ j, j < b.length → seen s1 t [t] (p.key + j) = nthD 0 b j) ∧
      (∀ k, k < p.key ∨ p.key + b.length ≤ k → seen s1 t [t] k = seen s t [t] k))

/-- R154, R160, R25, R85: a load whose access is made, in the state `s1`, lands its bytes in v[d] at a variable latency: a word
extended by its sign or by zeros, a pair, a quad. R154, R160, R165, R169, R222: a store whose access is made completes and
writes no register; a delivering store begins a region after itself. Forms whose own effect completes here: LD_S8, LD_B8,
LD_S16, LD_B16, LD_B32, LD_B64, LD_B128, ST_B8, ST_B16, ST_B32, ST_B64, ST_B128, LDO_B16, LDO_B32, STO_B16, STO_B32, STP,
STDL_B32, STDL_B64, STDL_B128. -/
def Obligations.LoadsAndStoresComplete : Prop :=
  (∀ (i : Instr) (s s1 : State) (t : Tid) (d : Field) (sg : Bool) (p : Pfx) (b : List Byte),
    loads i = some (d, sg, p) → i.WellFormed → alone s i t → access s t i = some (.ok s1 b) → (s1.thread t).present = true →
    ∃ s', exec i s = .next s' ∧ onlyRegisters s1 s' [t] ∧ goesOn s1 s' t s1.cur.next false ∧
      ∀ j x, (loadedWords sg b)[j]? = some x → holdsV s1 s' t (d.toNat + j) x ∧
        underWay s1 s' t [t.thr] (.v t.thr (physOf (s1.thread t).base (d.toNat + j)) x) none) ∧
  ((∀ (i : Instr) (s s1 : State) (t : Tid) (b : State → Tid → List Byte) (e : List Byte),
    storedBytes i = some b → (accesses i).isSome → alone s i t → access s t i = some (.ok s1 e) → (s1.thread t).present = true →
    ∃ s', exec i s = .next s' ∧ onlyRegisters s1 s' [t] ∧ goesOn s1 s' t s1.cur.next false ∧ noOtherResult s1 s' t []) ∧
  (∀ (i : Instr) (f : TF) (n : Nat) (s s1 : State) (t : Tid) (e : List Byte), deliveries i = some (f, n) → alone s i t →
    access s t i = some (.ok s1 e) → (s1.thread t).present = true →
    ∃ s', exec i s = .next s' ∧ goesOn s1 s' t s1.cur.next false ∧ noOtherResult s1 s' t [] ∧
      (s'.thread t).region = s1.cur.next ∧ (s'.thread t).rgncnt = (s1.thread t).rgncnt + 1 ∧
      frame s1 s' [t] id id id fun x => { x with region := 0, rgncnt := 0 }))

/-- R162: LDU loads four bytes once for the group, from the uniform pair plus the scaled immediate, into a uniform register.
R164, R350: LDP loads sixteen bytes. With bit 127 clear the low eight become a value without a tether; with it set they are a
brand, and a resident object gives its base plus the offset, tethered; an identity that no domain knows traps BRAND_UNKNOWN.
R169, R170, R241, R400: a delivering store to a line that nobody holds, no cluster has a copy of and whose home performs a
write now writes its bytes at the home at once and sends the line to the destination cores of its code, a poisoned line to
none; no other byte of memory changes. Forms whose own effect completes here: LDU, LDP. -/
def Obligations.PointerLoadsAndDeliveringStores : Prop :=
  ((∀ (f : IF) (s s1 : State) (n g : Nat) (t : Tid) (ts : List Tid) (b : List Byte), together s (.ldu f) n g (t :: ts) →
    s.load t (t :: ts) 0 ((s.group n g).spair f.a.toNat + BitVec.ofInt 64 (immI f.p f.imm * 4)) 4 (readOnly f.p) (nonTemporal f.p) = .ok s1 b →
    (∀ u ∈ t :: ts, (s1.thread u).present = true) →
    ∃ s', exec (.ldu f) s = .next s' ∧ onlyRegisters s1 s' (t :: ts) ∧
      ∀ u ∈ t :: ts, goesOn s1 s' u s1.cur.next false ∧ holdsS s1 s' u f.d.toNat (BitVec.ofNat 32 (leNat b)) ∧
        underWay s1 s' u ((t :: ts).map fun u => u.thr) (.s f.d.toNat (BitVec.ofNat 32 (leNat b))) none) ∧
  (∀ (f : IF) (s s1 : State) (t : Tid) (b : List Byte), alone s (.ldp f) t →
    s.load t [t] f.a.toNat (s.addrA t f 16) 16 (readOnly f.p) (nonTemporal f.p) = .ok s1 b → (s1.thread t).present = true →
    let q : Quad := BitVec.ofNat 128 (leNat b)
    if q.getLsbD 127 then s1.fetchFailed t = none →
      match s1.obtainObject (s1.team t.team).ctx (q.extractLsb' 64 63) with
      | (s2, .ready k) =>
        let e := s2.cEntry k
        let x : AReg := ⟨BitVec.ofNat 64 e.baseVa + q.extractLsb' 0 64, ⟨true, q.extractLsb' 64 63, e.base, e.gen⟩⟩
        (s2.thread t).present = true →
        ∃ s', exec (.ldp f) s = .next s' ∧ onlyRegisters (s2.tethered k) s' [t] ∧
          goesOn (s2.tethered k) s' t (s2.tethered k).cur.next false ∧ holdsA (s2.tethered k) s' t f.d.toNat x ∧
          underWay s2 s' t [t.thr] (.a t.thr f.d.toNat x) none
      | (s2, .unknown) => handled s2 t → (s2.thread t).present = true →
        ∃ s', exec (.ldp f) s = .next s' ∧ entersHandler s2 s' t .brandUnknown (s1.addrA t f 16)
      | _ => True
    else ∃ s', exec (.ldp f) s = .next s' ∧ onlyRegisters s1 s' [t] ∧ goesOn s1 s' t s1.cur.next false ∧
      holdsA s1 s' t f.d.toNat ⟨q.extractLsb' 0 64, Tether.clear⟩ ∧
      underWay s1 s' t [t.thr] (.a t.thr f.d.toNat ⟨q.extractLsb' 0 64, Tether.clear⟩) none)) ∧
  (∀ (s : State) (t : Tid) (i : Instr) (reg : Nat) (code : Word) (b : List Byte) (p : Phys) (cores : List Nat),
    (b.length = 4 ∨ b.length = 8 ∨ b.length = 16) →
    reaches s t reg ((s.thread t).areg reg).val b.length Need.store false p →
    s.destinations t.team code = some cores → s.claimOf (granOf p.key) = none →
    quietLine s (some (s.coreNum t)) (lineOf p.key) → noOwnStores s t (lineOf p.key) → (∀ k ∈ s.clusters, ∀ q ∈ k.privs, q.line ≠ lineOf p.key) →
    (∀ j, j < b.length → s.partAt (p.key + j) = none) →
    ∃ s1, s.deliverStore t i reg code b = .ok s1 ∧ (∀ j, j < b.length → s1.mem.get (p.key + j) = nthD 0 b j) ∧
      (∀ k, k < p.key ∨ p.key + b.length ≤ k → s1.mem.get k = s.mem.get k) ∧
      (if s.poisoned (lineOf p.key) then ∀ x ∈ s1.home.flights, ∃ y ∈ s.home.flights, y.id = x.id
        else ∀ c ∈ cores, ∃ x ∈ s1.home.flights, x.core = c ∧ x.line = lineOf p.key ∧ x.data = s1.mem.line (lineOf p.key)) ∧
      ∀ u, s1.thread u = s.thread u)

/-- R173, R222: an atomic whose access is made lands the old value in v[d], unless d is v0, and begins a region after itself.
R173, R174, R176, R244, R256: an atomic reads its old value and writes the new one in one step: in the scratchpad; in the
cluster's private copy of the line at cluster scope and below; at the home at device and system scope. Nobody holds the
granule, the thread has no buffered store to the line, and the line's home performs a write now. Forms whose own effect
completes here: AADD, AADD_B64, AMINS, AMINS_B64, AMINN, AMINN_B64, AMAXS, AMAXS_B64, AMAXN, AMAXN_B64, AAND, AAND_B64, AOR,
AOR_B64, AXOR, AXOR_B64, AXCHG, AXCHG_B64, ACAS, ACAS_B64, AFADD, AINCW. -/
def Obligations.AtomicsAct : Prop :=
  (∀ (i : Instr) (f : TF) (w64 : Bool) (fn : AtomFn) (form : HostForm) (s s1 : State) (t : Tid) (old : List Byte),
    atomics i = some (f, w64, fn, form) → i.WellFormed → alone s i t → access s t i = some (.ok s1 old) →
    (s1.thread t).present = true →
    ∃ s', exec i s = .next s' ∧ goesOn s1 s' t s1.cur.next false ∧ (s'.thread t).region = s1.cur.next ∧
      (s'.thread t).rgncnt = (s1.thread t).rgncnt + 1 ∧ frame s1 s' [t] id id id (fun x => { x with region := 0, rgncnt := 0 }) ∧
      (f.d ≠ 0 → ∀ j x, (loadedWords false old)[j]? = some x → holdsV s1 s' t (f.d.toNat + j) x ∧
        underWay s1 s' t [t.thr] (.v t.thr (physOf (s1.thread t).base (f.d.toNat + j)) x) none) ∧
      (f.d = 0 → noOtherResult s1 s' t [])) ∧
  (∀ (s : State) (t : Tid) (i : Instr) (atom : State → Tid → Atom), s.answered t = none → let x := atom s t
    let new := fun (old : List Byte) => leBytes x.n (x.fn (BitVec.ofNat 64 (leNat old)) x.b x.c).toNat
    (x.n = 4 ∨ x.n = 8) →
    (inScratchpad s t x.a x.n → s.isLent t.team (x.a.toNat - windowBase) x.n = false → t.team < s.teams.length →
      ∃ s1 old, s.atomic t i atom = .ok s1 old ∧ old.length = x.n ∧
        (∀ j, j < x.n → nthD 0 old j = (s.team t.team).scratch.get (x.a.toNat - windowBase + j)) ∧
        scratchpadWith (s.team t.team) (s1.team t.team) (x.a.toNat - windowBase) (new old) ∧
        frame s s1 [] id id (fun m => { m with scratch := [] }) id ∧ ∀ m, m ≠ t.team → (s1.team m).scratch = (s.team m).scratch) ∧
    (∀ p, reaches s t x.reg x.a x.n Need.atomic true p → s.claimOf (granOf p.key) = none →
      noOwnStores s t (lineOf p.key) →
      (x.scope ≤ 3 → quietLine s none (lineOf p.key) → (s.team t.team).cluster < s.clusters.length →
        ∃ s1 old q, s.atomic t i atom = .ok s1 old ∧ s1.mem = s.mem ∧ old.length = x.n ∧
          (∀ j, j < x.n → nthD 0 old j = match s.priv? (s.team t.team).cluster (lineOf p.key) with
            | some q => lineByte q.data ((p.key + j) % 128)
            | none => s.mem.get (p.key + j)) ∧
          s1.priv? (s.team t.team).cluster (lineOf p.key) = some q ∧ q.dirty = true ∧
          (∀ j, j < x.n → lineByte q.data ((p.key + j) % 128) = nthD 0 (new old) j) ∧ ∀ u, s1.thread u = s.thread u) ∧
      (x.scope = 4 ∨ x.scope = 5 ∧ (s.core (s.coreNum t)).out = [] → quietLine s (some (s.coreNum t)) (lineOf p.key) →
        (∀ j, j < x.n → s.partAt (p.key + j) = none) →
        ∃ s1 old, s.atomic t i atom = .ok s1 old ∧ old.length = x.n ∧ (∀ j, j < x.n → nthD 0 old j = s.mem.get (p.key + j)) ∧
          (∀ j, j < x.n → s1.mem.get (p.key + j) = nthD 0 (new old) j) ∧
          (∀ k, k < p.key ∨ p.key + x.n ≤ k → s1.mem.get k = s.mem.get k) ∧ ∀ u, s1.thread u = s.thread u)))

/-! ### Ordering -/

namespace Sys2Proof.Claims

open Sys2Proof.Machine

/-- A thread's release of a scope has nothing to await (07 R177, 12 R251, 23 R370): no store of the thread in a buffer, on its
way or without its acknowledgement, no delivery of its group, no lost peer write, no dirty private copy of its cluster; at
system scope nothing of the core's on its way to peers. -/
def nothingAwaited (s : State) (t : Tid) (sc : Nat) : Prop :=
  let k := s.core (s.coreNum t)
  (s.team t.team).lost = false ∧ (∀ e ∈ k.sb, ∀ b ∈ e.bytes, b.by_ ≠ t) ∧ (∀ u ∈ k.unacked, t ∉ u.owners) ∧
  (∀ x ∈ s.home.flights, (x.t.team, x.t.grp) ≠ (t.team, t.grp)) ∧ (∀ e ∈ k.wc, t ∉ e.writers) ∧
  (∀ x ∈ k.out, x.waiters = [] → t ∉ x.owners) ∧ (∀ q ∈ (s.cluster (s.team t.team).cluster).privs, q.dirty = false) ∧
  (sc = 5 → k.wc = [] ∧ k.out = [])

end Sys2Proof.Claims

/-- R177, R251, R370: a release that is done has nothing left to await: no store of the thread in the buffer, none without its
acknowledgement, no delivery of its group on the way, no peer write; at system scope the core's whole table is empty. A team
whose peer write was lost traps LINK_LOST first. REL and FENCE complete once their release is done, FENCE with its acquire,
at once where nothing is awaited, and wait at their bundle until then. That a release awaits every delivery of the thread's
group, not of the thread alone, is deduced (log entry 34). Forms whose own effect completes here: FENCE, REL. -/
def Obligations.ReleasesAndFences : Prop :=
  (∀ (s s1 : State) (t : Tid) (sc : Nat), 2 ≤ sc →
    (s.release t sc = .done s1 → (s.team t.team).lost = false ∧
      (∀ e ∈ (s1.core (s1.coreNum t)).sb, ∀ b ∈ e.bytes, b.by_ ≠ t) ∧
      (∀ u ∈ (s1.core (s1.coreNum t)).unacked, t ∉ u.owners) ∧
      (∀ x ∈ s1.home.flights, (x.t.team, x.t.grp) ≠ (t.team, t.grp)) ∧
      (∀ e ∈ (s1.core (s1.coreNum t)).wc, t ∉ e.writers) ∧
      (∀ x ∈ (s1.core (s1.coreNum t)).out, x.waiters = [] → t ∉ x.owners) ∧
      (sc = 5 → (s1.core (s1.coreNum t)).wc = [] ∧ (s1.core (s1.coreNum t)).out = [])) ∧
    ((s.team t.team).lost = true → ∃ s2 r, s.release t sc = .trap s2 r ∧ r.cause = .linkLost)) ∧
  (∀ (f : TF) (s s1 : State) (t : Tid),
    let sc := scopeName f.p
    (alone s (.rel f) t → s.release t sc = .done s1 → (s1.thread t).present = true →
      ∃ s', exec (.rel f) s = .next s' ∧ onlyRegisters s1 s' [t] ∧ goesOn s1 s' t s1.cur.next false) ∧
    (alone s (.fence f) t → s.release t sc = .done s1 → (s1.thread t).present = true →
      ∃ s', exec (.fence f) s = .next s' ∧ onlyRegisters (s1.acquire t sc) s' [t] ∧ goesOn s1 s' t s1.cur.next false) ∧
    (∀ i w, (i = .rel f ∨ i = .fence f) → alone s i t → s.release t sc = .wait s1 w → (s1.team t.team).request = none →
      (s1.thread t).present = true →
      ∃ s', exec i s = .next s' ∧ onlyRegisters s1 s' [t] ∧ (s'.thread t).wait = w ∧ (s'.thread t).pc = (s1.thread t).pc) ∧
    (∀ i, (i = .rel f ∨ i = .fence f) → alone s i t → (s.thread t).present = true → nothingAwaited s t sc →
      ∃ s', exec i s = .next s' ∧ goesOn s s' t s.cur.next false ∧ noOtherResult s s' t []))

/-- R163: PREF completes, and changes no register and no byte; level 0 brings the line of an address that can be read into the
core's L1, unless the task holds its granule or the L1 has it as a given line of another context (log entry 12). R177, R238,
R245: ACQ completes; an acquire above group scope drops the core's loose lines of its context but those of read-only loads,
and at device and system scope the cluster's clean private copies; no byte and no register changes. R178: ACQR asks the
victim core, which writes the dirty private copies of the context's clusters there home, byte for byte, where their homes
take them, and answers; the thread waits, and then acquires at device scope and ACQR completes. R179: CCTL 0 writes the
cluster's dirty copy of the line home, CCTL 1 drops the core's L1 copy of it, CCTL 3 discards the cluster's private copy, and
each completes, also where no line can be held there; CCTL 2 zeroes the 128 bytes of the line in the scratchpad, or at the
line's home in device memory. The delay of a message is a free value (log entry 3). Forms whose own effect completes here:
PREF, ACQ, ACQR, CCTL, ACQR_REQUEST. -/
def Obligations.PrefetchesAcquiresAndLineControl : Prop :=
  ((∀ (f : IF) (s : State) (t : Tid), alone s (.pref f) t →
    ∃ s', exec (.pref f) s = .next s' ∧ frame s s' [t] withoutCaches withoutLines id id ∧ s'.mem = s.mem ∧
      goesOn s s' t s.cur.next false ∧ noOtherResult s s' t [] ∧
      ∀ p, f.d = 0 → s.prefetchAt t f.a.toNat (s.addrA t f 128) = some p → p.tgt ≤ 1 → s.lateFault p (s.addrA t f 128) true = none →
        s.holds t.team (granOf p.key) = false →
        (∀ x ∈ (s.core (s.coreNum t)).l1, x.given = true → x.line = lineOf p.key → x.ctx = (s.team t.team).ctx) →
        ∃ x ∈ (s'.core (s.coreNum t)).l1, x.line = lineOf p.key ∧ x.ctx = (s.team t.team).ctx) ∧
  (∀ (f : TF) (s : State) (t : Tid), alone s (.acq f) t →
    let sc := scopeName f.p
    let cl := (s.team t.team).cluster
    ∃ s', exec (.acq f) s = .next s' ∧ frame s s' [t] (fun s => { s with clusters := [] }) (fun k => { k with l1 := [] }) id id ∧
      goesOn s s' t s.cur.next false ∧ noOtherResult s s' t [] ∧
      (s'.core (s.coreNum t)).l1 = (if sc ≤ 1 then (s.core (s.coreNum t)).l1
        else (s.core (s.coreNum t)).l1.filter fun x => x.given || x.ro || x.ctx != (s.team t.team).ctx) ∧
      (∀ c, c ≠ s.coreNum t → (s'.core c).l1 = (s.core c).l1) ∧
      (∀ k, { s'.cluster k with privs := [] } = { s.cluster k with privs := [] }) ∧
      ∀ k, (s'.cluster k).privs = if 4 ≤ sc ∧ k = cl then (s.cluster k).privs.filter (fun p => p.dirty) else (s.cluster k).privs)) ∧
  (((∀ (f : TF) (s : State) (t : Tid), alone s (.acqr f) t → (B s t f).toNat < 1536 →
    ((s.thread t).reply = .done → ∃ s', exec (.acqr f) s = .next s' ∧ onlyRegisters (s.acquire t 4) s' [t] ∧
      goesOn s s' t s.cur.next false) ∧
    ((s.thread t).reply ≠ .done → (s.team t.team).request = none →
      ∃ s' at_, exec (.acqr f) s = .next s' ∧ onlyRegisters s s' [t] ∧ (s'.thread t).wait = .acqr (B s t f).toNat ∧
        (s'.thread t).pc = (s.thread t).pc ∧ s.cycle < at_ ∧ at_ ≤ s.cycle + 4096 ∧
        (⟨at_, .acqrRequest, { t.arg with core := (B s t f).toNat }⟩ : Due) ∈ s'.agenda)) ∧
  (∀ (s : State) (t : Tid) (v : Nat), s.arg = { t.arg with core := v } → (s.thread t).wait = .acqr v →
    (∀ k ∈ s.clusters, ∀ p ∈ k.privs, p.dirty = false) → (s.thread t).present = true →
    ∃ s', exec .acqrRequest s = .next s' ∧ (s'.thread t).reply = .done ∧ s'.mem = s.mem) ∧
  (∀ (s : State) (t : Tid) (v cl : Nat) (q : PrivCopy), s.arg = { t.arg with core := v } → (s.thread t).wait = .acqr v →
    (s.thread t).present = true → s.priv? cl q.line = some q → q.dirty = true →
    (∀ k p, p ∈ (s.cluster k).privs → p.dirty = true → k = cl ∧ p = q) →
    (∃ n ∈ s.residents v, (s.team n).ctx = (s.team t.team).ctx) →
    (∃ n ∈ (s.cluster cl).teams, (s.team n).ctx = (s.team t.team).ctx ∧ (s.team n).core = v) →
    s.backBlocked cl q = false → s.backCopies cl q = false → (∀ j, j < 128 → s.partAt (q.line * 128 + j) = none) →
    ∃ s', exec .acqrRequest s = .next s' ∧ (s'.thread t).reply = .done ∧ (∀ p, s'.priv? cl q.line = some p → p.dirty = false) ∧
      ∀ k, s'.mem.get k = if lineOf k = q.line then lineByte q.data (k % 128) else s.mem.get k)) ∧
  ((∀ (f : IF) (s s1 : State) (t : Tid) (p : Phys), alone s (.cctl f) t → f.imm.toNat ≤ 3 → f.imm.toNat ≠ 2 →
    s.controlLine t f.a.toNat (if f.imm = 3 then ⟨true, true, false, .store⟩ else Need.load) = (s1, .at_ p) → p.tgt ≤ 1 →
    (s1.thread t).present = true →
    (f.imm = 1 → ∃ s', exec (.cctl f) s = .next s' ∧ goesOn s1 s' t s1.cur.next false ∧
      frame s1 s' [t] id (fun k => { k with l1 := [] }) id id ∧
      (s'.core (s.team t.team).core).l1 = (s1.core (s.team t.team).core).l1.filter
        fun x => !(x.line = lineOf p.key && x.ctx = (s.team t.team).ctx)) ∧
    (f.imm = 3 → ∃ s', exec (.cctl f) s = .next s' ∧
      goesOn s1 s' t s1.cur.next false ∧
      frame s1 s' [t] (fun s => { s with clusters := [], home := { s.home with l2 := [] } }) id id id ∧
      s'.priv? (s.team t.team).cluster (lineOf p.key) = none) ∧
    (f.imm = 0 → ∀ s2, s1.writeBackAll (fun cl q => cl = (s.team t.team).cluster && q.line = lineOf p.key) true = (s2, .ok) →
      (s2.thread t).present = true →
      ∃ s', exec (.cctl f) s = .next s' ∧ goesOn s2 s' t s2.cur.next false ∧ onlyRegisters s2 s' [t])) ∧
  (∀ (f : IF) (s s1 : State) (t : Tid) (x : State.LineAt), alone s (.cctl f) t → f.imm.toNat ≤ 3 → f.imm.toNat ≠ 2 →
    s.controlLine t f.a.toNat (if f.imm = 3 then ⟨true, true, false, .store⟩ else Need.load) = (s1, x) →
    (x = .nowhere ∨ ∃ p, x = .at_ p ∧ 2 ≤ p.tgt) → (s1.thread t).present = true →
    ∃ s', exec (.cctl f) s = .next s' ∧ goesOn s1 s' t s1.cur.next false ∧ onlyRegisters s1 s' [t]) ∧
  (∀ (f : IF) (s : State) (t : Tid) (p : Phys), alone s (.cctl f) t → f.imm = 2 → p.tgt = 0 → (s.thread t).present = true →
    reaches s t f.a.toNat ((s.thread t).areg f.a.toNat).val 1 Need.store false p → s.claimOf (granOf p.key) = none →
    quietLine s (some (s.coreNum t)) (lineOf p.key) → noOwnStores s t (lineOf p.key) →
    (∀ j, j < 128 → s.partAt (lineOf p.key * 128 + j) = none) →
    ∃ s', exec (.cctl f) s = .next s' ∧ goesOn s s' t s.cur.next false ∧
      ∀ k, s'.mem.get k = if lineOf k = lineOf p.key then 0 else s.mem.get k) ∧
  (∀ (f : IF) (s : State) (t : Tid), alone s (.cctl f) t → f.imm = 2 →
    let a := ((s.thread t).areg f.a.toNat).val
    let off := (a.toNat - windowBase) / 128 * 128
    inScratchpad s t a 1 → off + 128 ≤ (s.team t.team).scratchSize → s.isLent t.team off 128 = false →
    ∃ s', exec (.cctl f) s = .next s' ∧ frame s s' [t] id id (fun m => { m with scratch := [] }) id ∧
      goesOn s s' t s.cur.next false ∧ scratchpadWith (s.team t.team) (s'.team t.team) off (List.replicate 128 0))))

namespace Sys2Proof.Claims

open Sys2Proof.Machine

/-! ### Teams, gates, engines -/

/-- The thread's bundle has completed in `s1` without a result of its own: it goes on at the next word, and where `region`
holds a region begins there (10 R222); the rest is as `st`, `co` and `te` leave it. -/
def completed (region : Bool) (s1 s' : State) (t : Tid) (st : State → State) (co : Core → Core) (te : Team → Team) : Prop :=
  goesOn s1 s' t s1.cur.next false ∧ noOtherResult s1 s' t [] ∧
  (s'.thread t).region = (if region then s1.cur.next else (s1.thread t).region) ∧
  (s'.thread t).rgncnt = (if region then (s1.thread t).rgncnt + 1 else (s1.thread t).rgncnt) ∧
  frame s1 s' [t] st co te fun x => { x with region := 0, rgncnt := 0 }

/-- A barrier after one arrival (08 R190). -/
def afterArrival (x : Barrier) : Barrier :=
  if x.arrived + 1 = x.expect then ⟨!x.phase, x.turns + 1, x.expect, 0⟩ else ⟨x.phase, x.turns, x.expect, x.arrived + 1⟩

/-- The gate that a thread names (08 R192): its offset is aligned and lies in the scratchpad. -/
def gateAt (s : State) (t : Tid) (f : TF) : Nat := (A s t f).toNat
def gateValid (s : State) (t : Tid) (f : TF) : Prop :=
  gateAt s t f % 16 = 0 ∧ gateAt s t f + 16 ≤ (s.team t.team).scratchSize

/-- The gate word of a team at an offset is `g`, and no other byte of its scratchpad has changed. -/
def gateIs (m m' : Team) (off : Nat) (g : Quad) : Prop := scratchpadWith m m' off (leBytes 16 g.toNat)

def noScratch (m : Team) : Team := { m with scratch := [] }

/-- The copy instructions (08 R194). -/
def copies : Instr → Option (TF × CopyKind)
  | .cpy f => some (f, .plain)
  | .cpyg f => some (f, .gather)
  | .cpys f => some (f, .scatter)
  | .cpyr f => some (f, .reduce)
  | _ => none

end Sys2Proof.Claims

/-! ### Folds and tasks -/

/-- R182, R183: FOLD reads a descriptor of one to eight ranges and declares the fold in its slot, untouched, where the slot is
free; naming the same descriptor again has no effect. UNFOLD clears a slot that is not touched, and one that is touched traps
FOLD_MISUSE. Forms whose own effect completes here: FOLD, UNFOLD. -/
def Obligations.FoldsAreDeclaredAndCleared : Prop :=
  (∀ (f : IF) (s s1 s2 : State) (t : Tid) (h b : List Byte), alone s (.fold f) t →
    ((s.thread t).areg f.a.toNat).val.extractLsb' 0 4 = 0 →
    (s.team t.team).taskEnded = false → s.readPieces t f.a.toNat 0 1 = .ok s1 h →
    let n := leNat (h.take 1)
    1 ≤ n → n ≤ 8 → leNat (h.drop 1) = 0 → s1.readPieces t f.a.toNat 16 n = .ok s2 b →
    (∀ x ∈ pieces n b, badRange x = false) → (∀ r ∈ foldRanges n b, FoldRange.scratch r = false) → (s2.thread t).present = true →
    let p := ((s2.thread t).areg f.a.toNat).val
    (∀ x, assoc (s2.team t.team).folds f.imm.toNat = some x → x.desc = p →
      ∃ s', exec (.fold f) s = .next s' ∧ completed true s2 s' t id id id) ∧
    (∀ s3 gs, assoc (s2.team t.team).folds f.imm.toNat = none →
      s2.foldGrans (s2.team t.team).core (s2.team t.team).ctx (foldRanges n b) = (s3, .ok gs) →
      (distinct (sortBy id (distinct gs) ++ (s2.team t.team).folds.flatMap fun x => x.2.grans)).length ≤ 65536 →
      (s3.thread t).present = true →
      ∃ s', exec (.fold f) s = .next s' ∧ completed true s3 s' t id id (fun m => { m with folds := [] }) ∧
        assoc (s'.team t.team).folds f.imm.toNat = some ⟨p, foldRanges n b, .untouched, sortBy id (distinct gs)⟩ ∧
        ∀ k, k ≠ f.imm.toNat → assoc (s'.team t.team).folds k = assoc (s3.team t.team).folds k)) ∧
  (∀ (f : IF) (s : State) (t : Tid), alone s (.unfold f) t →
    (∀ x, assoc (s.team t.team).folds f.imm.toNat = some x → x.st = .untouched) →
    ∃ s', exec (.unfold f) s = .next s' ∧ completed false s s' t id id (fun m => { m with folds := [] }) ∧
      assoc (s'.team t.team).folds f.imm.toNat = none ∧
      ∀ k, k ≠ f.imm.toNat → assoc (s'.team t.team).folds k = assoc (s.team t.team).folds k) ∧
  (∀ (f : IF) (s : State) (t : Tid) (x : FoldSlot), alone s (.unfold f) t → handled s t →
    assoc (s.team t.team).folds f.imm.toNat = some x → x.st ≠ .untouched →
    ∃ s', exec (.unfold f) s = .next s' ∧ entersHandler s s' t .foldMisuse x.desc)

/-! ### Barriers and gates -/

/-- R13, R190: each arrival counts at its barrier after a team-scope release, and the last expected one completes the phase. BARA
goes on; BARW goes on once its phase is complete, with an acquire, and waits until then. Forms whose own effect completes
here: BARA, BARW, BARS. -/
def Obligations.BarriersCountArrivals : Prop :=
  (∀ (f : IF) (s s1 : State) (t : Tid) (x : Barrier), alone s (.bara f) t → s.release t 2 = .done s1 → (s1.thread t).present = true →
    (s1.team t.team).barriers[f.imm.toNat]? = some x →
    ∃ s', exec (.bara f) s = .next s' ∧ completed true s1 s' t id id (fun m => { m with barriers := [] }) ∧
      (s'.team t.team).barriers[f.imm.toNat]? = some (afterArrival x) ∧
      ∀ k, k ≠ f.imm.toNat → (s'.team t.team).barriers[k]? = (s1.team t.team).barriers[k]?) ∧
  (∀ (f : IF) (s s1 : State) (t : Tid) (x : Barrier), alone s (.barw f) t → (∀ n ph, (s.thread t).wait ≠ .barrier n ph) →
    s.release t 2 = .done s1 → (s1.thread t).present = true → (s1.team t.team).barriers[f.imm.toNat]? = some x →
    (s1.team t.team).request = none →
    ∃ s', exec (.barw f) s = .next s' ∧ (s'.team t.team).barriers[f.imm.toNat]? = some (afterArrival x) ∧
      (∀ k, k ≠ f.imm.toNat → (s'.team t.team).barriers[k]? = (s1.team t.team).barriers[k]?) ∧ s'.mem = s1.mem ∧
      if x.arrived + 1 = x.expect then goesOn s1 s' t s1.cur.next false ∧ (s'.thread t).region = s1.cur.next
      else (s'.thread t).wait = .barrier f.imm.toNat x.turns ∧ (s'.thread t).pc = (s1.thread t).pc) ∧
  (∀ (f : IF) (s : State) (t : Tid) (n ph : Nat) (x : Barrier), alone s (.barw f) t →
    (s.thread t).wait = .barrier n ph → (s.team t.team).barriers[f.imm.toNat]? = some x → x.turns ≠ ph →
    ∃ s', exec (.barw f) s = .next s' ∧ completed true (s.acquire t 2) s' t id id id) ∧
  (∀ (f : IF) (s : State) (n g : Nat) (ts : List Tid) (x : Barrier), together s (.bars f) n g ts →
    (s.team n).barriers[f.imm.toNat]? = some x → x.arrived = 0 →
    1 ≤ ((s.group n g).sreg f.a.toNat).toNat → ((s.group n g).sreg f.a.toNat).toNat ≤ 2048 →
    ∃ s', exec (.bars f) s = .next s' ∧ frame s s' ts id id (fun m => { m with barriers := [] }) id ∧
      (∀ t ∈ ts, goesOn s s' t s.cur.next false) ∧
      (s'.team n).barriers[f.imm.toNat]? = some ⟨x.phase, x.turns, BitVec.ofNat 12 ((s.group n g).sreg f.a.toNat).toNat, 0⟩ ∧
      ∀ k, k ≠ f.imm.toNat → (s'.team n).barriers[k]? = (s.team n).barriers[k]?)

/-- R191: what an update does to a gate. A broken gate stays as it is. Bytes and expected bytes add up, and a sum beyond 44 bits
breaks the gate. The last expected arrival completes the phase, PHASE toggling and the counts at 0, where the bytes agree,
and breaks the gate where they do not. R192, R199: GINIT sets a gate up for B arrivals, GEXP adds expected bytes, GARR
releases and then arrives with bytes; none of them while a byte of the gate is lent. GWAIT goes on, with an acquire, once the
phase differs from B[0], and waits until then; GTEST writes 1 or 0 and does not wait. A broken gate whose phase is still B[0]
traps GATE_MISUSE. Forms whose own effect completes here: GINIT, GEXP, GARR, GWAIT, GTEST. -/
def Obligations.GatesAreUpdatedAndAwaited : Prop :=
  (∀ (g : Quad) (bytes expect : Nat) (arrives : Bool), bytes < 2 ^ 44 → expect < 2 ^ 32 → gateAarr g + 1 < 2 ^ 19 →
    let g' := gateUpdate g bytes expect arrives
    let a := gateAbytes g + bytes
    let e := gateEbytes g + expect
    gateEarr g' = gateEarr g ∧
    (if gateBrk g then g' = g
    else if 2 ^ 44 ≤ a ∨ 2 ^ 44 ≤ e then gateBrk g' = true ∧ gatePhase g' = gatePhase g
    else if arrives = false then
      gatePhase g' = gatePhase g ∧ gateBrk g' = false ∧ gateAarr g' = gateAarr g ∧ gateAbytes g' = a ∧ gateEbytes g' = e
    else if gateAarr g + 1 ≠ gateEarr g then
      gatePhase g' = gatePhase g ∧ gateBrk g' = false ∧ gateAarr g' = gateAarr g + 1 ∧ gateAbytes g' = a ∧ gateEbytes g' = e
    else if a = e then
      gatePhase g' = !gatePhase g ∧ gateBrk g' = false ∧ gateAarr g' = 0 ∧ gateAbytes g' = 0 ∧ gateEbytes g' = 0
    else gatePhase g' = gatePhase g ∧ gateBrk g' = true)) ∧
  (((∀ (f : TF) (s : State) (t : Tid), alone s (.ginit f) t → gateValid s t f → s.isLent t.team (gateAt s t f) 16 = false →
    1 ≤ (B s t f).toNat → (B s t f).toNat < 2 ^ 19 →
    ∃ s' g, exec (.ginit f) s = .next s' ∧
      completed true s s' t id id (fun m => { m with scratch := [], gates := [], gatesFull := false }) ∧
      gateIs (s.team t.team) (s'.team t.team) (gateAt s t f) g ∧ gatePhase g = false ∧ gateBrk g = false ∧
      gateEarr g = (B s t f).toNat ∧ gateAarr g = 0 ∧ gateEbytes g = 0 ∧ gateAbytes g = 0) ∧
  (∀ (f : TF) (s : State) (t : Tid), alone s (.gexp f) t → gateValid s t f → s.isLent t.team (gateAt s t f) 16 = false →
    ∃ s', exec (.gexp f) s = .next s' ∧ completed true s s' t id id noScratch ∧
      gateIs (s.team t.team) (s'.team t.team) (gateAt s t f)
        (gateUpdate (s.gateWord t.team (gateAt s t f)) 0 (B s t f).toNat false)) ∧
  (∀ (f : TF) (s s1 : State) (t : Tid), alone s (.garr f) t → gateValid s t f → s.isLent t.team (gateAt s t f) 16 = false →
    s.release t 2 = .done s1 → (s1.thread t).present = true → s1.thread t = s.thread t → s1.groupOf t = s.groupOf t →
    ∃ s', exec (.garr f) s = .next s' ∧ completed true s1 s' t id id noScratch ∧
      gateIs (s1.team t.team) (s'.team t.team) (gateAt s t f)
        (gateUpdate (s1.gateWord t.team (gateAt s t f)) (B s t f).toNat 0 true))) ∧
  (∀ (f : TF) (s : State) (t : Tid), gateValid s t f →
    let g := s.gateWord t.team (gateAt s t f)
    let passed := gatePhase g ≠ (B s t f).getLsbD 0
    (alone s (.gwait f) t → passed → ∃ s', exec (.gwait f) s = .next s' ∧ completed false (s.acquire t 2) s' t id id id) ∧
    (alone s (.gwait f) t → ¬passed → gateBrk g = false → (s.team t.team).request = none →
      ∃ s', exec (.gwait f) s = .next s' ∧ onlyRegisters s s' [t] ∧ (s'.thread t).pc = (s.thread t).pc ∧
        (s'.thread t).wait = .gate (gateAt s t f) ((B s t f).getLsbD 0)) ∧
    (alone s (.gtest f) t → passed → ∃ s', exec (.gtest f) s = .next s' ∧ onlyRegisters (s.acquire t 2) s' [t] ∧
      goesOn s s' t s.cur.next false ∧ holdsV s s' t f.d.toNat 1) ∧
    (alone s (.gtest f) t → ¬passed → gateBrk g = false → ∃ s', exec (.gtest f) s = .next s' ∧ onlyRegisters s s' [t] ∧
      goesOn s s' t s.cur.next false ∧ holdsV s s' t f.d.toNat 0) ∧
    (∀ i, (i = .gwait f ∨ i = .gtest f) → alone s i t → handled s t → ¬passed → gateBrk g = true →
      ∃ s', exec i s = .next s' ∧ entersHandler s s' t .gateMisuse (BitVec.ofNat 64 (windowBase + gateAt s t f)))))

/-! ### Records and copies -/

/-- R186: TASKEND after the task's end has no effect. Before it, a thread releases at device scope (6 at a task's end, log entry
78) and waits while another present thread has not arrived; the last arrival commits and the task has ended: no fold, claim,
record or tentative line of it is left. R185, R250: a commit puts the task's tentative bytes, and no others, in their places
at the home. R207, R305: EMIT reads a record of the node's size. Before the task's end it is held for the commit and a place
of the bin is reserved; after it the record enters the bin, behind every record of an earlier cycle. A full bin traps
EMIT_OVERFLOW. Forms whose own effect completes here: TASKEND, EMIT. -/
def Obligations.TasksAndEmitsCommit : Prop :=
  (((∀ (f : TF) (s : State) (t : Tid), alone s (.taskend f) t →
    ((s.team t.team).taskEnded = true → ∃ s', exec (.taskend f) s = .next s' ∧ completed true s s' t id id id) ∧
    ((s.team t.team).taskEnded = false → ∀ s1, s.release t 6 = .done s1 → (s1.thread t).present = true →
      (s1.othersArrived t = false → (s1.team t.team).request = none →
        ∃ s', exec (.taskend f) s = .next s' ∧ (s'.thread t).wait = .taskEnd ∧ (s'.thread t).pc = (s1.thread t).pc ∧
          onlyRegisters s1 s' [t]) ∧
      (∀ s2, s1.othersArrived t = true → s1.endTask t.team = (s2, .ok) → (s2.team t.team).taskEnded = true →
        (s2.thread t).present = true →
        ∃ s', exec (.taskend f) s = .next s' ∧ completed true s2 s' t id id id))) ∧
  (∀ (s s2 : State) (n : Nat), n < s.teams.length → (∀ g ∈ s.heldGrans n, remoteGran g = false) → s.endTask n = (s2, .ok) →
    (s2.team n).taskEnded = true ∧ (s2.team n).folds = [] ∧ (s2.team n).emits = [] ∧
    (∀ c ∈ s2.home.claims, c.team ≠ n) ∧ ∀ x ∈ s2.home.shadows, x.team ≠ n)) ∧
  (∀ (s : State) (n : Nat), (∀ x ∈ s.home.shadows, x.team = n → keyTgt (x.line * 128) ≤ 1) →
    (∀ x ∈ s.home.shadows, ∀ y ∈ s.home.shadows, x.team = n → y.team = n → x.line = y.line → x = y) →
    (∀ x ∈ s.home.shadows, x.team = n → ∀ j, j < 128 → s.partAt (x.line * 128 + j) = none) →
    let s' := s.applyShadows n
    (∀ k, s'.mem.get k = match s.home.shadows.find? fun x => x.team = n && x.line = k / 128 with
      | some x => if x.mask.getLsbD (k % 128) then lineByte x.data (k % 128) else s.mem.get k
      | none => s.mem.get k) ∧
    s'.home.shadows = s.home.shadows.filter fun x => x.team != n)) ∧
  (∀ (f : TF) (s s1 : State) (t : Tid) (k : Node) (b : List Byte), alone s (.emit f) t →
    ((s.thread t).areg f.a.toNat).val.extractLsb' 0 4 = 0 → s.node? (s.team t.team).ctx (B s t f).toNat = some k →
    s.readPieces t f.a.toNat 0 (State.nodeRsize k.desc / 16) = .ok s1 b → (s1.thread t).present = true →
    ((s.team t.team).taskEnded = false → State.binRoom k = true → (s.team t.team).emits.length < 1024 →
      ∃ s', exec (.emit f) s = .next s' ∧
        completed true s1 s' t (fun s => { s with ctxs := [] }) id (fun m => { m with emits := [] }) ∧
        (s'.team t.team).emits = (s1.team t.team).emits ++ [⟨(B s t f).toNat, b⟩] ∧
        ∀ k1, s1.node? (s.team t.team).ctx (B s t f).toNat = some k1 →
          s'.node? (s.team t.team).ctx (B s t f).toNat = some { k1 with reserved := k1.reserved + 1 }) ∧
    ((s.team t.team).taskEnded = true → State.binRoom k = true →
      ∃ s', exec (.emit f) s = .next s' ∧ completed true s1 s' t (fun s => { s with ctxs := [] }) id id ∧
        ∀ k1, s1.node? (s.team t.team).ctx (B s t f).toNat = some k1 → ∃ k2, s'.node? (s.team t.team).ctx (B s t f).toNat = some k2 ∧
          k2.bin.Perm (⟨b, s1.cycle, s.coreNum t⟩ :: k1.bin) ∧
          ((∀ x ∈ k1.bin, x.since < s1.cycle) → k2.bin = k1.bin ++ [⟨b, s1.cycle, s.coreNum t⟩])) ∧
    (handled s1 t → State.binRoom k = false → ∃ s', exec (.emit f) s = .next s' ∧
      entersHandler s1 s' t .emitOverflow (BitVec.ofNat 64 (B s t f).toNat)))

/-! ### Matrix jobs -/

/-- R194, R195, R196, R413: a copy whose descriptor is well formed enters the core's queue of 32 with its descriptor, its gate
and its thread's FPCR, after a team-scope release; one with no elements counts an arrival at its gate after it. R197, R198,
R278: TRES installs a well-formed record in its slot, whose trough range is zeroed (13 R278), once no issued job names the
slot; TREL frees a slot; TQSET sets the NZX of a slot. Where a copy without elements makes its arrival, after the release, is
log entry 43. Forms whose own effect completes here: CPY, CPYG, CPYS, CPYR, TRES, TREL, TQSET. -/
def Obligations.CopiesAndReservations : Prop :=
  (∀ (i : Instr) (f : TF) (kind : CopyKind) (s s1 s2 : State) (t : Tid) (hb db : List Byte), copies i = some (f, kind) →
    alone s i t → ((s.thread t).areg f.a.toNat).val.extractLsb' 0 4 = 0 → s.badGate t.team (B s t f) = none →
    (s.core (s.coreNum t)).copyQ.length < 32 → s.readPieces t f.a.toNat 0 2 = .ok s1 hb →
    let h : BitVec 256 := BitVec.ofNat 256 (leNat hb)
    let dims := readDims (headNdim h) db
    badHead h = false → s1.readDimBytes t f.a.toNat (headNdim h) = .ok s2 db →
    (∀ d ∈ dims, d.extractLsb' 32 32 = 0) → badConvert kind h dims = false → overlaps h dims = false →
    ∀ s3, s2.release t 2 = .done s3 → (s3.thread t).present = true →
    (elements dims = 0 → ∃ s', exec i s = .next s' ∧ completed true s3 s' t id id noScratch ∧
      (B s t f ≠ 0xFFFFFFFF → t.team < s3.teams.length →
        gateIs (s3.team t.team) (s'.team t.team) (B s t f).toNat (gateUpdate (s3.gateWord t.team (B s t f).toNat) 0 0 true))) ∧
    (elements dims ≠ 0 →
      ∃ s' k, exec i s = .next s' ∧ completed true s3 s' t id (fun k => { k with copyQ := [] }) id ∧
        (s'.core (s.coreNum t)).copyQ = (s3.core (s.coreNum t)).copyQ ++ [k] ∧
        (∀ c, c ≠ s.coreNum t → (s'.core c).copyQ = (s3.core c).copyQ) ∧
        k.kind = kind ∧ k.t = t ∧ k.head = h ∧ k.dims = dims ∧ k.gate = B s t f ∧ k.fpcr = (s3.thread t).fpcr ∧
        k.rm = (match f.p.x with | some x => x.rm.toNat | none => 0) ∧ k.pos = 0)) ∧
  ((∀ (f : IF) (s s1 : State) (t : Tid) (b : List Byte), alone s (.tres f) t → s.slotNamed t.team f.imm.toNat = false →
    ((s.thread t).areg f.a.toNat).val.extractLsb' 0 5 = 0 →
    (s.freeSlot t.team f.imm.toNat).readPieces t f.a.toNat 0 2 = .ok s1 b → (s1.thread t).present = true →
    let r : BitVec 256 := BitVec.ofNat 256 (leNat b)
    State.badRecord r = false → State.recordBeyond (s1.team t.team).scratchSize r = none → s1.badTrough (s1.coreNum t) r = false →
    ∃ s', exec (.tres f) s = .next s' ∧
      completed false s1 s' t id (fun k => { k with trough := [] }) (fun m => { m with slots := [] }) ∧
      s'.slot? t.team f.imm.toNat = some ⟨r, r.extractLsb' 160 16, r.getLsbD 159, false, s1.sourceBytes t.team r⟩ ∧
      (∀ k, k ≠ f.imm.toNat → s'.slot? t.team k = s1.slot? t.team k) ∧
      ∀ j, (s'.core (s1.coreNum t)).trough.get j =
        if recToff r ≤ j ∧ j < recToff r + recTlen r then 0 else (s1.core (s1.coreNum t)).trough.get j) ∧
  (∀ (f : IF) (s : State) (t : Tid), alone s (.trel f) t → s.slotNamed t.team f.imm.toNat = false →
    ∃ s', exec (.trel f) s = .next s' ∧ completed false s s' t id id (fun m => { m with slots := [] }) ∧
      s'.slot? t.team f.imm.toNat = none ∧ ∀ k, k ≠ f.imm.toNat → s'.slot? t.team k = s.slot? t.team k) ∧
  (∀ (f : IF) (s : State) (t : Tid) (x : Slot), alone s (.tqset f) t → s.slot? t.team f.imm.toNat = some x →
    let w := (s.groupOf t).sreg f.a.toNat
    ∃ s', exec (.tqset f) s = .next s' ∧ completed false s s' t id id (fun m => { m with slots := [] }) ∧
      s'.slot? t.team f.imm.toNat = some { x with nzx := w.extractLsb' 0 16, nzxen := w.getLsbD 16 } ∧
      ∀ k, k ≠ f.imm.toNat → s'.slot? t.team k = s.slot? t.team k))

/-- R12, R201, R202: JDECL binds a convergence register to a card and a number of signers. SIGN counts signatures after a
team-scope release; the last one reads the card, and where it is valid the job is queued and the register is issued. JWAIT
goes on, with an acquire, once the register is done or free, and waits until then. R203: ACCRD lands an element of a role-C
slot, converted; ACCWR writes one; ACCZ zeroes them all; each once no issued job names the slot as C. An element beyond the
slot traps TROUGH_RANGE. Forms whose own effect completes here: JDECL, SIGN, JWAIT, ACCRD, ACCWR, ACCZ. -/
def Obligations.JobsAndAccumulators : Prop :=
  ((∀ (f : TF) (s : State) (t : Tid), alone s (.jdecl f) t → ((s.thread t).areg f.a.toNat).sh.v = false →
    ((s.thread t).areg f.a.toNat).val.extractLsb' 0 7 = 0 → 1 ≤ (B s t f).toNat → (B s t f).toNat ≤ 2048 →
    f.d.toNat < (s.team t.team).jregs.length →
    (s.jreg t.team f.d.toNat).st = .free ∨ (s.jreg t.team f.d.toNat).st = .done →
    ∃ s', exec (.jdecl f) s = .next s' ∧ completed false s s' t id id (fun m => { m with jregs := [] }) ∧
      s'.jreg t.team f.d.toNat =
        ⟨((s.thread t).areg f.a.toNat).val.extractLsb' 0 56, BitVec.ofNat 12 (B s t f).toNat, 0, .bound⟩ ∧
      ∀ j, j ≠ f.d.toNat → s'.jreg t.team j = s.jreg t.team j) ∧
  (∀ (f : IF) (s s1 : State) (t : Tid), alone s (.sign f) t → f.imm.toNat < (s1.team t.team).jregs.length →
    let r := s.jreg t.team f.imm.toNat
    r.st = .bound → s.release t 2 = .done s1 → (s1.thread t).present = true → s1.jreg t.team f.imm.toNat = r →
    (r.signed + 1 ≠ r.signers → ∃ s', exec (.sign f) s = .next s' ∧
      completed true s1 s' t id id (fun m => { m with jregs := [] }) ∧
      s'.jreg t.team f.imm.toNat = { r with signed := r.signed + 1 } ∧
      ∀ j, j ≠ f.imm.toNat → s'.jreg t.team j = s1.jreg t.team j) ∧
    (r.signed + 1 = r.signers → (s.core (s.coreNum t)).jobs.length < 8 → ∀ s2 b x, s1.readPlain t r.va 8 = .ok s2 b →
      s2.jobOf t.team f.imm.toNat (BitVec.ofNat 1024 (leNat b)) = some x → (s2.thread t).present = true →
      f.imm.toNat < (s2.team t.team).jregs.length →
      ∃ s', exec (.sign f) s = .next s' ∧
        completed true s2 s' t id (fun k => { k with jobs := [] }) (fun m => { m with jregs := [] }) ∧
        (s'.core (s.coreNum t)).jobs = (s2.core (s.coreNum t)).jobs ++ [x] ∧
        s'.jreg t.team f.imm.toNat =
          { s2.jreg t.team f.imm.toNat with signed := (s2.jreg t.team f.imm.toNat).signed + 1, st := .issued })) ∧
  (∀ (f : IF) (s : State) (t : Tid), alone s (.jwait f) t →
    ((s.jreg t.team f.imm.toNat).st = .done ∨ (s.jreg t.team f.imm.toNat).st = .free →
      ∃ s', exec (.jwait f) s = .next s' ∧ completed false (s.acquire t 2) s' t id id id) ∧
    ((s.jreg t.team f.imm.toNat).st = .bound ∨ (s.jreg t.team f.imm.toNat).st = .issued → (s.team t.team).request = none →
      ∃ s', exec (.jwait f) s = .next s' ∧ onlyRegisters s s' [t] ∧ (s'.thread t).wait = .job f.imm.toNat ∧
        (s'.thread t).pc = (s.thread t).pc))) ∧
  (∀ (f : IF) (s : State) (t : Tid) (x : Slot), s.slot? t.team (f.imm.toNat % 16) = some x → recRole x.record = 2 →
    (∀ j ∈ (s.core (s.coreNum t)).jobs, j.team = t.team → cardC j.card ≠ f.imm.toNat % 16) →
    let k := ((s.thread t).vreg f.a.toNat).toNat
    let off := recToff x.record + 4 * k
    (k < recTlen x.record / 4 →
      (alone s (.accrd f) t → ∃ s', exec (.accrd f) s = .next s' ∧ onlyRegisters s s' [t] ∧ goesOn s s' t s.cur.next false ∧
        holdsV s s' t f.d.toNat (BitVec.ofNat 32 (convert (M s t f.p) (saturates f.p) (f.imm.toNat / 16) 0
          ((s.core (s.coreNum t)).trough.le off 4)))) ∧
      (alone s (.accwr f) t → ∃ s', exec (.accwr f) s = .next s' ∧ completed false s s' t id (fun k => { k with trough := [] }) id ∧
        (s'.core (s.coreNum t)).trough.le off 4 = ((s.thread t).vreg f.d.toNat).toNat ∧
        ∀ j, j < off ∨ off + 4 ≤ j → (s'.core (s.coreNum t)).trough.get j = (s.core (s.coreNum t)).trough.get j)) ∧
    (alone s (.accz f) t → 4 ≤ recTlen x.record → ∃ s', exec (.accz f) s = .next s' ∧
      completed false s s' t id (fun k => { k with trough := [] }) id ∧
      ∀ j, (s'.core (s.coreNum t)).trough.get j =
        if recToff x.record ≤ j ∧ j < recToff x.record + recTlen x.record then 0 else (s.core (s.coreNum t)).trough.get j) ∧
    (recTlen x.record / 4 ≤ k → ∀ i, (i = .accrd f ∨ i = .accwr f) → alone s i t → handled s t →
      ∃ s', exec i s = .next s' ∧ entersHandler s s' t .troughRange (BitVec.ofNat 64 k)))

namespace Sys2Proof.Claims

open Sys2Proof.Machine

/-! ### Steps that are no words -/

/-- The oldest command is done (18 R311): the count rises by one and the command leaves the queue; `errors` counts it as one
that failed. -/
def commandDone (s s' : State) (errors : Nat) : Prop :=
  s'.mgmt.cmdDone = s.mgmt.cmdDone + 1 ∧ s'.mgmt.cmds = s.mgmt.cmds.tail ∧ s'.mgmt.mgmtErr = s.mgmt.mgmtErr + BitVec.ofNat 64 errors

/-- Nothing of a context is under way (18 R323): every team of it has ended; no buffered store, access without acknowledgement,
delivery, copy in an engine, page request or private copy is of one of its teams. -/
def nothingOf (s : State) (c : Nat) : Prop :=
  let mine := fun (n : Nat) => (s.team n).ctx = c
  (∀ n, n < s.teams.length → mine n → (s.team n).status = .ended ∧ s.tids n = []) ∧
  (∀ k ∈ s.cores, (∀ e ∈ k.2.sb, ∀ b ∈ e.bytes, ¬mine b.by_.team) ∧ (∀ e ∈ k.2.wc, ∀ t ∈ e.writers, ¬mine t.team) ∧
    (∀ u ∈ k.2.unacked, ∀ t ∈ u.owners, ¬mine t.team) ∧ (∀ x ∈ k.2.out, (∀ n ∈ x.teams, ¬mine n) ∧ ∀ n, x.eng = some n → ¬mine n) ∧
    ∀ e, k.2.eng0 = some e ∨ k.2.eng1 = some e → ¬mine e.t.team) ∧
  (∀ r ∈ s.host.reqs, ∀ t ∈ r.waiters, ¬mine t.team) ∧ (∀ f ∈ s.home.flights, f.ctx ≠ c) ∧ (∀ a ∈ s.prqIn, a.ctx ≠ c) ∧
  (∀ e ∈ s.prq, e.ctx ≠ c) ∧ ∀ k ∈ s.clusters, k.ctx = c → k.privs = []

/-- The destination holds the value of a result that has landed (04 R82); physical register 0, a0, s0 and k0 discard it. -/
def hasLanded (g g' : Group) : Dst → Prop
  | .v i p x => (nthD Thread.none g'.threads i).v = if p = 0 ∨ g.threads.length ≤ i then (nthD Thread.none g.threads i).v
      else Sp.set (0 : Word) (nthD Thread.none g.threads i).v p x
  | .a i n x => (nthD Thread.none g'.threads i).a = if n = 0 ∨ g.threads.length ≤ i then (nthD Thread.none g.threads i).a
      else Sp.set AReg.zero (nthD Thread.none g.threads i).a n x
  | .s n x => g'.s = if n = 0 then g.s else Sp.set (0 : Word) g.s n x
  | .k n b x => ∀ j, j < 64 → n ≠ 0 → (Sp.get (0 : DWord) g'.k n).getLsbD j =
      if b.getLsbD j then x.getLsbD j else (Sp.get (0 : DWord) g.k n).getLsbD j

end Sys2Proof.Claims

/-! ### Steps of the module: results, homes, caches -/

/-- R82, R85, R148: a fixed-latency result lands in the cycle it is due, a variable-latency result when its delay is over, a
special-function result with its token; the destination then holds the value, and memory is as it was. Forms whose own effect
completes here: VARIABLE_LATENCY_RESULT, SF_RESULT, FIXED_LATENCY_RESULT. -/
def Obligations.ResultsLandWhenDue : Prop :=
  (∀ (s : State) (n g due : Nat) (e : Pend), s.arg.team = n → s.arg.grp = g → s.arg.len = due →
    (s.group n g).pend = [e] → e.due = some due → e.landed = false → n < s.teams.length → g < (s.team n).groups.length →
    ∃ s', exec .fixedLatencyResult s = .next s' ∧ hasLanded (s.group n g) (s'.group n g) e.dst ∧ module s' = module s ∧
      ∀ x ∈ (s'.group n g).pend, x.landed = true) ∧
  (∀ (s : State) (n g id : Nat) (e : Pend), s.arg.team = n → s.arg.grp = g → s.arg.id = id →
    (s.group n g).pend = [e] → e.due = none → e.id = id → e.landed = false → n < s.teams.length → g < (s.team n).groups.length →
    ∃ s', exec .variableLatencyResult s = .next s' ∧ hasLanded (s.group n g) (s'.group n g) e.dst ∧ module s' = module s ∧
      (s'.group n g).pend = []) ∧
  (∀ (s : State) (e : SfEntry), (s.core s.arg.core).sfq = [e] → e.id = s.arg.id → (s.thread e.t).present = true → e.phys ≠ 0 →
    ∃ s', exec .sfResult s = .next s' ∧ (s'.core s.arg.core).sfq = [] ∧ Sp.get (0 : Word) (s'.thread e.t).v e.phys = e.val ∧
      (∀ k ∈ (s'.thread e.t).tokens, k.num = e.tok → k.landed = true) ∧ module s' = module s)

/-- R239, R241, R244, R251: a store-buffer entry drains 64 cycles after its first store: into its clusters' private copies of the
line where there are such, otherwise to the home, whose bytes are then the entry's, where the home performs a write now; its
acknowledgement is awaited, and comes. R247: a refused request is made again after its back-off. R369: a write-combining
entry drains as one write once 2 µs have passed. R171, R238, R240, R241, R246: a delivered line is installed in its core's
L1, or refused and counted in the storing team; an invalidation removes given copies of its line, and the write that sent it
awaits one less; a drop notice removes a holder without given lines from its region; sibling regions without a conflict
merge. No byte of memory changes. Forms whose own effect completes here: GIVEN_FILL, DROP_NOTICE, LINE_INVALIDATION,
WRITE_ACK, STORE_BUFFER_DRAIN, HOME_RETRY, REGION_MERGE, WC_DRAIN. -/
def Obligations.StoresDrainAndLinesComeAndGo : Prop :=
  ((∀ (s : State) (c : Nat) (e : SbEntry), s.arg.core = c → s.arg.addr = e.line →
    (s.core c).sb = [e] → e.bytes ≠ [] → e.since + 64 ≤ s.cycle → keyTgt (e.line * 128) ≤ 1 →
    (∀ b ∈ e.bytes, b.off < 128 ∧ b.cow = none) → s.claimOf (granOf (e.line * 128)) = none →
    quietLine s (some c) e.line → (∀ j, j < 128 → s.partAt (e.line * 128 + j) = none) →
    ∀ near : Bool, (∀ b ∈ e.bytes, (s.priv? (s.team b.by_.team).cluster e.line).isSome = near) →
    ∃ s' u, exec .storeBufferDrain s = .next s' ∧ (s'.core c).sb = [] ∧
      (s'.core c).unacked = (s.core c).unacked ++ [u] ∧ u.line = e.line ∧ u.owners = distinct (e.bytes.map fun b => b.by_) ∧
      (∃ at_, (⟨at_, .writeAck, { core := c, id := u.id }⟩ : Due) ∈ s'.agenda) ∧
      if near then s'.mem = s.mem
      else (∀ j, j < 128 → s'.mem.get (e.line * 128 + j) = match e.bytes.reverse.find? fun b => b.off = j with
          | some b => b.val
          | none => s.mem.get (e.line * 128 + j)) ∧
        ∀ k, k / 128 ≠ e.line → s'.mem.get k = s.mem.get k) ∧
  (∀ (s : State), ∃ s', exec .writeAck s = .next s' ∧ module s' = module s ∧
    ∀ c, (s'.core c).unacked = if c = s.arg.core then (s.core c).unacked.filter fun u => u.id != s.arg.id else (s.core c).unacked) ∧
  (∀ (s : State), s.arg.nums = [] → s.arg.ok = false → (s.thread s.arg.tid).wait = .refused s.arg.addr →
    (s.thread s.arg.tid).present = true →
    ∃ s', exec .homeRetry s = .next s' ∧ (s'.thread s.arg.tid).wait = .none ∧ onlyRegisters s s' [s.arg.tid]) ∧
  (∀ (s : State) (c : Nat) (e : WcEntry), s.arg.core = c → s.arg.addr = e.line → (s.core c).wc = [e] →
    e.since + 6000 ≤ s.cycle → (s.core c).out.length < 256 → (∀ x ∈ (s.core c).out, x.line ≠ e.line) →
    ∃ s' x, exec .wcDrain s = .next s' ∧ s'.mem = s.mem ∧ (s'.core c).wc = [] ∧ (s'.core c).out = (s.core c).out ++ [x] ∧
      x.line = e.line ∧ x.owners = e.writers ∧
      s'.fab.sent = .write (keyPeer (e.line * 128)) (keyPa (e.line * 128) / 128) (e.bytes.map fun b => (b.off, b.val)) :: s.fab.sent)) ∧
  ((∀ (s : State) (f : Flight), s.home.flights = [f] → f.id = s.arg.id →
    ∃ s', exec .givenFill s = .next s' ∧ s'.home.flights = [] ∧ s'.mem = s.mem ∧
      if s.refusesGiven f.core f.ctx then
        (f.t.team < s.teams.length → (s'.team f.t.team).dlvref = BitVec.ofNat 32 (min 0xFFFFFFFF ((s.team f.t.team).dlvref.toNat + 1)))
      else f.stale = false → ∃ x ∈ (s'.core f.core).l1, x.line = f.line ∧ x.ctx = f.ctx ∧ x.data = f.data ∧ x.given = true ∧ x.hit = false) ∧
  (∀ (s : State), (∀ x ∈ s.home.txns, x.id ≠ s.arg.id) → ∃ s', exec .lineInvalidation s = .next s' ∧ s'.mem = s.mem ∧
    ∀ c, (s'.core c).l1 = if c = s.arg.core then (s.core c).l1.filter fun x => !(x.given && x.line = s.arg.addr) else (s.core c).l1) ∧
  (∀ (s : State) (x : HomeTxn) (c : Nat), s.arg.core = c → s.home.txns = [x] → x.id = s.arg.id → x.waits = [c] →
    (∀ k, x.who ≠ .buffer k) → ∃ s', exec .lineInvalidation s = .next s' ∧ s'.mem = s.mem ∧
      s'.home.txns = [{ x with waits := [] }] ∧
      (s'.core c).l1 = (s.core c).l1.filter fun x => !(x.given && x.line = s.arg.addr)) ∧
  (∀ (s : State) (r : Region), s.region? (s.arg.addr * 128) = some r → (∀ x ∈ (s.core s.arg.core).l1, x.given = false) →
    s.home.flights = [] → ∃ s', exec .dropNotice s = .next s' ∧ s'.mem = s.mem ∧
      s'.home.dir = s.home.dir.map fun x => if x = r then { x with given := x.given.filter fun k => k != s.arg.core } else x) ∧
  (∀ (s : State) (x y : Region) (size base : Nat), s.arg.len = size → 0 < size → size < 65536 → base % (2 * size) = 0 →
    s.arg.addr = base ∨ s.arg.addr = base + size → s.home.dir = [x, y] → x.slice = s.arg.id → y.slice = s.arg.id →
    x.size = size → y.size = size → x.addr = base → y.addr = base + size → x.quiet + 2 ^ 20 ≤ s.cycle → y.quiet + 2 ^ 20 ≤ s.cycle →
    ∃ s', exec .regionMerge s = .next s' ∧ s'.mem = s.mem ∧ s'.home.dir =
      [⟨s.arg.id, base, 2 * size, distinct (x.given ++ y.given), distinct (x.privs ++ y.privs), max x.quiet y.quiet⟩]))

/-- R189, R337: a wounded resident team loses its tentative lines, claims, held records, copies and jobs, and every thread of it
starts again at the team's entry with the contents of a team's start; its AGE and its arguments stay. Forms whose own effect
completes here: WOUND. -/
def Obligations.WoundsRestartTheTeam : Prop :=
  ∀ (s : State) (n : Nat), s.arg.team = n → n < s.teams.length → s.woundable n = true → (s.team n).status = .resident →
    s.allStopped n = false →
    ∃ s', exec .wound s = .next s' ∧ (s'.team n).age = (s.team n).age ∧ (s'.team n).status = .resident ∧
      (s'.team n).taskEnded = false ∧ (s'.team n).folds = [] ∧ (s'.team n).slots = [] ∧ (s'.team n).emits = [] ∧
      (s'.team n).scratch = [] ∧ (s'.team n).request = (s.team n).request ∧
      (∀ x ∈ s'.home.shadows, x.team ≠ n) ∧ (∀ c ∈ s'.home.claims, c.team ≠ n) ∧
      (∀ k ∈ (s'.core (s.team n).core).copyQ, k.t.team ≠ n) ∧ (∀ j ∈ (s'.core (s.team n).core).jobs, j.team ≠ n) ∧
      ∀ g j, g < (s.team n).groups.length → j < (s.team n).width →
        (s'.thread ⟨n, g, j⟩).present = true ∧ (s'.thread ⟨n, g, j⟩).pc = (s.team n).entry ∧
        (s'.thread ⟨n, g, j⟩).region = (s.team n).entry ∧ (s'.thread ⟨n, g, j⟩).v = [] ∧
        (s'.thread ⟨n, g, j⟩).areg 1 = ⟨(s.team n).args, Tether.clear⟩ ∧ (s'.thread ⟨n, g, j⟩).sys = false

/-! ### Commands -/

/-- R228, R229, R230: a back-off for a permit ends; a page request reaches the queue, its permit returns, and the thread waits
behind its entry; so does an engine's copy, and an engine's refused request is made again. R230, R311: command 5 completes a
page request as done, command 6 as failed: its entry is free, and a thread that waited for the page restarts at its region
entry, or takes TRANSLATION. A command on a context that is not enabled, a request that is not there and an undefined OP
count as errors. The cycle in which a following step is due is the model's (log entry 20). Forms whose own effect completes
here: PERMIT_BACKOFF_EXPIRY, PAGE_REQUEST_ARRIVAL, ENGINE_REQUEST_RETRY, REQUEST_DONE, REQUEST_FAILED, CTXCMD_INVALID. -/
def Obligations.RequestsAreQueuedAndCompleted : Prop :=
  ((∀ (s : State) (t : Tid) (til : Nat), s.arg = { t.arg with len := til } → (s.thread t).present = true →
    (s.thread t).wait = .backoff til →
    ∃ s', exec .permitBackoffExpiry s = .next s' ∧ (s'.thread t).wait = .none ∧ onlyRegisters s s' [t]) ∧
  (∀ (s : State) (t : Tid) (r : Request) (c : Nat), s.arg = { t.arg with core := c } → (s.thread t).wait = .request r →
    ∃ s', exec .pageRequestArrival s = .next s' ∧ { module s' with prqIn := [] } = { module s with prqIn := [] } ∧
      s'.prqIn = s.prqIn ++ [⟨(s.team t.team).ctx, r, some t, (c, 0)⟩] ∧ s'.teams = s.teams ∧ s'.cores = s.cores ∧
      (⟨s.cycle + 1, .pageRequestArrival, { ok := true }⟩ : Due) ∈ s'.agenda) ∧
  (∀ (s : State) (t : Tid) (a : PrqArrival), s.arg.ok = true → s.prqIn = [a] → a.thr = some t → (s.thread t).present = true →
    (s.thread t).wait = .request a.req → s.prq = [] → (s.core a.eng.1).permits < 4 →
    ∃ s' e, exec .pageRequestArrival s = .next s' ∧ s'.prqIn = [] ∧ s'.prq = [e] ∧ e.req = a.req ∧ e.waiters = [t] ∧
      e.ctx = a.ctx ∧ (s'.thread t).wait = .queued e.tag a.req ∧ (s'.thread t).pc = (s.thread t).pc ∧
      (s'.core a.eng.1).permits = (s.core a.eng.1).permits + 1 ∧ s'.mgmt.prqN = s.mgmt.prqN + 1) ∧
  (∀ (s : State) (a : PrqArrival) (k : Copy), s.arg.ok = true → s.prqIn = [a] → a.thr = none → a.eng.2 < 2 → s.prq = [] →
    s.engine a.eng.1 a.eng.2 = some k →
    ∃ s' e, exec .pageRequestArrival s = .next s' ∧ s'.prqIn = [] ∧ s'.prq = [e] ∧ e.req = a.req ∧ e.engines = [a.eng] ∧
      s'.engine a.eng.1 a.eng.2 = some { k with tag := some e.tag }) ∧
  (∀ (s : State), ∃ s', exec .engineRequestRetry s = .next s' ∧ module s' = module s ∧
    (⟨s.cycle + 1, .copyCompletion, { core := s.arg.core, id := s.arg.id }⟩ : Due) ∈ s'.agenda)) ∧
  ((∀ (s : State) (e : PrqEntry) (t : Tid), (s.ctx s.arg.ctx).en = true → s.prq = [e] → e.ctx = s.arg.ctx →
    e.tag = (s.arg.arg.extractLsb' 0 9).toNat → e.req.cause = .translation → e.waiters = [t] → e.engines = [] →
    (s.thread t).wait = .queued e.tag e.req → (s.thread t).present = true →
    (∃ s', exec .requestDone s = .next s' ∧ commandDone s s' 0 ∧ s'.prq = [] ∧ (s'.thread t).pc = (s.thread t).region ∧
      (s'.thread t).wait = .none ∧ s'.mem = s.mem) ∧
    (handled s t → ∃ s', exec .requestFailed s = .next s' ∧ commandDone s s' 0 ∧ s'.prq = [] ∧
      (s'.thread t).trapCause = BitVec.ofNat 32 Cause.translation.code ∧ (s'.thread t).trapAddr = e.req.addr ∧
      (s'.thread t).trapPc = (s.thread t).pc ∧ (s'.thread t).trapRgn = (s.thread t).region ∧ (s'.thread t).sys = true ∧
      (s'.thread t).pc = (s.ctxOf t).hbase)) ∧
  (∀ (s : State) (i : Instr), ((i = .requestDone ∨ i = .requestFailed ∨ i = .watchdogRestart ∨ i = .resumeTeam ∨ i = .endTeam ∨
      i = .disable) ∧ (s.ctx s.arg.ctx).en = false ∨ (i = .requestDone ∨ i = .requestFailed) ∧ s.prq = [] ∨ i = .ctxcmdInvalid) →
    ∃ s', exec i s = .next s' ∧ commandDone s s' 1 ∧ s'.mem = s.mem ∧ s'.teams = s.teams ∧ s'.ctxs = s.ctxs))

/-- R309, R310, R311: command 1 enables a context whose record can be enabled, with the values of its record; a write to live
fields of an enabled one takes effect. A record that cannot be enabled counts as an error. R317, R323, R324, R414: commands 3
and 4 remove the context's cached translations, all or those of a page, and complete once its older accesses have; 7 restarts
the watchdog; 8 ends every team of the context, and disables it where nothing of it is under way, or else is due again; 9
resumes a halted team, its reporting threads at their region entries, and 10 ends it. R324: a watchdog whose count has
reached its limit restarts, and every thread of a resident team of the context takes WATCHDOG: it is reported, or backs off
for a permit. The cycle in which a following step is due is the model's (log entry 20). Forms whose own effect completes
here: ENABLE, INVALIDATE_ALL, INVALIDATE_PAGE, WATCHDOG_RESTART, DISABLE, RESUME_TEAM, END_TEAM, WATCHDOG_EXPIRY,
LIVE_FIELD_TAKES_EFFECT. -/
def Obligations.ContextsAreCommanded : Prop :=
  (∀ (s : State), let c := s.arg.ctx
    let r := s.contextRecord c
    ((s.ctx c).en = false → s.contextOk c r = true →
      ∃ s', exec .enable s = .next s' ∧ s'.mgmt.cmdDone = s.mgmt.cmdDone + 1 ∧ (s'.ctx c).en = true ∧
        (s'.ctx c).ring = r.extractLsb' 288 64 ∧ (s'.ctx c).ringsz = r.extractLsb' 352 32 ∧ (s'.ctx c).hbase = r.extractLsb' 224 64 ∧
        (s'.ctx c).save = r.extractLsb' 576 64 ∧ (s'.ctx c).flog = r.extractLsb' 512 64 ∧ (s'.ctx c).undo = r.extractLsb' 416 64 ∧
        (s'.ctx c).undosz = r.extractLsb' 480 32 ∧ (s'.ctx c).wdlim = r.extractLsb' 64 32 ∧ (s'.ctx c).quant = r.extractLsb' 32 32 ∧
        (s'.ctx c).halt = r.getLsbD 2 ∧ (s'.ctx c).chksb = r.getLsbD 1 ∧ (s'.ctx c).part = (r.extractLsb' 8 6).toNat ∧
        (s'.ctx c).take = 0 ∧ (∀ d, d ≠ c → s'.ctx d = s.ctx d) ∧ s'.teams = s.teams) ∧
    ((s.ctx c).en = true ∨ s.contextOk c r = false →
      ∃ s', exec .enable s = .next s' ∧ commandDone s s' 1 ∧ s'.ctxs = s.ctxs ∧ s'.mem = s.mem) ∧
    ((s.ctx c).en = true → ∃ s', exec .liveFieldTakesEffect s = .next s' ∧
      s'.ctx c = { s.ctx c with wdlim := r.extractLsb' 64 32, quant := r.extractLsb' 32 32, halt := r.getLsbD 2, chksb := r.getLsbD 1 } ∧
      s'.mem = s.mem ∧ ∀ d, d ≠ c → s'.ctx d = s.ctx d)) ∧
  (∀ (s : State), (s.ctx s.arg.ctx).en = true → let c := s.arg.ctx
    (∀ i, i = .invalidateAll ∨ i = .invalidatePage → s.arg.len = 0 →
      ∃ s', exec i s = .next s' ∧ (∀ k, ∀ e ∈ (s'.core k).tlb, i = .invalidateAll → e.ctx ≠ c) ∧
        (∀ k, ∀ e ∈ (s'.core k).tlb, e.hits c ((s.arg.arg.extractLsb' 0 40).toNat * 65536) = false) ∧
        (∀ d, ∀ e ∈ Sp.get [] s'.dieTlb d, e.hits c ((s.arg.arg.extractLsb' 0 40).toNat * 65536) = false) ∧
        (⟨s.cycle, i, { s.arg with len := 1, addr := s.cycle }⟩ : Due) ∈ s'.agenda) ∧
    (∀ i, i = .invalidateAll ∨ i = .invalidatePage → 2 ≤ s.arg.len → s.oldAccesses c s.arg.id = false →
      s.oldCommits c s.arg.addr = false →
      ∃ s', exec i s = .next s' ∧ commandDone s s' 0 ∧ s'.mem = s.mem) ∧
    (∃ s', exec .watchdogRestart s = .next s' ∧ commandDone s s' 0 ∧ s'.ctx c = { s.ctx c with wdCount := 0 } ∧ s'.mem = s.mem) ∧
    (∃ s', exec .disable s = .next s' ∧ (∀ n, (s.team n).ctx = c → (s'.team n).status = .ended) ∧
      (s'.mgmt.cmdDone = s.mgmt.cmdDone + 1 ∧ s'.ctx c = Ctx.reset ∨ (⟨s.cycle + 1, .disable, s.arg⟩ : Due) ∈ s'.agenda) ∧
      (nothingOf s c → s'.mgmt.cmdDone = s.mgmt.cmdDone + 1 ∧ s'.ctx c = Ctx.reset)) ∧
    (∀ n, s.haltedTeam = some n → n < s.teams.length →
      (∃ s', exec .resumeTeam s = .next s' ∧ commandDone s s' 0 ∧ (s'.team n).halted = false ∧ s'.mem = s.mem ∧
        ∀ t ∈ s.tids n, (s'.thread t).pc = if (s.thread t).reported then (s.thread t).region else (s.thread t).pc) ∧
      ∃ s', exec .endTeam s = .next s' ∧ s'.mgmt.cmdDone = s.mgmt.cmdDone + 1 ∧ (s'.team n).status = .ended)) ∧
  (∀ (s : State), let c := s.arg.ctx
    (s.ctx c).en = true → (s.ctx c).wdlim ≠ 0 → (s.ctx c).wdlim.toNat * 1000 ≤ (s.ctx c).wdCount →
    ∃ s', exec .watchdogExpiry s = .next s' ∧ (s'.ctx c).wdCount = 0 ∧
      ∀ n, (s.team n).ctx = c → (s.team n).status = .resident → ∀ t ∈ s.tids n,
        (s'.thread t).reported = true ∨ ∃ til, (s'.thread t).wait = .backoff til)

namespace Sys2Proof.Claims

open Sys2Proof.Machine

/-- No byte of memory and no team has changed. -/
def sameTeamsAndMemory (s s' : State) : Prop := s'.mem = s.mem ∧ s'.teams = s.teams

/-- Memory holds the bytes at an address, and no other byte of it has changed. -/
def memoryWith (s s' : State) (a : Nat) (b : List Byte) : Prop :=
  (∀ j, j < b.length → s'.mem.get (a + j) = nthD 0 b j) ∧ ∀ k, k < a ∨ a + b.length ≤ k → s'.mem.get k = s.mem.get k

/-- No partition entry lies in a range, so that no write to it is refused (18 R321). -/
def freeOfParts (s : State) (a n : Nat) : Prop := ∀ j, j < n → s.partAt (a + j) = none

/-- Team `n` holds in `s'` what a team holds when it starts (01 R10, R12 to R14); `m` is the team before. -/
def startsAnew (m : Team) (s' : State) (n : Nat) : Prop :=
  (s'.team n).status = .resident ∧ (s'.team n).taskEnded = false ∧ (s'.team n).folds = [] ∧ (s'.team n).slots = [] ∧
  (s'.team n).emits = [] ∧ (s'.team n).scratch = [] ∧ (s'.team n).dlvref = 0 ∧
  (∀ j, j < 16 → (s'.team n).barriers[j]? = some ⟨false, 0, BitVec.ofNat 12 (m.width * m.groups.length), 0⟩) ∧
  (∀ j, j < 8 → (s'.jreg n j).st = .free) ∧
  ∀ g, g < m.groups.length →
    (∀ i, i < 15 → (s'.group n g).sreg (i + 1) = nthD 0 m.params i) ∧ (s'.group n g).k = [] ∧
    ∀ j, j < m.width → let x := s'.thread ⟨n, g, j⟩
      x.present = true ∧ x.pc = m.entry ∧ x.region = m.entry ∧ x.v = [] ∧ x.base = 16 ∧ x.fpcr = 1 ∧ x.rgncnt = 0 ∧
      x.sys = false ∧ x.areg 1 = ⟨m.args, Tether.clear⟩ ∧ x.areg 2 = ⟨BitVec.ofNat 64 windowBase, Tether.clear⟩ ∧
      ∀ r, 3 ≤ r → x.areg r = AReg.zero

/-- The cluster stands at its place: its teams on their cores, under its split. -/
def placedAt (s s' : State) (cl : Nat) (spots : List (Nat × Nat × Nat)) : Prop :=
  (s'.cluster cl).placed = true ∧ ∀ x ∈ spots, (s'.team x.1).status = .resident ∧ (s'.team x.1).core = x.2.1 ∧
    (s'.team x.1).lane0 = x.2.2 ∧ (s'.team x.1).quantum = s.quantum (s.cluster cl).ctx ∧ (s'.core x.2.1).split = some (s.cluster cl).split

/-- Team `n` holds in `s'` what its image at `base` held in `s`, in every part that `free` leaves: an address, and how many bytes of it
are read (19 R327, R331, R333). A register or a scratchpad byte that the save did not write is 0. -/
def holdsImage (s s' : State) (n base : Nat) (free : Nat → Nat → Prop) : Prop :=
  let m := s.team n
  (∀ a, a < m.scratchSize → free (base + 0x400000 + a) 1 →
    (s'.team n).scratch.get a = if keptByte m m.lent a then s.mem.get (base + 0x400000 + a) else 0) ∧
  (∀ t ∈ s.tids n, let x := s.thread t
    let i := m.width * t.grp + t.thr
    (∀ r, 1 ≤ r → r < 16 → free (base + 0x20000 + 384 * i + 24 * r) 24 → let at_ := base + 0x20000 + 384 * i + 24 * r
      (s'.thread t).areg r = if (match x.stop with
          | some (.phint d) => d.getLsbD (128 + r)
          | _ => true) then
          ⟨BitVec.ofNat 64 (s.mem.le at_ 8), ⟨(s.mem.get (at_ + 23)).getLsbD 7, BitVec.ofNat 63 (s.mem.le (at_ + 16) 8),
            BitVec.ofNat 48 (s.mem.le (at_ + 10) 6), BitVec.ofNat 16 (s.mem.le (at_ + 8) 2)⟩⟩
        else AReg.zero) ∧
    ∀ p, 1 ≤ p → p < m.vregs → free (base + 0x100000 + 4 * m.vregs * i + 4 * p) 4 →
      (∀ d, x.stop ≠ some (.phint d)) →
      Sp.get (0 : Word) (s'.thread t).v p = BitVec.ofNat 32 (s.mem.le (base + 0x100000 + 4 * m.vregs * i + 4 * p) 4)) ∧
  ∀ g, g < m.groups.length → allPhint (s.group n g).threads = false →
    (∀ r, 1 ≤ r → r < 64 → free (base + 0x1000 + 512 * g + 4 * r) 4 →
      (s'.group n g).sreg r = BitVec.ofNat 32 (s.mem.le (base + 0x1000 + 512 * g + 4 * r) 4)) ∧
    ∀ r, 1 ≤ r → r < 8 → free (base + 0x1000 + 512 * g + 256 + 8 * (r - 1)) 8 →
      Sp.get (0 : DWord) (s'.group n g).k r = BitVec.ofNat 64 (s.mem.le (base + 0x1000 + 512 * g + 256 + 8 * (r - 1)) 8)

/-- The module has written STATUS of a ring entry, and nothing else of memory. -/
def statusIs (s s' : State) (a st : Nat) : Prop := memoryWith s s' (a + 9) [BitVec.ofNat 8 st]

/-- The command log of a context is off, and the ring entry's STATUS is not its switch (25 R388). -/
def logOff (s : State) (c a : Nat) : Prop := s.dev (s.persEntry c + 51) 1 = 0 ∧ a + 9 ≠ s.persEntry c + 51

end Sys2Proof.Claims

/-! ### Engines -/

/-- R195, R276: a free engine takes the head of the copy queue. A plain copy's element is read from the scratchpad, its cluster's
private copy or its home, and written at its own address, after which the walk is over where it was the last. R191, R196: a
copy that has been walked and whose writes are acknowledged frees its engine and makes one update of its gate with the bytes
it has written, which breaks the gate where a fault ended it. The cycle in which a following step is due is the model's (log
entry 20). That an element is read and written at the private copy of the issuing thread's cluster or else the home, and at
no L1 copy, is log entry 40; that a gate update does not wait for lent bytes is log entry 36; that BRK is set after the
update is log entry 92. Forms whose own effect completes here: COPY_START, COPY_COMPLETION. -/
def Obligations.EnginesMoveCopies : Prop :=
  (∀ (s : State) (c : Nat) (k : Copy), s.arg.core = c → (s.core c).copyQ = [k] → (s.core c).eng0 = none →
    ∃ s', exec .copyStart s = .next s' ∧ (s'.core c).copyQ = [] ∧ (s'.core c).eng0 = some k ∧ sameTeamsAndMemory s s' ∧
      (⟨s.cycle + 1, .copyCompletion, { core := c, id := 0 }⟩ : Due) ∈ s'.agenda) ∧
  (∀ (s s1 s2 : State) (c e : Nat) (k : Copy) (b : List Byte) (l : EngLoc), s.arg.core = c → s.arg.id = e →
    s.engine c e = some k → s.engineArrived c e = false → k.tag = none → k.ask = none → k.walked = false → k.kind = .plain → badHead k.head = false →
    headCvt k.head = false → k.pos + 1 = elements k.dims →
    let size := headEsize k.head
    let src := wrap64 (elementAt (headSrc k.head) dimSrc k.dims (counters k.pos k.dims) none)
    let dst := wrap64 (elementAt (headDst k.head) dimDst k.dims (counters k.pos k.dims) none)
    s.engineRead c e (linePieces src size) = .ok s1 b → dst % 128 + size ≤ 128 →
    s1.enginePlace c e k dst size Need.engineWrite = .at_ s2 l →
    ((∃ off, l = .scratch off) ∨ ∃ p leaf, l = .mem p leaf ∧ p.tgt ≤ 1 ∧ freeOfParts s2 p.key size) →
    ∃ s', exec .copyCompletion s = .next s' ∧
      s'.engine c e = some { k with pos := k.pos + 1, got := [], bad := none, walked := true } ∧
      (∀ off, l = .scratch off → scratchpadWith (s2.team k.t.team) (s'.team k.t.team) off b ∧ s'.mem = s2.mem) ∧
      ∀ p leaf, l = .mem p leaf → memoryWith s2 s' p.key b ∧ s'.teams = s2.teams) ∧
  (∀ (s : State) (c e va n : Nat) (k : Copy), s.engine c e = some k → placeOf va = .scratch →
    va - windowBase + n ≤ 0x200000 → va - windowBase + n ≤ (s.team k.t.team).scratchSize →
    s.engineRead c e [(va, n)] = .ok s ((s.team k.t.team).scratch.bytes (va - windowBase) n)) ∧
  (∀ (s s1 : State) (c e va n : Nat) (k : Copy) (p : Phys) (leaf : Option TlbEntry), s.engine c e = some k →
    s.engineLocate k.t.team va n Need.engineRead = (s1, .mem p leaf) → p.tgt ≤ 1 →
    (∀ x, s1.claimOf (granOf p.key) = some x → x.committing = false) →
    ∃ s2, s.engineRead c e [(va, n)] = .ok s2 (match s1.priv? (s1.team k.t.team).cluster (lineOf p.key) with
      | some q => (List.range n).map fun i => lineByte q.data (p.key % 128 + i)
      | none => s1.mem.bytes p.key n) ∧ s2.mem = s1.mem) ∧
  (∀ (s : State) (c e : Nat) (k : Copy), s.arg.core = c → s.arg.id = e → s.engine c e = some k → s.engineArrived c e = false →
    k.tag = none → k.ask = none →
    k.walked = true → k.outs = [] → (s.team k.t.team).status = .resident → s.tids k.t.team ≠ [] →
    (k.fault = none ∨ ∃ r, k.fault = some (r, true)) →
    ∃ s', exec .copyCompletion s = .next s' ∧ s'.engine c e = none ∧ s'.mem = s.mem ∧
      if k.gate = 0xFFFFFFFF then (s'.team k.t.team).scratch = (s.team k.t.team).scratch
      else
        let g := gateUpdate (s.gateWord k.t.team k.gate.toNat) (State.copyBytes k) 0 true
        gateIs (s.team k.t.team) (s'.team k.t.team) k.gate.toNat (if k.fault.isSome then g ||| (1#128 <<< 126) else g)) ∧
  (∀ (s : State) (c e : Nat) (k : Copy) (r : Request), s.arg.core = c → c < 1536 → s.arg.id = e → s.engine c e = some k →
    s.engineArrived c e = false → k.tag = none → k.ask = none → k.walked = true → k.outs = [] → (s.team k.t.team).status = .resident → s.tids k.t.team ≠ [] →
    k.fault = some (r, false) → k.gate = 0xFFFFFFFF →
    let x := s.ctx (s.team k.t.team).ctx
    let a := x.flog.toNat + 16 * (x.flogN.toNat % 256)
    freeOfParts s a 16 →
    ∃ s', exec .copyCompletion s = .next s' ∧ s'.engine c e = none ∧ (s'.ctx (s.team k.t.team).ctx).flogN = x.flogN + 1 ∧
      s'.mem.le a 4 = x.flogN.toNat ∧ s'.mem.le (a + 5) 1 = r.cause.code ∧ s'.mem.le (a + 6) 2 = c ∧ s'.mem.le (a + 8) 8 = r.addr.toNat)

/-- R280, R282: the job at the head of its core's queue begins with CLEAR or CIN of its C tiles. R279, R339: the two converters
enter tiles of blocks into the trough, in ascending order, every one, or after a resumption those that steps to come name.
R43, R44, R280: a K-step adds to each element of its C tile the group sum of the rows of its A and B tiles, twice in two-limb
mode, and to no other byte of the trough. R199, R201, R280: a job that ends writes OUT, updates its gate, and sets its
register's ST to done. The cycle in which a following step is due is the model's (log entry 20). That entered blocks stand
one after another from TOFF, a second limb in the upper half, is log entry 47; that a gate update does not wait for lent
bytes is log entry 36. Forms whose own effect completes here: TROUGH_ENTRY, KSTEP, JOB_COMPLETION, JOB_START. -/
def Obligations.JobsRunStepByStep : Prop :=
  (∀ (s : State) (c : Nat) (x : Job), s.arg.core = c → (s.core c).jobs = [x] → x.live = false → x.started = false →
    cardBcast x.card = false → (s.team x.team).scratch.wf = true → let r := x.slotC.record
    ∃ s' b, exec .jobStart s = .next s' ∧ (s'.core c).jobs = [{ x with started := true, live := true, busy := b }] ∧
      (∀ t, State.nextA x = some t →
        (⟨s.cycle + max 1 (State.tileCycles x.slotA.record t), .troughEntry, { core := c, id := x.id, ok := true }⟩ : Due) ∈ s'.agenda) ∧
      (∀ t, State.nextB x = some t →
        (⟨s.cycle + max 1 (State.tileCycles x.slotB.record t), .troughEntry, { core := c, id := x.id }⟩ : Due) ∈ s'.agenda) ∧
      sameTeamsAndMemory s s' ∧
      ∀ j, (s'.core c).trough.get j = if recToff r ≤ j ∧ j < recToff r + cardTc x.card * 16384 then
          (if cardClear x.card then 0 else if cardCin x.card then (s.team x.team).scratch.get (recSoff r + (j - recToff r))
           else (s.core c).trough.get j)
        else (s.core c).trough.get j) ∧
  (∀ (s : State) (c t : Nat) (x : Job) (a : Bool), s.arg.core = c → s.arg.id = x.id → s.arg.ok = a → (s.core c).jobs = [x] →
    x.live = true → cardBcast x.card = false → let slot := if a then x.slotA else x.slotB
    let r := slot.record
    let limb := a && cardLimb x.card
    let size := blockBytes (recBl r) (recM r)
    (if a then State.nextA x else State.nextB x) = some t → (if limb then 2 else 1) * (recBlocks r * size) ≤ recTlen r →
    ∃ s' b, exec .troughEntry s = .next s' ∧ sameTeamsAndMemory s s' ∧
      (s'.core c).jobs = [{ x with tilesA := if a then t + 1 else x.tilesA, tilesB := if a then x.tilesB else t + 1, busy := b }] ∧
      ∀ q, t * (2048 / recBl r) ≤ q → q < (t + 1) * (2048 / recBl r) → q < recBlocks r →
        (s'.core c).trough.bytes (recToff r + q * size) size = (State.entryBlock slot limb q).1 ∧
        (limb = true → recFmt r ≠ 6 → recM r = 8 →
          (s'.core c).trough.bytes (recToff r + recTlen r / 2 + q * size) size = (State.entryBlock slot true q).2)) ∧
  (∀ (x : Job), x.again = false →
    State.nextA x = (if x.tilesA < State.sourceTiles x.slotA.record then some x.tilesA else none) ∧
    State.nextB x = if x.tilesB < State.sourceTiles x.slotB.record then some x.tilesB else none) ∧
  (∀ (x : Job) (t : Nat), x.again = true → State.nextA x = some t →
    x.tilesA ≤ t ∧ t < State.sourceTiles x.slotA.record ∧
    (∃ p, x.pos ≤ p ∧ p < cardSteps x.card ∧ t = (linear (cardAstr x.card) (stepCounters x.card p)).toNat) ∧
    ∀ u, x.tilesA ≤ u → u < t → ∀ p, x.pos ≤ p → p < cardSteps x.card → u ≠ (linear (cardAstr x.card) (stepCounters x.card p)).toNat) ∧
  (∀ (s : State) (c : Nat) (x : Job), s.arg.core = c → s.arg.id = x.id → (s.core c).jobs = [x] → x.busy = true → x.set_ = [] →
    cardBcast x.card = false → let ra := x.slotA.record
    let rb := x.slotB.record
    let m := (s.core c).trough
    let is := stepCounters x.card x.pos
    let ta := (linear (cardAstr x.card) is).toNat
    let tb := (linear (cardBstr x.card) is).toNat
    let base := recToff x.slotC.record + (linear (cardCstr x.card) is).toNat * 16384
    let sum := fun (off r n : Nat) => State.groupSum (recM ra) (recM rb)
      (((List.range 32).filter fun k => 32 * (ta % cardKt x.card) + k < cardK x.card).map fun k =>
        (State.troughElement m off (recBl ra) (recM ra) ta (r * 32 + k), State.troughElement m (recToff rb) (recBl rb) (recM rb) tb (n * 32 + k)))
    ∃ s' b, exec .kstep s = .next s' ∧ sameTeamsAndMemory s s' ∧ (s'.core c).jobs = [{ x with pos := x.pos + 1, busy := b }] ∧
      (∀ r n, r < 64 → n < 64 → let old := m.le (base + (r * 64 + n) * 4) 4
        let new := State.accumulate old (sum (recToff ra) r n)
        (s'.core c).trough.le (base + (r * 64 + n) * 4) 4 =
          (if cardLimb x.card then State.accumulate new (sum (recToff ra + recTlen ra / 2) r n) else new) % 2 ^ 32) ∧
      ∀ j, j < base ∨ base + 16384 ≤ j → (s'.core c).trough.get j = m.get j) ∧
  (∀ (s : State) (c : Nat) (x : Job), s.arg.core = c → s.arg.id = x.id → s.arg.ok = false → (s.core c).jobs = [x] →
    (s.team x.team).status = .resident → s.tids x.team ≠ [] → x.j < (s.team x.team).jregs.length →
    let gate := (cardGate x.card).toNat
    let b := if cardOut x.card then State.outBytes (s.core c).trough x else []
    cardGate x.card = 0xFFFFFFFF ∨ gate + 16 ≤ cardOutoff x.card ∨ cardOutoff x.card + b.length ≤ gate →
    ∃ s', exec .jobCompletion s = .next s' ∧ (s'.core c).jobs = [] ∧ (s'.jreg x.team x.j).st = .done ∧ s'.mem = s.mem ∧
      (∀ p ∈ (s'.team x.team).slots, p.1 = cardA x.card ∨ p.1 = cardB x.card → p.2.used = true) ∧
      (∀ j, j < b.length → (s'.team x.team).scratch.get (cardOutoff x.card + j) = nthD 0 b j) ∧
      (cardGate x.card ≠ 0xFFFFFFFF → s'.gateWord x.team gate = gateUpdate (s.gateWord x.team gate) (cardOutBytes x.card) 0 true) ∧
      ∀ k, (k < cardOutoff x.card ∨ cardOutoff x.card + b.length ≤ k) → (cardGate x.card = 0xFFFFFFFF ∨ k < gate ∨ gate + 16 ≤ k) →
        (s'.team x.team).scratch.get k = (s.team x.team).scratch.get k) ∧
  (∀ (s : State) (c : Nat) (x : Job), s.arg.core = c → s.arg.id = x.id → s.arg.ok = true → (s.core c).jobs = [x] →
    (s.team x.team).status = .resident → s.tids x.team ≠ [] → cardGate x.card ≠ 0xFFFFFFFF →
    ∃ s', exec .jobCompletion s = .next s' ∧ (s'.core c).jobs = [] ∧ (s'.core c).trough = (s.core c).trough ∧
      gateIs (s.team x.team) (s'.team x.team) (cardGate x.card).toNat
        (gateUpdate (s.gateWord x.team (cardGate x.card).toNat) 0 0 true ||| (1#128 <<< 126)))

/-! ### The dispatcher -/

/-- R300, R333, R335: of the clusters that wait, the one that has waited longest among those that fit, of equals the one of the
grid accepted first, is placed whole, and its teams start with the contents of a team's start; one with a saved team resumes:
its scratchpad and registers hold what its image in the save area holds, and every thread goes on where it was. By log entry
19 the image lies where the header says at the resumption, and what the parts without a stated layout hold (pc, FPCR, region)
the team has kept. The cycle in which a following step is due is the model's (log entry 20). Forms whose own effect completes
here: CLUSTER_PLACEMENT, TEAM_RESUME. -/
def Obligations.ClustersArePlacedAndResumed : Prop :=
  (∀ (s : State) (cl : Nat) (spots : List (Nat × Nat × Nat)), s.firstFitting = some (cl, spots) →
    (∀ k ∈ s.clusters, k.grid < 2 ^ 64) → cl ∈ s.waiting ∧ s.clusterFits cl [] = some spots ∧
    ∀ k ∈ s.waiting, ((s.cluster k).since < (s.cluster cl).since ∨
      (s.cluster k).since = (s.cluster cl).since ∧ (s.cluster k).grid < (s.cluster cl).grid) → s.clusterFits k [] = none) ∧
  (∀ (s : State) (cl : Nat) (spots : List (Nat × Nat × Nat)), s.firstFitting = some (cl, spots) →
    (s.hasSaved cl = true → ∃ s', exec .clusterPlacement s = .next s' ∧ sameTeamsAndMemory s s' ∧
      (⟨s.cycle, .teamResume, { id := cl }⟩ : Due) ∈ s'.agenda) ∧
    (s.hasSaved cl = false → (spots.map Prod.fst).Nodup → (∀ x ∈ spots, (s.team x.1).status = .waiting) →
      ∃ s', exec .clusterPlacement s = .next s' ∧ placedAt s s' cl spots ∧
        ∀ x ∈ spots, startsAnew (s.team x.1) s' x.1 ∧ (s'.team x.1).age = (s.team x.1).age)) ∧
  (∀ (s : State) (cl : Nat) (spots : List (Nat × Nat × Nat)), s.arg.id = cl → s.waiting.contains cl = true →
    s.clusterFits cl [] = some spots → (spots.map Prod.fst).Nodup →
    (∀ x ∈ spots, (s.team x.1).status = .saved ∧ (s.team x.1).expired = false) →
    ∃ s', exec .teamResume s = .next s' ∧ placedAt s s' cl spots ∧ ∀ x ∈ spots,
      (s'.team x.1).slots = (s.team x.1).slots ∧ (s'.team x.1).block = none ∧
      (s'.team x.1).request = none ∧ (∀ j ∈ (s.team x.1).jobs, j ∈ (s'.core x.2.1).jobs) ∧
      (∀ t ∈ s.tids x.1, (s'.thread t).present = true ∧ (s'.thread t).pc = (s.thread t).pc ∧
        (s'.thread t).fpcr = (s.thread t).fpcr ∧ (s'.thread t).sys = (s.thread t).sys ∧
        (s'.thread t).region = (s.thread t).region ∧ (s'.thread t).stop = none ∧
        (s'.thread t).wait = State.resumedWait (s.thread t).wait) ∧
      let free := fun (a n : Nat) => ∀ y ∈ spots, ∀ c, (s.team y.1).block = some c →
        let bit := (s.ctx (s.team y.1).ctx).save.toNat + 64 + c / 8
        bit < a ∨ a + n ≤ bit
      free (s.ctx (s.team x.1).ctx).save.toNat 64 → ∀ b k at_, (s.team x.1).block = some b →
        s.saveHeader (s.team x.1).ctx = some (k, at_) → holdsImage s s' x.1 (at_ + b * 2 ^ 23) free)

/-- R301: a cluster that has waited a quantum without fitting has the first rectangle drained that would fit if it were empty and
whose teams can all be saved. R326, R328: a waiting cluster that fits nowhere has the resident cluster saved that is past its
quantum, the longest resident first; a request takes a save block and stops the threads that wait; R329: 20 µs later every
thread stops at a bundle boundary. R327, R330, R331, R332: a team whose threads have all stopped is saved once its results
have landed, its system-scope release is complete, its copies have ended and its job has stopped: its jobs leave the core,
its scratchpad and the role-C bytes of its trough are written to its block, whose place the header gave at the request (log
entry 19), and a thread that stopped at PHINT keeps the registers that its record names, any other thread all of them. Forms
whose own effect completes here: DRAIN_DECISION, QUANTUM_EXPIRY, FULL_STOP_TIMEOUT, TEAM_SAVE. -/
def Obligations.TeamsAreStoppedAndSaved : Prop :=
  ((∀ (s : State) (cl : Nat), s.waiting = [cl] → let k := s.cluster cl
    (k.draining ≠ [] ∨ s.cycle < k.since + s.quantum k.ctx ∨ (s.clusterFits cl []).isSome = true →
      ∃ s', exec .drainDecision s = .next s' ∧ sameTeamsAndMemory s s' ∧ s'.clusters = s.clusters) ∧
    (k.draining = [] → k.since + s.quantum k.ctx ≤ s.cycle → s.clusterFits cl [] = none → cl < s.clusters.length →
      ∀ cores, ((rectangles k.rows k.cols).find? fun cs => (s.rectFits cl (s.onCores cs) cs).isSome &&
          s.allSaveable (s.onCores cs)) = some cores →
        ∃ s', exec .drainDecision s = .next s' ∧ (s'.cluster cl).draining = cores)) ∧
  (∀ (s : State) (p w k n b : Nat), distinct (s.waiting.map s.partOf) = [p] → s.stuck p = some w →
    (∀ j ∈ s.residentClusters p, ∀ m ∈ s.liveTeams j, (s.team m).request = none) →
    ((s.residentClusters p).find? fun j => s.pastQuantum j && (s.clusterFits w (s.liveTeams j)).isSome) = some k →
    s.liveTeams k = [n] → s.freeBlock? (s.team n).ctx = some b →
    ∃ s', exec .quantumExpiry s = .next s' ∧ (s'.team n).request = some s.cycle ∧ (s'.team n).block = some b ∧
      (⟨s.cycle + 20 * usCycles, .fullStopTimeout, { team := n, len := s.cycle }⟩ : Due) ∈ s'.agenda ∧
      ∀ t ∈ s.tids n, (s'.thread t).stop = if (s.thread t).wait.stops then some .wait else (s.thread t).stop) ∧
  (∀ (s : State) (n : Nat), s.arg.team = n → (s.team n).status = .resident → (s.team n).request = some s.arg.len →
    ∃ s', exec .fullStopTimeout s = .next s' ∧ s'.mem = s.mem ∧ ∀ t ∈ s.tids n,
      (s'.thread t).pc = (s.thread t).pc ∧ (s'.thread t).stop =
        if (s.thread t).stop.isNone && !s.inBundle t then some .full else (s.thread t).stop)) ∧
  (∀ (s s1 s2 : State) (n : Nat), s.arg.team = n → (s.team n).status = .resident → s.allStopped n = true → s.committing n = false →
    (s.landTeam n).releaseTeam n = (s1, true) → s1.copiesLeft n = false → s1.stopJobs n = (s2, true) →
    ∃ s', exec .teamSave s = .next s' ∧ (s'.team n).status = .saved ∧ (s'.team n).request = none ∧
      (∀ j ∈ (s'.core (s2.team n).core).jobs, j.team ≠ n) ∧
      (s'.team n).jobs.map (fun j => j.id) = ((s2.core (s2.team n).core).jobs.filter fun j => j.team = n).map (fun j => j.id) ∧
      ((s2.team n).block.isSome = true → let base := (s2.team n).imageAt
        ((s2.team n).scratchSize ≤ 0x200000 → ∀ a, a < (s2.team n).scratchSize → keptByte (s2.team n) (s2.lentRanges n) a = true →
          s'.mem.get (base + 0x400000 + a) = (s2.team n).scratch.get a ∧ (s'.team n).scratch.get a = (s2.team n).scratch.get a) ∧
        ∀ p ∈ (s2.team n).slots, recRole p.2.record = 2 → ∀ i, i < recTlen p.2.record →
          s'.mem.get (base + 0x600000 + recToff p.2.record + i) = (s2.core (s2.team n).core).trough.get (recToff p.2.record + i)) ∧
      ∀ t ∈ s2.tids n, let x := s2.thread t
        (s'.thread t).pc = x.pc ∧ (s'.thread t).wait = x.wait ∧ (s'.thread t).fpcr = x.fpcr ∧ (s'.thread t).region = x.region ∧
        (∀ r, x.stop = some (.phint r) →
          (∀ p, Sp.get (0 : Word) (s'.thread t).v p = if (List.range 128).any fun i => r.getLsbD i && physOf x.base i = p then Sp.get (0 : Word) x.v p else 0) ∧
          ∀ i, 1 ≤ i → i < 16 → (s'.thread t).areg i = if r.getLsbD (128 + i) then x.areg i else AReg.zero) ∧
        ((∀ r, x.stop ≠ some (.phint r)) → (s'.thread t).v = x.v ∧ (s'.thread t).a = x.a))

/-! ### Submission -/

/-- R295, R311: RING takes the entries from the take index to RINGTAIL, in ring order, and the take index becomes RINGTAIL; a
tail that lies more than RINGSZ ahead takes nothing and counts as an error. R296 to R299: a launch entry goes behind an
earlier one that has still to be taken, as one that awaits host or peer memory; it is rejected with its STATUS, or its grid
begins, its teams with the record's values, their indices and their age stamps, and STATUS becomes 0x01. That the entries are
due in the cycle of the command is log entry 20; that one goes behind one that awaits far memory is log entry 83. Forms whose
own effect completes here: LAUNCH_ENTRY, RING. -/
def Obligations.RingsAndLaunchesAreTaken : Prop :=
  (∀ (s : State), let c := s.arg.ctx
    let k := s.ctx c
    let tail := s.dev (s.ctxRecord c + 48) 4
    let n := (tail + 2 ^ 32 - k.take.toNat) % 2 ^ 32
    k.en = true →
    (n ≤ k.ringsz.toNat → ∃ s', exec .ringCommand s = .next s' ∧ commandDone s s' 0 ∧ sameTeamsAndMemory s s' ∧
      (s'.ctx c).take = BitVec.ofNat 32 tail ∧
      ∀ i, i < n → let a := k.ring.toNat + 16 * ((k.take.toNat + i) % 2 ^ 32 % k.ringsz.toNat)
        let ty := ((s.ringEntryAt a).extractLsb' 64 4).toNat
        s'.agenda[i]? = some ⟨s.cycle, (if ty = 1 then .graphLoad else if ty = 2 then .graphUnload else .launchEntry),
          { ctx := c, addr := a, id := (k.take.toNat + i) % 2 ^ 32 }⟩) ∧
    (k.ringsz.toNat < n → ∃ s', exec .ringCommand s = .next s' ∧ commandDone s s' 1 ∧ sameTeamsAndMemory s s' ∧ s'.ctxs = s.ctxs)) ∧
  (∀ (s : State), let c := s.arg.ctx
    let a := s.arg.addr
    let e := s.ringEntryAt a
    let va := (e.extractLsb' 0 64).toNat
    (∀ d, s.ringBehind c = some d → ∃ s', exec .launchEntry s = .next s' ∧ sameTeamsAndMemory s s' ∧ (⟨max d s.cycle, .launchEntry, s.arg⟩ : Due) ∈ s'.agenda) ∧
    (s.partAt (a + 9) = none → s.ringBehind c = none →
    (State.badEntry e = true → ∃ s', exec .launchEntry s = .next s' ∧ statusIs s s' a 0x10 ∧ s'.teams = s.teams) ∧
    (State.badEntry e = false → va % 64 ≠ 0 → ∃ s', exec .launchEntry s = .next s' ∧ statusIs s s' a 0x11 ∧ s'.teams = s.teams) ∧
    (State.badEntry e = false → va % 64 = 0 → s.awaits (c + 1) c (State.pieces64 va 2) = (s, false) →
      (∀ s1, s.modulePieces c va 2 = (s1, none) → ∃ s', exec .launchEntry s = .next s' ∧ statusIs s1 s' a 0x11 ∧ s'.teams = s1.teams) ∧
      ∀ s1 b, s.modulePieces c va 2 = (s1, some b) → let r := BitVec.ofNat 1024 (leNat b)
        (∀ st, s1.launchStatus c r = some st → ∃ s', exec .launchEntry s = .next s' ∧ statusIs s1 s' a st ∧ s'.teams = s1.teams) ∧
        (s1.launchStatus c r = none → logOff s1 c a →
          let rows := launchField r 180 4
          let cols := launchField r 176 4
          let now := s1.gtime / 16
          let tick := if s1.time.tick < now then now else s1.time.tick
          let seq := if s1.time.tick < now then 0 else s1.time.seq
          ∃ s' g, exec .launchEntry s = .next s' ∧ statusIs s1 s' a 1 ∧ s'.grids = s1.grids ++ [g] ∧ g.ringEntry = some a ∧
            g.record = e.extractLsb' 0 64 ∧ g.left = launchField r 144 32 ∧ s'.teams.length = s1.teams.length + rows * cols ∧
            s'.time.tick = tick + (seq + g.nTeams) / 128 ∧ s'.time.seq = (seq + g.nTeams) % 128 ∧
            ∀ i, i < rows * cols → let m := s'.team (s1.teams.length + i)
              m.status = .waiting ∧ m.ctx = c ∧ m.idTeam = BitVec.ofNat 32 i ∧ m.idCluster = 0 ∧ m.inCluster = i ∧
              m.nTeams = r.extractLsb' 144 32 ∧ m.nClTeams = rows * cols ∧ m.width = launchField r 128 8 ∧
              m.groups.length = launchField r 136 6 ∧ m.vregs = 16 * launchField r 184 8 ∧ m.scratchSize = launchField r 224 32 ∧
              m.entry = r.extractLsb' 0 64 ∧ m.args = r.extractLsb' 64 64 ∧ (∀ j, j < 15 → nthD 0 m.params j = r.extractLsb' (256 + 32 * j) 32) ∧
              m.age = (BitVec.ofNat 44 (tick + (seq + i) / 128) ++ Config.moduleNumber ++ BitVec.ofNat 7 ((seq + i) % 128) : DWord)))))

/-- R296, R302 to R304: a graph load is rejected with its STATUS, or the context's graph is the one that the header and the
descriptors make, with its path values; a graph unload is rejected while a bin holds a record or a node team has not ended,
and otherwise leaves no graph. R305, R306, R307, R308: a node's timer makes a node with records eligible. The eligible node
of highest rank is launched where its team fits: a team starts with the count of its records in s1 and the batch's address in
a1, and its oldest records leave the bin. 19 R335: a cluster that waits in the partition and fits has begun to wait earlier,
and is placed first. The cycle in which a following step is due is the model's (log entry 20). The first-fit place in the
batch area is log entry 53; STATUS 0x20 for the header's own fields and 0x01 for an unload without a graph are log entry 54.
Forms whose own effect completes here: NODE_TIMER_EXPIRY, NODE_DISPATCH, GRAPH_LOAD, GRAPH_UNLOAD. -/
def Obligations.GraphsRunTheirNodes : Prop :=
  ((∀ (s : State), let c := s.arg.ctx
    let a := s.arg.addr
    let e := s.ringEntryAt a
    let va := (e.extractLsb' 0 64).toNat
    s.partAt (a + 9) = none → s.ringBehind c = none →
    (State.badEntry e = true → ∃ s', exec .graphLoad s = .next s' ∧ statusIs s s' a 0x10 ∧ s'.ctxs = s.ctxs) ∧
    (State.badEntry e = false → va % 64 ≠ 0 → ∃ s', exec .graphLoad s = .next s' ∧ statusIs s s' a 0x11 ∧ s'.ctxs = s.ctxs) ∧
    (State.badEntry e = false → va % 64 = 0 → s.awaits (c + 1) c (s.headerParts a ++ s.nodeParts c a) = (s, false) →
      ∀ s1 b, s.moduleRead c va 64 = (s1, some b) → let h := BitVec.ofNat 512 (leNat b)
      let table := (h.extractLsb' 0 64).toNat
      let n := (h.extractLsb' 192 8).toNat + 1
      let odd := h.extractLsb' 200 312 ≠ 0 ∨ h.extractLsb' 128 16 ≠ 0 ∨ h.extractLsb' 64 16 ≠ 0
      (table % 128 ≠ 0 → ∃ s', exec .graphLoad s = .next s' ∧ statusIs s1 s' a 0x20 ∧ s'.ctxs = s1.ctxs) ∧
      (table % 128 = 0 → ∀ s2, (s1.readNodes c table n = (s2, none) → ∃ s', exec .graphLoad s = .next s' ∧ statusIs s2 s' a 0x11 ∧ s'.ctxs = s2.ctxs) ∧
        ∀ ds, s1.readNodes c table n = (s2, some ds) →
          let good := ¬odd ∧ (∀ d ∈ ds, nodeOk n d = true) ∧ s2.shapeFits c 1 1 = true
          (¬good → ∃ s', exec .graphLoad s = .next s' ∧ statusIs s2 s' a 0x20 ∧ s'.ctxs = s2.ctxs) ∧
          (good → none ∈ pathValues ds n → ∃ s', exec .graphLoad s = .next s' ∧ statusIs s2 s' a 0x21 ∧ s'.ctxs = s2.ctxs) ∧
          (good → none ∉ pathValues ds n → (s2.ctx c).graph.isSome = true →
            ∃ s', exec .graphLoad s = .next s' ∧ statusIs s2 s' a 0x22 ∧ s'.ctxs = s2.ctxs) ∧
          ∀ ls : List Nat, good → pathValues ds n = ls.map some → (s2.ctx c).graph = none → logOff s2 c a →
            ∃ s' g, exec .graphLoad s = .next s' ∧ statusIs s2 s' a 1 ∧ (s'.ctx c).graph = some g ∧ g.binArea = h.extractLsb' 128 64 ∧
              g.batchArea = h.extractLsb' 64 64 ∧ g.batches = [] ∧ g.nodes.length = n ∧
              ∀ i k, g.nodes[i]? = some k → ds[i]? = some k.desc ∧ ls[i]? = some k.path ∧ k.bin = [] ∧ k.reserved = 0 ∧
                k.addr = BitVec.ofNat 64 (table + 128 * i)))) ∧
  (∀ (ds : List (BitVec 1024)) (n i : Nat) (d : BitVec 1024) (l : Nat), ds[i]? = some d → (pathValues ds (n + 1))[i]? = some (some l) →
    l = (d.extractLsb' 208 16).toNat + (nodeSuccs d).foldl (fun x j => max x (((pathValues ds n)[j]?.join).getD 0)) 0) ∧
  (∀ (s : State), let c := s.arg.ctx
    let a := s.arg.addr
    let busy := (∃ g, (s.ctx c).graph = some g ∧ ∃ k ∈ g.nodes, k.bin ≠ [] ∨ k.reserved ≠ 0) ∨ s.nodeTeams c = true
    s.partAt (a + 9) = none → s.ringBehind c = none →
    (State.badEntry (s.ringEntryAt a) = true → ∃ s', exec .graphUnload s = .next s' ∧ statusIs s s' a 0x10 ∧ s'.ctxs = s.ctxs) ∧
    (State.badEntry (s.ringEntryAt a) = false → busy → ∃ s', exec .graphUnload s = .next s' ∧ statusIs s s' a 0x22 ∧ s'.ctxs = s.ctxs) ∧
    (State.badEntry (s.ringEntryAt a) = false → ¬busy → logOff s c a →
      ∃ s', exec .graphUnload s = .next s' ∧ statusIs s s' a 1 ∧ (s'.ctx c).graph = none))) ∧
  ((∀ (s : State) (k : Node), s.node? s.arg.ctx s.arg.id = some k → k.timer = some s.arg.len → k.bin ≠ [] →
    ∃ s', exec .nodeTimerExpiry s = .next s' ∧ s'.node? s.arg.ctx s.arg.id = some { k with expired := true } ∧
      sameTeamsAndMemory s s' ∧ (⟨s.cycle + 1, .nodeDispatch, { ctx := s.arg.ctx }⟩ : Due) ∈ s'.agenda) ∧
  (∀ (s s1 : State) (g : Graph) (n : Nat) (k : Node), (s.ctx s.arg.ctx).graph = some g → State.ranked g = [(n, k)] →
    s.olderFits (s.ctx s.arg.ctx).part = false →
    s.awaits (s.arg.ctx + 1) s.arg.ctx (s.entryParts s.arg.ctx) = (s, false) → s.tryNode s.arg.ctx g.batchArea n k = some s1 → let rs := s.taken k
    ∃ s', exec .nodeDispatch s = .next s' ∧ rs ≠ [] ∧ rs.length ≤ State.nodeCoal k.desc ∧
      (∃ k', s'.node? s.arg.ctx n = some k' ∧ k'.bin = k.bin.drop rs.length) ∧
      let m := s'.team s.teams.length
      m.status = .resident ∧ m.ctx = s.arg.ctx ∧ m.node = some n ∧ m.record = k.addr ∧ m.params.head? = some (BitVec.ofNat 32 rs.length) ∧
      ∃ at_, s.batchPlace s.arg.ctx (rs.length * State.nodeRsize k.desc) = some at_ ∧ m.batch = some at_ ∧ m.args = g.batchArea + BitVec.ofNat 64 at_) ∧
  (∀ (s : State), s.olderFits (s.ctx s.arg.ctx).part = true → ∃ s', exec .nodeDispatch s = .next s' ∧ sameTeamsAndMemory s s' ∧
    s'.ctxs = s.ctxs ∧ (⟨s.cycle + 1, .clusterPlacement, {}⟩ : Due) ∈ s'.agenda ∧
    (⟨s.cycle + 1, .nodeDispatch, { ctx := s.arg.ctx }⟩ : Due) ∈ s'.agenda) ∧
  (∀ (s : State) (g : Graph), (s.ctx s.arg.ctx).graph = some g → s.olderFits (s.ctx s.arg.ctx).part = false →
    s.awaits (s.arg.ctx + 1) s.arg.ctx (s.entryParts s.arg.ctx) = (s, false) → (∀ k ∈ State.ranked g, s.tryNode s.arg.ctx g.batchArea k.1 k.2 = none) →
    ∃ s', exec .nodeDispatch s = .next s' ∧ sameTeamsAndMemory s s' ∧ s'.ctxs = s.ctxs) ∧
  (∀ (k : Node), State.eligible k = true ↔ State.nodeCoal k.desc ≤ k.bin.length ∨ (k.expired = true ∧ k.bin ≠ [])))

/-- R347: the bytes of a pool object arrive in its heap pages, zeroed beyond its size, and its entry is resident; R347, R351: an
object that has gone home leaves its entry absent, with the next generation, and frees its pages, and each line written since
its fetch has been written at its home. Forms whose own effect completes here: OBJECT_FETCH_COMPLETE, EVICTION_COMPLETE. -/
def Obligations.ObjectsArriveAndLeave : Prop :=
  (∀ (s : State) (slot : Nat), s.arg.addr = slot → s.arg.ok = true → s.arg.nums = [] → let e := s.cEntry slot
    let at_ := s.mgmt.commonsBase.toNat + 64 * slot
    let k := State.poolKey e.haddr
    e.st = 1 → e.home = 1 → (s.run? slot).any (fun r => r.fetch = s.arg.id) = true → s.poolLost k e.size = none → s.mem.wf = true →
    (∀ l ∈ s.poison, l * 128 + 127 < k ∨ k + e.size ≤ l * 128) → freeOfParts s at_ 64 →
    at_ + 64 ≤ e.back ∨ e.back + pagesOf e.size * 65536 ≤ at_ → e.back + pagesOf e.size * 65536 ≤ 2 ^ 48 →
    ∃ s', exec .objectFetchComplete s = .next s' ∧ s'.cEntry slot = { e with st := 2 } ∧
      ∀ i, i < pagesOf e.size * 65536 → s'.mem.get (e.back + i) = if i < e.size then s.mem.get (k + i) else 0) ∧
  (∀ (s : State) (slot : Nat) (r : ObjRun) (l : Nat), s.arg.addr = slot → s.home.runs = [r] → r.slot = slot → r.written = [l] →
    let e := s.cEntry slot
    let at_ := s.mgmt.commonsBase.toNat + 64 * slot
    e.st = 3 → e.home = 1 → r.back ≤ l * 128 → l * 128 - r.back + 128 ≤ e.size → e.haddr + e.size ≤ 2 ^ 48 → at_ + 64 ≤ 2 ^ 48 →
    l * 128 + 128 ≤ 2 ^ 48 → (∀ c, (s.core c).sb = []) → (∀ k ∈ s.clusters, k.privs = []) → freeOfParts s at_ 64 →
    freeOfParts s (2 ^ 48) (2 ^ 48) →
    (∀ i n, i + n ≤ 128 → 0 < n → s.poolLost (State.poolKey (e.haddr + (l * 128 - r.back) + i)) n = none) →
    ∃ s', exec .evictionComplete s = .next s' ∧ s'.cEntry slot = { e with st := 0, gen := e.gen + 1 } ∧ s'.home.runs = [] ∧
      ∀ i, i < 128 → s'.mem.get (State.poolKey (e.haddr + (l * 128 - r.back) + i)) = s.mem.get (l * 128 + i))

namespace Sys2Proof.Claims

open Sys2Proof.Machine

/-- The thread has entered its handler (10 R221, R225), whatever else the step did. -/
def trapEntered (s s' : State) (t : Tid) (c : Cause) (addr : DWord) : Prop :=
  (s'.thread t).trapCause = BitVec.ofNat 32 c.code ∧ (s'.thread t).trapPc = (s.thread t).pc ∧
  (s'.thread t).trapRgn = (s.thread t).region ∧ (s'.thread t).trapAddr = addr ∧ (s'.thread t).sys = true ∧
  (s'.thread t).pc = (s.ctxOf t).hbase

/-- What an answer from the host or a peer brings its thread (23 R359, R360, R368, 27 R400); `atomic` is an AtomicOp of the host
port. -/
def replyFor (atomic : Bool) : Completion → Reply
  | .success x => .data x
  | .unsupported => if atomic then .unsupported else .failed .accessViolation
  | .abort => .failed .accessViolation
  | .poisoned => .failed .dataPoison

/-- The only thread of a request or transaction waits for its answer. -/
def awaits (s : State) (id : Nat) (ts : List Tid) (t : Tid) : Prop :=
  ts = [t] ∧ ∃ before last, (s.thread t).wait = .answer id before last

/-- No context logs the commands that write the range, whose window it falls outside of, and the range holds no persistence
entry (25 R388). -/
def notLogged (s : State) (a n : Nat) : Prop :=
  (∀ c, c < 4096 → let e := s.persEntry c
    s.dev (e + 51) 1 = 0 ∨ a + n ≤ s.dev (e + 8) 8 ∨ s.dev (e + 8) 8 + s.dev (e + 4) 4 * 65536 ≤ a) ∧
  (a + n ≤ s.mgmt.persTab.toNat ∨ s.mgmt.persTab.toNat + 262144 ≤ a)

/-- An acknowledgement says which flit a port has not yet received in sequence and which of the next 64 it holds (23 R366). -/
def acknowledges (x : Port) (a : Nat × DWord) : Prop :=
  a.1 = x.expect ∧ ∀ i, i < 64 → (a.2.getLsbD i = true ↔ ∃ f ∈ x.reseq, f.seq = (x.expect + i) % 4096)

/-- The port has sent an acknowledgement of what it has received, and is otherwise as `x`. -/
def portAcks (s' : State) (p : Nat) (x : Port) : Prop :=
  ∃ a, s'.port p = { x with acked := some a } ∧ acknowledges x a

/-- Receive slots that the partition owns, and shared ones, in use on a port (23 R367). -/
def reservedUsed (s : State) (p part : Nat) : Nat := ((s.usedFlits p).filter fun u => u.1 = part && !u.2).length
def sharedUsed (s : State) (p : Nat) : Nat := ((s.usedFlits p).filter fun u => u.2).length

/-- A port that sends: up, trained, nothing waiting. -/
def idlePort (x : Port) : Prop := x.up = true ∧ x.training = false ∧ x.backlog = []

/-- Where the next record of the error log goes (27 R406). -/
def nextRecord (s : State) : Nat := s.mgmt.errLog.toNat + 32 * (s.repair.errN % 4096)

/-- The next record of the error log can be written as the spec lays it out. -/
def canLog (s : State) : Prop := freeOfParts s (nextRecord s) 32 ∧ s.gtime < 2 ^ 64 ∧ s.repair.errN < 2 ^ 92

/-- One record has been written to the error log (27 R406), and nothing else of memory has changed. -/
def logged (s s' : State) (cls addr unit : Nat) : Prop :=
  let a := nextRecord s
  s'.repair.errN = s.repair.errN + 1 ∧ s'.mem.le a 8 = s.gtime ∧ s'.mem.le (a + 21) 1 = cls ∧ s'.mem.le (a + 22) 2 = unit ∧
  s'.mem.le (a + 24) 8 = addr % 2 ^ 48 ∧ ∀ k, k < a ∨ a + 32 ≤ k → s'.mem.get k = s.mem.get k

/-- The mask of a write-combining entry is full (23 R369). -/
def maskFull (e : WcEntry) : Prop := ∀ i, i < 128 → ∃ b ∈ e.bytes, b.off % 128 = i

/-- What a flit carries may act now: nothing that has arrived before it and waits shares a granule with it (23 R366), and no home
refuses its write (11 R247). -/
def actsNow (s : State) (p : Nat) (l : Payload) : Prop :=
  s.behindWaiting l = false ∧ (State.payloadWrites l = true → s.portHeld (p + 1) (State.payloadLines l) = false)

end Sys2Proof.Claims

/-! ### The host port -/

/-- R359, R360: a completion frees its request, and the thread that waits for it takes its data or its error; a fetch's line
joins its team's code; an engine goes on with the bytes. A request without a completion for 50 ms ends as lost. R361, R362: a
read of BAR2 is answered with the home's bytes, a write is applied there once no task holds a granule of it and no home
refuses it (11 R247), an AtomicOp of 4 or 8 bytes is performed there and answered with the old value. R362: a failover makes
the other port active and sends the writes that were not acknowledged again, and AtomicOps outstanding are lost. R364: after
a snoop of a pool line no core and no cluster holds a copy of it, and memory holds what the other host wrote there; a home
with a write of the line in progress refuses it for a back-off (11 R247). A pool port that does not answer is down until it
answers again, and an access through it is LINK_LOST. The cycle in which a following step is due is the model's (log entry
20). That a held BAR2 write waits whole and is applied in one step is log entry 58; that a pool port is down until an input
marks it up is log entry 57. Forms whose own effect completes here: HOST_COMPLETION, HOST_COMPLETION_TIMEOUT, HOST_BAR2_READ,
HOST_BAR2_WRITE, HOST_ATOMICOP, PORT_FAILOVER, BACK_INVALIDATE, POOL_TIMEOUT. -/
def Obligations.HostAndPoolAnswer : Prop :=
  ((∀ (s : State) (q : HostReq) (t : Tid), s.host.reqs = [q] → q.id = s.arg.id → q.fetch = false → awaits s q.id q.waiters t →
    (∃ s', exec .hostCompletion s = .next s' ∧ s'.host.reqs = [] ∧ s'.mem = s.mem ∧
      (s'.thread t).reply = replyFor q.op.isSome s.arg.result ∧ (s'.thread t).wait = (s.thread t).wait) ∧
    ∃ s', exec .hostCompletionTimeout s = .next s' ∧ s'.host.reqs = [] ∧ s'.mem = s.mem ∧ (s'.thread t).reply = .failed .linkLost) ∧
  (∀ (s : State) (q : HostReq) (t : Tid) (x : Line), s.host.reqs = [q] → q.id = s.arg.id → q.fetch = true → awaits s q.id q.waiters t →
    s.arg.result = .success x → ∃ s', exec .hostCompletion s = .next s' ∧ s'.host.reqs = [] ∧ (s'.thread t).wait = .none ∧
      (lineOf (2 * 2 ^ 48 + q.addr), x) ∈ (s'.core (s.coreNum t)).code) ∧
  (∀ (s : State) (q : HostReq) (f : FarOp), s.host.reqs = [q] → q.id = s.arg.id → q.fetch = false → q.waiters = [] →
    s.mgmt.far = [f] → f.id = q.id → f.reply = .none →
    ∃ s', exec .hostCompletion s = .next s' ∧ s'.host.reqs = [] ∧ sameTeamsAndMemory s s' ∧
      s'.mgmt.far = [{ f with reply := replyFor q.op.isSome s.arg.result }]) ∧
  (∀ (s : State) (q : HostReq) (c e key len : Nat) (k : Copy) (x : Line), s.host.reqs = [q] → q.id = s.arg.id → q.fetch = false →
    q.waiters = [] → s.arg.result = .success x → s.cores.map Prod.fst = [c] → e < 2 → s.engine c e = some k →
    k.ask = some (q.id, key, len) → ∃ s', exec .hostCompletion s = .next s' ∧
      s'.engine c e = some { k with ask := none, got := k.got ++ bytesAt key (leBytes len x.toNat) } ∧
      (⟨s.cycle + 1, .copyCompletion, { core := c, id := e }⟩ : Due) ∈ s'.agenda) ∧
  (∀ (s : State), let a := s.arg.addr
    let n := s.arg.len
    (s.rangeCommitting a n = false → ∃ s' bad, exec .hostBar2Read s = .next s' ∧ sameTeamsAndMemory s s' ∧
      s'.host.answers = ⟨a, s.mem.bytes a n, bad, true⟩ :: s.host.answers ∧
      (bad = true ↔ ∃ l ∈ s.poison, l * 128 < a + n ∧ a < l * 128 + 128)) ∧
    (s.rangeCommitting a n = true → ∃ s', exec .hostBar2Read s = .next s' ∧ s'.host = s.host ∧
      (⟨s.cycle + 64, .hostBar2Read, s.arg⟩ : Due) ∈ s'.agenda)) ∧
  (∀ (s : State), let a := s.arg.addr
    let b := s.arg.bytes
    b ≠ [] → s.host.inbound = [] →
    (s.rangeHeld a b.length = false → s.portHeld 0 (State.linesAt a b.length) = false → freeOfParts s a b.length → notLogged s a b.length →
      ∃ s', exec .hostBar2Write s = .next s' ∧ memoryWith s s' a b ∧ s'.teams = s.teams ∧ s'.host.inbound = []) ∧
    (s.rangeHeld a b.length = true ∨ s.portHeld 0 (State.linesAt a b.length) = true → ∃ s', exec .hostBar2Write s = .next s' ∧ sameTeamsAndMemory s s' ∧
      s'.host.inbound = [⟨a, b, s.arg.ok⟩] ∧ (⟨s.cycle + 64, .hostBar2Write, {}⟩ : Due) ∈ s'.agenda)) ∧
  (∀ (s : State), let a := s.arg.addr
    let n := s.arg.len
    let o := s.mem.le a n
    let x := s.arg.x.toNat % 256 ^ n
    let y := s.arg.y.toNat % 256 ^ n
    (n ≠ 4 → n ≠ 8 → ∃ s', exec .hostAtomicop s = .next s' ∧ sameTeamsAndMemory s s' ∧ s'.host.answers = ⟨a, [], false, false⟩ :: s.host.answers) ∧
    (n = 4 ∨ n = 8 →
      (s.rangeHeld a n = true ∨ s.backingOff (.port 0) (lineOf a) = true →
        ∃ s', exec .hostAtomicop s = .next s' ∧ s'.mem = s.mem ∧ (⟨s.cycle + 64, .hostAtomicop, s.arg⟩ : Due) ∈ s'.agenda) ∧
      (s.rangeHeld a n = false → s.backingOff (.port 0) (lineOf a) = false → s.lineTaken (.port 0) (lineOf a) = true →
        ∃ s', exec .hostAtomicop s = .next s' ∧ s'.mem = s.mem ∧ s'.host = s.host ∧
          ∃ d ∈ s'.agenda, d.ev = .hostAtomicop ∧ d.arg = s.arg ∧ s.cycle + 32 ≤ d.at_) ∧
      (s.portHeld 0 [lineOf a] = false → s.rangeHeld a n = false → s.poisoned (lineOf a) = true → ∃ s', exec .hostAtomicop s = .next s' ∧ s'.mem = s.mem ∧
        s'.host.answers = ⟨a, s.mem.bytes a n, true, true⟩ :: s.host.answers) ∧
      (s.portHeld 0 [lineOf a] = false → s.rangeHeld a n = false → s.poisoned (lineOf a) = false → freeOfParts s a n →
        ∃ s', exec .hostAtomicop s = .next s' ∧ s'.host.answers = ⟨a, s.mem.bytes a n, false, true⟩ :: s.host.answers ∧
          s'.mem.le a n = (match s.arg.op with
            | .fetchAdd => (o + x) % 256 ^ n
            | .swap => x
            | .cas => if o = x then y else o) ∧
          ∀ k, k < a ∨ a + n ≤ k → s'.mem.get k = s.mem.get k))) ∧
  (∀ (s : State) (q : HostReq) (t : Tid), s.host.reqs = [q] → q.fetch = false → awaits s q.id q.waiters t →
    ∃ s', exec .portFailover s = .next s' ∧ s'.mem = s.mem ∧ s'.host.active = 1 - s.host.active ∧
      s'.host.posted = s.host.posted ++ s.host.posted.drop (s.host.posted.length - s.arg.len) ∧
      if q.op.isSome then s'.host.reqs = [] ∧ (s'.thread t).reply = .failed .linkLost
      else s'.host.reqs = [q] ∧ (s'.thread t).reply = (s.thread t).reply) ∧
  (∀ (s : State) (c kind addr len payload : Nat), let e := s.persEntry c
    let sh := s.dev (e + 51) 1
    let n := s.clogN c
    let slot := s.dev (e + 56) 8 + 256 * (n % 2 ^ sh)
    sh ≠ 0 → n < 2 ^ 64 → payload < 2 ^ 1024 → kind < 16 → len < 256 → addr < 2 ^ 64 → freeOfParts s slot 256 → freeOfParts s (e + 52) 4 →
    e + 64 ≤ slot ∨ slot + 256 ≤ e →
    let s' := s.commandLog c kind addr len payload
    s'.clogN c = n + 1 ∧ s'.dev (e + 52) 4 = (n + 1) % 2 ^ 32 ∧ s'.mem.le slot 128 = payload ∧ s'.mem.le (slot + 142) 1 = 16 * kind ∧
    s'.mem.le (slot + 143) 1 = len ∧ s'.mem.le (slot + 144) 8 = addr ∧ s'.mem.le (slot + 152) 8 = n)) ∧
  ((∀ (s : State), let l := s.arg.addr
    let quiet := (∀ x ∈ s.home.txns, x.line ≠ l) ∧ ∀ r ∈ s.home.refused, r.line ≠ l
    quiet → (∀ k ∈ s.clusters, ∀ p ∈ k.privs, p.line ≠ l) → s.arg.bytes.length ≤ 128 →
    ∃ s', exec .backInvalidate s = .next s' ∧ memoryWith s s' (l * 128) s.arg.bytes ∧
      s'.fab.sent = .snooped l :: s.fab.sent ∧ (∀ c, ∀ x ∈ (s'.core c).l1, x.line ≠ l) ∧
      ∀ f ∈ s'.home.flights, f.line = l → f.stale = true) ∧
  (∀ (s : State) (n : Nat) (k : Cluster) (p : PrivCopy), let l := s.arg.addr
    (∀ x ∈ s.home.txns, x.line ≠ l) → (∀ r ∈ s.home.refused, r.line ≠ l) → s.clusters = [k] → k.privs = [p] → p.line = l → p.dirty = true → s.arg.bytes = [] → placeOf p.va ≠ .mapped →
    freeOfParts s (l * 128) 128 → n < 128 →
    ∃ s', exec .backInvalidate s = .next s' ∧ s'.mem.get (l * 128 + n) = lineByte p.data n ∧ s'.priv? 0 l = none ∧
      s'.fab.sent = .snooped l :: s.fab.sent) ∧
  (∀ (s : State), let l := s.arg.addr
    s.lineTaken (.port 0) l = true → s.backingOff (.port 0) l = false → ∃ s', exec .backInvalidate s = .next s' ∧ sameTeamsAndMemory s s' ∧
      s'.fab = s.fab ∧ ∃ d ∈ s'.agenda, d.ev = .backInvalidate ∧ d.arg = s.arg ∧ s.cycle + 32 ≤ d.at_) ∧
  (∀ (s : State), ∃ s', exec .poolTimeout s = .next s' ∧ sameTeamsAndMemory s s' ∧
    (∀ p, s'.fab.poolDown.contains p = if p = s.arg.id then !s.arg.ok else s.fab.poolDown.contains p) ∧
    ∀ (pa : Nat) (va : DWord), s.arg.ok = false → pa / 2 ^ 45 % 8 = s.arg.id → s'.poisoned (lineOf (2 ^ 48 + pa)) = false → s'.extentOf pa = none →
      s'.lateFault ⟨1, 0, pa, false⟩ va true = some (Request.of .linkLost va)))

/-! ### The fabric -/

/-- R366, R367: a flit in sequence is passed on once and acts at the home: a read, an atomic and a comparison are answered with
the bytes from before it and the mark of a poisoned line (27 R400), a write, an addition and a merge of a nibble are applied
and acknowledged, a poison write marks its line and is logged (27 R406). One out of sequence is kept in a slot that its
partition owns or, where none of those is free, in a shared one; without a free slot it is not received; one that has been
received already only has the acknowledgement sent again. What must wait, for a granule, for a home that refuses its write
(11 R247), or behind what has arrived before it and waits for the same granule, keeps its slot and is looked at again 64
cycles later (log entry 20). An acknowledgement frees the flits it covers and has the missing ones sent again; without one
for 1 µs the oldest is sent again; the eighth resend of a flit retrains the link, and a retrained link sends what is held
again. R367: a flit that waited goes out once its partition has a credit with the leaf, its own before a shared one. R368: a
response frees its entry and goes to the thread that waits for it; an acknowledgement of a write frees its entry. R369: a
write-combining entry whose mask is full drains when the table has an entry for it. R370, R371: an entry without a response
for 100 µs, or 20 ms for a group, is freed: a read or an atomic ends with LINK_LOST, a release that awaits the write traps
LINK_LOST at its address, and another write sets its team's lost flag. That the leaf gives a credit back with the
acknowledgement is log entry 84; which record a poison write has is log entry 64. Forms whose own effect completes here:
FLIT_RECEIVE, LINK_ACK, REPLAY_TIMEOUT, FABRIC_RESPONSE, TRANSACTION_EXPIRY, LINK_RETRAIN_COMPLETE. -/
def Obligations.FabricMessagesArriveOnceOrExpire : Prop :=
  ((∀ (s : State), let p := s.arg.id
    let q := s.arg.len % 4096
    let x := s.port p
    let part := s.arg.team
    let free := reservedUsed s p part < s.fbuf part
    let shared := sharedUsed s p < s.sharedSlots
    let new := s.arg.addr
    s.arg.ok = false →
    ((512 ≤ State.seqAhead q x.expect ∨ ∃ f ∈ x.reseq, f.seq = q) →
      ∃ s', exec .flitReceive s = .next s' ∧ sameTeamsAndMemory s s' ∧ portAcks s' p x) ∧
    (State.seqAhead q x.expect < 512 → (∀ f ∈ x.reseq, f.seq ≠ q ∧ f.seq ≠ x.expect) →
      (¬ free → ¬ shared → exec .flitReceive s = .next s) ∧
      (q ≠ x.expect → free ∨ shared → ∃ s', exec .flitReceive s = .next s' ∧ sameTeamsAndMemory s s' ∧
        portAcks s' p { x with reseq := x.reseq ++ [⟨q, payloadOf s.arg, part, decide (¬ free)⟩] })) ∧
    (q = x.expect → x.reseq = [] → free ∨ shared →
      (∃ s', exec .flitReceive s = .next s' ∧ (s'.port p).expect = (q + 1) % 4096 ∧ (s'.port p).reseq = [] ∧
        (s'.port p).passed = x.passed + 1 ∧ ∃ a, (s'.port p).acked = some a ∧ acknowledges (s'.port p) a) ∧
      (s.payloadWaits (payloadOf s.arg) = true ∨ ¬ actsNow s p (payloadOf s.arg) → ∃ s', exec .flitReceive s = .next s' ∧
        sameTeamsAndMemory s s' ∧ s'.fab.sent = s.fab.sent ∧
        s'.fab.waits = s.fab.waits ++ [(p, ⟨q, payloadOf s.arg, part, decide (¬ free)⟩)] ∧
        (⟨s.cycle + 64, .flitReceive, { ok := true }⟩ : Due) ∈ s'.agenda) ∧
      (actsNow s p (payloadOf s.arg) →
      (∀ peer, s.arg.nums = [1, peer] → s.rangeCommitting new s.arg.len = false →
        ∃ s', exec .flitReceive s = .next s' ∧ s'.mem = s.mem ∧
          ∃ bad, s'.fab.sent = .answer peer new (s.mem.bytes new s.arg.len) bad :: s.fab.sent ∧
            (bad = true ↔ ∃ l ∈ s.poison, l * 128 < new + s.arg.len ∧ new < l * 128 + 128)) ∧
      (∀ peer a b, s.arg.nums = [2, peer] → s.arg.image = bytesAt a b → b ≠ [] → (∀ j, j < b.length → s.rangeHeld (a + j) 1 = false) →
        freeOfParts s a b.length →
        ∃ s', exec .flitReceive s = .next s' ∧ memoryWith s s' a b ∧ s'.fab.sent = .acked peer a :: s.fab.sent) ∧
      (∀ peer op w u v, s.arg.nums = [3, peer, op, w, u, v] → s.rangeHeld new w = false → s.poisoned (lineOf new) = false →
        freeOfParts s new w → (w = 4 ∨ w = 8) →
        ∃ s', exec .flitReceive s = .next s' ∧ s'.fab.sent = .answer peer new (s.mem.bytes new w) false :: s.fab.sent ∧
          s'.mem.le new w =
            (atomFn op (w = 8) (BitVec.ofNat 64 (s.mem.le new w)) (BitVec.ofNat 64 u) (BitVec.ofNat 64 v)).toNat % 256 ^ w ∧
          ∀ k, k < new ∨ new + w ≤ k → s'.mem.get k = s.mem.get k) ∧
      (∀ peer fmt rm, let n := s.arg.bytes.length
        s.arg.nums = [4, peer, fmt, rm] → s.rangeHeld new n = false → freeOfParts s new n →
        ∃ s', exec .flitReceive s = .next s' ∧ s'.fab.sent = .acked peer new :: s.fab.sent ∧
          memoryWith s s' new (leBytes n (addElement fmt rm (s.mem.le new n) (leNat s.arg.bytes)))) ∧
      (s.arg.nums.headD 0 = 5 → canLog s → p < 65536 →
        ∃ s', exec .flitReceive s = .next s' ∧ s'.poisoned new = true ∧ logged s s' 10 (new * 128) p) ∧
      (∀ peer high y, s.arg.nums = [6, peer, high, y] → s.rangeHeld new 1 = false → freeOfParts s new 1 →
        ∃ s', exec .flitReceive s = .next s' ∧ s'.fab.sent = .acked peer new :: s.fab.sent ∧
          (s'.mem.get new).toNat % 16 = (if high = 0 then y % 16 else (s.mem.get new).toNat % 16) ∧
          (s'.mem.get new).toNat / 16 = (if high = 0 then (s.mem.get new).toNat / 16 else y % 16) ∧
          ∀ k, k ≠ new → s'.mem.get k = s.mem.get k) ∧
      (∀ peer v y, s.arg.nums = [7, peer, v, y] → s.rangeHeld new 32 = false → freeOfParts s new 32 →
        ∃ s' bad, exec .flitReceive s = .next s' ∧ s'.fab.sent = .answer peer new (s.mem.bytes new 32) bad :: s.fab.sent ∧
          if s.mem.le (new + 28) 4 = v then s'.mem.le new 8 = y % 2 ^ 64 ∧ s'.mem.le (new + 28) 4 = (v + 1) % 2 ^ 32 ∧
            ∀ k, k < new ∨ new + 8 ≤ k ∧ k < new + 28 ∨ new + 32 ≤ k → s'.mem.get k = s.mem.get k
          else s'.mem = s.mem)))) ∧
  (∀ (s : State), let p := s.arg.id
    let x := s.port p
    let b := s.arg.len % 4096
    let clear := fun (q : Nat) => ∃ i, i < 64 ∧ s.arg.x.getLsbD i = true ∧ State.seqAhead q b < i ∧ s.arg.x.getLsbD (State.seqAhead q b) = false
    let held := x.replay.filter fun q => State.seqAhead q.1 b < 2048
    x.backlog = [] → ∃ (s' : State) (again : List Nat), exec .linkAck s = .next s' ∧ sameTeamsAndMemory s s' ∧
      (∀ q, q ∈ again ↔ (∃ h ∈ held, h.1 = q) ∧ (q = b ∨ clear q)) ∧ (s'.port p).resent = again.reverse ++ x.resent ∧
      (s'.port p).replay = held.map (fun q => if q.1 ∈ again then (q.1, q.2 + 1) else q) ∧ (s'.port p).nextSeq = x.nextSeq ∧
      ((s'.port p).training = true ↔ x.training = true ∨ ∃ q ∈ (s'.port p).replay, 8 ≤ q.2)) ∧
  (∀ (s : State) (part : Nat), let p := s.arg.id
    let x := s.port p
    x.up = true → x.training = false → x.backlog = [part] → (∀ h ∈ x.replay, 2048 ≤ State.seqAhead h.1 (s.arg.len % 4096)) →
    ∃ s', exec .linkAck s = .next s' ∧ (s'.port p).backlog = [] ∧ (s'.port p).replay = [(x.nextSeq, 0)] ∧
      (s'.port p).nextSeq = (x.nextSeq + 1) % 4096 ∧ (s'.port p).credits = [(x.nextSeq, part, decide (48 ≤ part))]) ∧
  (∀ (s : State) (q n : Nat) (l : List (Nat × Nat)), let p := s.arg.id
    let x := s.port p
    x.timer = s.arg.len → idlePort x → x.replay = (q, n) :: l → (∀ h ∈ l, h.1 ≠ q) → (∀ h ∈ l, h.2 < 8) →
    ∃ s', exec .replayTimeout s = .next s' ∧ sameTeamsAndMemory s s' ∧ (s'.port p).resent = q :: x.resent ∧
      (s'.port p).replay = (q, n + 1) :: l ∧ ((s'.port p).training = true ↔ 8 ≤ n + 1)) ∧
  (∀ (s : State), let p := s.arg.id
    let x := s.port p
    x.backlog = [] → ∃ s', exec .linkRetrainComplete s = .next s' ∧ sameTeamsAndMemory s s' ∧ (s'.port p).up = true ∧
      (s'.port p).training = false ∧ (s'.port p).lanes = 8 ∧ (s'.port p).replay = x.replay.map (fun q => (q.1, 0)) ∧
      (s'.port p).resent = (x.replay.map fun q => q.1).reverse ++ x.resent)) ∧
  ((∀ (s : State) (c : Nat) (x : Txn) (t : Tid), s.arg.core = c → (s.core c).out = [x] → x.id = s.arg.id → x.fetch = false →
    x.multi = false → (∀ e ∈ (s.core c).wc, ¬ maskFull e) → awaits s x.id x.waiters t → ∃ s', exec .fabricResponse s = .next s' ∧ (s'.core c).out = [] ∧ s'.mem = s.mem ∧
      (s'.thread t).reply = replyFor false s.arg.result ∧ (s'.thread t).wait = (s.thread t).wait) ∧
  (∀ (s : State) (c : Nat) (x : Txn), s.arg.core = c → (s.core c).out = [x] → x.id = s.arg.id → x.waiters = [] → x.multi = false →
    ((∀ e ∈ (s.core c).wc, ¬ maskFull e) → ∃ s', exec .fabricResponse s = .next s' ∧ (s'.core c).out = [] ∧ sameTeamsAndMemory s s') ∧
    ∀ e, (s.core c).wc = [e] → maskFull e → ∃ s', exec .fabricResponse s = .next s' ∧ (s'.core c).wc = [] ∧
      (∃ y, (s'.core c).out = [y] ∧ y.line = e.line) ∧
      s'.fab.sent = .write (keyPeer (e.line * 128)) (keyPa (e.line * 128) / 128) (e.bytes.map fun b => (b.off, b.val)) :: s.fab.sent) ∧
  (∀ (s : State) (c : Nat) (x : Txn), s.arg.core = c → (s.core c).out = [x] → x.fetch = false → (∀ e ∈ (s.core c).wc, ¬ maskFull e) →
    let limit := if x.multi then 20 * msCycles else 100 * usCycles
    (s.cycle < x.since + limit → s.mgmt.far = [] → exec .transactionExpiry s = .next s) ∧
    (x.since + limit ≤ s.cycle →
      (∀ t, awaits s x.id x.waiters t → ∃ s', exec .transactionExpiry s = .next s' ∧ (s'.core c).out = [] ∧
        (s'.thread t).reply = .failed .linkLost) ∧
      (x.waiters = [] → x.owners ≠ [] → s.engineTxn c x.id = false →
        ((∀ t ∈ s.coreTids c, s.releaseAwaits x t = false) →
          ∃ s', exec .transactionExpiry s = .next s' ∧ (s'.core c).out = [] ∧
            ∀ n ∈ x.teams, n < s.teams.length → (s'.team n).lost = true) ∧
        ∀ t, s.coreTids c = [t] → ((s.thread t).wait = .release 5 ∨ t ∈ x.owners ∧ ∃ n, 2 ≤ n ∧ (s.thread t).wait = .release n) → t.team ∈ x.teams → handled s t →
          ∃ s', exec .transactionExpiry s = .next s' ∧ (s'.core c).out = [] ∧ trapEntered s s' t .linkLost x.addr))))

namespace Sys2Proof.Claims

open Sys2Proof.Machine

/-- A resident task that a lapsed lease wounds (08 R189, 25 R385) has started again, and the wound is counted. -/
def woundedByLapse (s s' : State) (n : Nat) : Prop :=
  startsAnew (s.team n) s' n ∧ (s'.team n).age = (s.team n).age ∧ (s'.team n).lapses = (s.team n).lapses + 1

/-- The team can be wounded where it stands. -/
def woundableHere (s : State) (n : Nat) : Prop :=
  s.woundable n = true ∧ (s.team n).status = .resident ∧ s.allStopped n = false

/-- No task waits for a granule of this module. -/
def noOneWaits (s : State) : Prop := s.home.wants = [] ∧ s.fab.asked = []

/-- No cluster slice and no store buffer holds a line of a granule, or one of its unit under a page-mapped address; no write of a
line of the granule is in progress at its home, and none has been refused. -/
def quietGranule (s : State) (g : Nat) : Prop :=
  (∀ k ∈ s.clusters, ∀ p ∈ k.privs, p.line / 2 ≠ g ∧ (p.line / 512 = g / 256 → placeOf p.va ≠ .mapped)) ∧
  (∀ c, ∀ e ∈ (s.core c).sb, e.line / 512 ≠ g / 256) ∧
  (∀ x ∈ s.home.txns, x.line / 2 ≠ g) ∧ ∀ r ∈ s.home.refused, r.line / 2 ≠ g

end Sys2Proof.Claims

/-! ### Time and leases -/

/-- R184, R383, R393: a free granule is granted to the older of the tasks that wait for it, whose slot is then held; a peer's
task gets it as a lease that expires 50 µs later and is told so, and releases it; a release or a renewal of another task than
the holder's changes nothing; a peer's granule that is granted here is held under its lease, which is renewed every 20 µs.
R394, R395: a renewal of the holder is accepted and clamped to 50.25 µs from now, and otherwise refused. A refused renewal, a
lease within 250 ns of its expiry and a claim without an answer wound the task; the home releases the claim 250 ns after its
expiry, unless it is committing. The lease of a decided commit whose team has started again or ended stands under a number of
its own, 2^31 above the team's, and is renewed until every home has applied (25 R384). R385: a claim without an answer wounds
its task too, and every such wound is counted; that it comes as HOLDER_LEASE_LAPSE with ok is log entry 60. Forms whose own
effect completes here: CLAIM_GRANT, LEASE_RENEWAL, RENEWAL_RECEIVE, HOLDER_LEASE_LAPSE, HOME_LEASE_EXPIRY. -/
def Obligations.ClaimsAndLeasesAreGranted : Prop :=
  (∀ (s : State) (v w : Want), let g := s.arg.addr
    s.arg.nums = [] → remoteGran g = false → s.claimOf g = none → s.fab.asked = [] → v.gran = g → w.gran = g → quietGranule s g →
    (∃ f, assoc (s.team w.team).folds w.slot = some f ∧ f.st = .claiming ∧ f.grans = [g]) →
    (s.home.wants = [w] ∨ (s.home.wants = [v, w] ∧ older (s.team w.team).age (s.team v.team).age = true ∧
        older (s.team v.team).age (s.team w.team).age = false) ∨
      (s.home.wants = [w, v] ∧ older (s.team v.team).age (s.team w.team).age = false)) →
    ∃ s', exec .claimGrant s = .next s' ∧ s'.claimOf g = some ⟨g, w.team, false⟩ ∧
      (∃ f, assoc (s'.team w.team).folds w.slot = some f ∧ f.st = .held) ∧ ∀ x ∈ s'.home.wants, x.team ≠ w.team) ∧
  (∀ (s : State) (peer : Nat), let g := s.arg.addr
    (s.arg.nums = [0, peer] → s.claimOf g = none → noOneWaits s → s.time.sync = true → quietGranule s g →
      ∃ s', exec .claimGrant s = .next s' ∧ s'.claimOf g = some ⟨g, State.remoteTeam peer, false⟩ ∧
        s'.fab.given = s.fab.given ++ [⟨g, peer, s.arg.x, s.gtime + 50000, false, []⟩] ∧ s'.fab.asked = [] ∧
        s'.fab.sent = .renewed peer g (s.gtime + 50000) :: s.fab.sent) ∧
    (s.arg.nums = [1, peer] → noOneWaits s → (∃ l ∈ s.fab.given, l.gran = g ∧ l.holder = peer ∧ l.age = s.arg.x) →
      ∃ s', exec .claimGrant s = .next s' ∧ s'.mem = s.mem ∧
        (∀ l, l ∈ s'.fab.given ↔ l ∈ s.fab.given ∧ ¬ (l.gran = g ∧ l.holder = peer ∧ l.age = s.arg.x)) ∧
        ∀ c, c ∈ s'.home.claims ↔ c ∈ s.home.claims ∧ ¬ (c.gran = g ∧ c.team = State.remoteTeam peer)) ∧
    (s.arg.nums = [1, peer] → (∀ l ∈ s.fab.given, l.gran = g → l.holder = peer → l.age ≠ s.arg.x) →
      ∃ s', exec .claimGrant s = .next s' ∧ sameTeamsAndMemory s s' ∧ s'.fab.given = s.fab.given ∧ s'.home = s.home)) ∧
  (∀ (s : State) (w : Want), let g := s.arg.addr
    let n := s.arg.team
    s.arg.nums = [] → remoteGran g = true → w.gran = g → w.team = n →
    (s.home.wants = [w] → s.time.sync = true → ∃ s', exec .claimGrant s = .next s' ∧ s'.holds n g = true ∧
      (⟨n, g, keyPeer (g * 256), s.arg.len⟩ : LeaseHeld) ∈ s'.fab.held ∧
      (⟨s.cycle + 20 * usCycles, .leaseRenewal, { team := n, addr := g }⟩ : Due) ∈ s'.agenda) ∧
    (s.home.wants = [] → ∃ s', exec .claimGrant s = .next s' ∧ s'.home = s.home ∧
      s'.fab.sent = .release (keyPeer (g * 256)) (keyPa (g * 256) / 256) (s.team n).age :: s.fab.sent)) ∧
  (∀ (s : State) (l : LeaseHeld), s.fab.held = [l] → s.arg.team = l.team % 2 ^ 31 → s.arg.addr = l.gran →
    (s.arg.ok = false → ∃ s', exec .leaseRenewal s = .next s' ∧
      s'.fab.sent = .renew (keyPeer (l.gran * 256)) (keyPa (l.gran * 256) / 256) (s.gtime + 50000)
        (s.team s.arg.team).age :: s.fab.sent ∧
      (⟨s.cycle + 20 * usCycles, .leaseRenewal, { team := s.arg.team, addr := l.gran }⟩ : Due) ∈ s'.agenda) ∧
    (s.arg.ok = true → s.arg.nums = [] → ∃ s', exec .leaseRenewal s = .next s' ∧ sameTeamsAndMemory s s' ∧
      s'.fab.held = [{ l with expiry := max l.expiry s.arg.len }]) ∧
    (s.arg.ok = true → s.arg.nums ≠ [] → (l.team < 2 ^ 31 → woundableHere s l.team →
      ∃ s', exec .leaseRenewal s = .next s' ∧ woundedByLapse s s' l.team) ∧ (2 ^ 31 ≤ l.team → exec .leaseRenewal s = .next s)) ∧
    (s.arg.ok = false → l.team < 2 ^ 31 → l.expiry ≤ s.gtime + 250 → woundableHere s l.team →
      ∃ s', exec .holderLeaseLapse s = .next s' ∧ woundedByLapse s s' l.team) ∧
    (s.arg.ok = false → s.gtime + 250 < l.expiry → ∃ s', exec .holderLeaseLapse s = .next s' ∧ sameTeamsAndMemory s s' ∧ s'.fab = s.fab)) ∧
  (∀ (s : State) (w : Want), s.arg.ok = true → s.home.wants = [w] → w.gran = s.arg.addr → w.team = s.arg.team →
    woundableHere s w.team → ∃ s', exec .holderLeaseLapse s = .next s' ∧ woundedByLapse s s' w.team) ∧
  (∀ (s : State) (l : LeaseGiven), s.fab.given = [l] → l.gran = s.arg.addr →
    (l.holder = s.arg.id → l.age = s.arg.x → s.time.sync = true → let e := max l.expiry (min s.arg.len (s.gtime + 50250))
      ∃ s', exec .renewalReceive s = .next s' ∧ s'.fab.given = [{ l with expiry := e }] ∧
        s'.fab.sent = .renewed s.arg.id l.gran e :: s.fab.sent) ∧
    (l.holder ≠ s.arg.id ∨ l.age ≠ s.arg.x ∨ s.time.sync = false → ∃ s', exec .renewalReceive s = .next s' ∧ s'.fab.given = [l] ∧
      s'.fab.sent = .refused s.arg.id l.gran :: s.fab.sent) ∧
    (l.committing = true ∨ s.time.sync = false → exec .homeLeaseExpiry s = .next s) ∧
    (l.committing = false → s.gtime < l.expiry + 250 → ∃ s', exec .homeLeaseExpiry s = .next s' ∧ s'.fab = s.fab ∧ s'.home = s.home) ∧
    (l.committing = false → s.time.sync = true → l.expiry + 250 ≤ s.gtime → noOneWaits s → ∃ s', exec .homeLeaseExpiry s = .next s' ∧ s'.fab.given = [] ∧
      ∀ c ∈ s'.home.claims, c.gran = l.gran → c.team ≠ State.remoteTeam l.holder))

/-- R384, R385: a home that receives a prepare for a lease of the sender's task keeps its lines, makes the claim committing and
acknowledges; otherwise it refuses, which is all that a refusal does (log entry 61). The last acknowledgement decides the
commit: the local lines are applied and every home is told to apply its own; the units were copied as the commit's first step
(25 R381, log entry 59). A missing acknowledgement wounds the task. A home applies the lines once; the claim stays until its
holder releases it, once every home has applied. After the last home has, the task has ended, or, where its team has started
again or ended meanwhile, the claims end. A home that has heard nothing asks, and is told again. Where the holder's module is
removed, its committing lines are poisoned and its claims end. Forms whose own effect completes here: COMMIT_PREPARE,
PREPARE_ACK, PREPARE_TIMEOUT, COMMIT_APPLY, APPLY_QUERY, HOLDER_MODULE_REMOVED. -/
def Obligations.CommitsSpanModules : Prop :=
  (∀ (s : State) (l : LeaseGiven), s.fab.given = [l] → l.gran = s.arg.addr →
    (l.holder = s.arg.id → l.age = s.arg.x → ∃ s', exec .commitPrepare s = .next s' ∧ sameTeamsAndMemory s s' ∧
      s'.fab.given = [{ l with committing := true, bytes := s.arg.image }] ∧ (∀ c ∈ s'.home.claims, c.gran = l.gran → c.committing = true) ∧
      s'.fab.sent = .prepared s.arg.id l.gran :: s.fab.sent ∧ (⟨s.cycle + 20 * usCycles, .applyQuery, { addr := l.gran }⟩ : Due) ∈ s'.agenda) ∧
    (l.holder ≠ s.arg.id ∨ l.age ≠ s.arg.x → ∃ s', exec .commitPrepare s = .next s' ∧ s'.fab.given = [l] ∧ s'.home = s.home ∧
      s'.fab.sent = .refused s.arg.id l.gran :: s.fab.sent) ∧
    (l.committing = true → s.arg.ok = false → ∃ s', exec .applyQuery s = .next s' ∧ sameTeamsAndMemory s s' ∧
      s'.fab.sent = .query l.holder l.gran l.age :: s.fab.sent ∧ (⟨s.cycle + 20 * usCycles, .applyQuery, { addr := l.gran }⟩ : Due) ∈ s'.agenda) ∧
    (∀ a b, s.arg.ok = false → l.holder = s.arg.id → l.committing = true → l.bytes = bytesAt a b → l.gran * 256 ≤ a →
      a + b.length ≤ l.gran * 256 + 256 → freeOfParts s a b.length →
      ∃ s', exec .commitApply s = .next s' ∧ memoryWith s s' a b ∧ s'.fab.given = [{ l with bytes := [] }] ∧
        s'.home.claims = s.home.claims ∧ s'.fab.sent = .applied s.arg.id l.gran :: s.fab.sent) ∧
    (l.holder = s.arg.id → l.committing = true → noOneWaits s → ∃ s', exec .holderModuleRemoved s = .next s' ∧
      s'.fab.removed.contains s.arg.id = true ∧ (∀ k, k < s.mgmt.errLog.toNat ∨ s.mgmt.errLog.toNat + 131072 ≤ k → s'.mem.get k = s.mem.get k) ∧
      s'.fab.given = [] ∧ ∀ b ∈ l.bytes, s'.poisoned (lineOf b.1) = true)) ∧
  (∀ (s : State) (d : Decision), s.fab.decisions = [d] → d.team = s.arg.team →
    (d.decided = false → (d.peers.filter fun g => g != s.arg.addr) ≠ [] → ∃ s', exec .prepareAck s = .next s' ∧ sameTeamsAndMemory s s' ∧
      s'.fab.decisions = [{ d with peers := d.peers.filter fun g => g != s.arg.addr }]) ∧
    (d.decided = false → d.peers = [s.arg.addr] → let s1 := (s.modDecision d.team fun x => { x with peers := [] }).applyShadows d.team
      ∃ s', exec .prepareAck s = .next s' ∧ s'.mem = s1.mem ∧ s'.fab.decisions = [{ d with peers := d.grans, decided := true }] ∧
        s'.fab.sent = (d.grans.map fun g => FabricMsg.apply (keyPeer (g * 256)) (keyPa (g * 256) / 256)).reverse ++ s1.fab.sent) ∧
    (d.decided = true ∨ d.since ≠ s.arg.len → exec .prepareTimeout s = .next s) ∧
    (d.decided = false → d.since = s.arg.len → woundableHere s d.team → ∃ s', exec .prepareTimeout s = .next s' ∧
      startsAnew (s.team d.team) s' d.team ∧ (s'.team d.team).age = (s.team d.team).age ∧ s'.fab.decisions = []) ∧
    (s.arg.ok = true → (s.arg.addr ∉ d.peers → exec .commitApply s = .next s) ∧
      (d.decided = true → s.arg.addr ∈ d.peers → d.team < 2 ^ 31 →
        ((d.peers.filter fun g => g != s.arg.addr) = [] → d.team < s.teams.length → ∃ s', exec .commitApply s = .next s' ∧
          (s'.team d.team).taskEnded = true ∧ s'.fab.decisions = []) ∧
        ((d.peers.filter fun g => g != s.arg.addr) ≠ [] → ∃ s', exec .commitApply s = .next s' ∧
          sameTeamsAndMemory s s' ∧ s'.fab.decisions = [{ d with peers := d.peers.filter fun g => g != s.arg.addr }])))) ∧
  (∀ (s : State) (d : Decision), s.fab.decisions = [d] → d.decided = true → d.peers = [s.arg.addr] → d.team = 2 ^ 31 + s.arg.team →
    s.arg.team < 2 ^ 31 → s.arg.ok = true → ∃ s', exec .commitApply s = .next s' ∧ sameTeamsAndMemory s s' ∧ s'.fab.decisions = [] ∧
      ∀ c, c ∈ s'.home.claims ↔ c ∈ s.home.claims ∧ c.team ≠ d.team) ∧
  (∀ (s : State) (d : Decision), s.fab.decisions = [d] → d.grans.contains s.arg.addr = true → d.age = s.arg.x → s.arg.ok = true →
    ∃ s', exec .applyQuery s = .next s' ∧ sameTeamsAndMemory s s' ∧
      s'.fab.sent = if d.decided then .apply (keyPeer (s.arg.addr * 256)) (keyPa (s.arg.addr * 256) / 256) :: s.fab.sent else s.fab.sent) ∧
  (∀ (s : State), (∀ d ∈ s.fab.decisions, d.grans.contains s.arg.addr = true → d.age ≠ s.arg.x) → s.arg.ok = true →
    ∃ s', exec .applyQuery s = .next s' ∧ sameTeamsAndMemory s s' ∧
      s'.fab.sent = .release (keyPeer (s.arg.addr * 256)) (keyPa (s.arg.addr * 256) / 256) s.arg.x :: s.fab.sent)

/-- R391, R392, R395: a time message sets OFFSET; a clock that is behind is stepped and one that is ahead is slewed; more than
250 ns apart, or 100 µs without a message, SYNC becomes 0 and is counted, and the third message in a row within 125 ns makes
it 1. When SYNC becomes 0 a task with a held lease is wounded. GTIME never decreases. R324: the µs that a step passes over
count for a watchdog that runs, which expires where they take it past its limit. R396: every 2 s a held extent is renewed,
with SYNC and a working port; the shelf's answer lets its lease run anew. A lease that has not been renewed for 10 s lapses:
the extent's lines are dropped from L1, private copies, store buffers and tasks' shadow lines, dirty lines of L2 are
discarded, so that the shelf's content stands, and an access to it is LEASE_LAPSED. R397: an extent that the shelf had
reclaimed is zero when it is granted. That a watchdog's expiry is due one cycle after its count is past the limit is log
entry 50; the form of a grant, with its mark of a reclaimed extent, is log entry 60. Forms whose own effect completes here:
TIME_MESSAGE, SYNC_TIMEOUT, EXTENT_RENEWAL, EXTENT_LEASE_LAPSE. -/
def Obligations.TimeAndExtentsAreKept : Prop :=
  ((∀ (s : State), let d : Int := (s.gtime : Int) - s.arg.len
    let good := if d.natAbs ≤ 125 then s.time.good + 1 else 0
    ∃ s', exec .timeMessage s = .next s' ∧ s'.time.offset = d ∧ s'.time.last = s.cycle ∧
      s'.time.sixths = (if s.gtime < s.arg.len then 6 * s.arg.len else s.time.sixths) ∧
      s'.time.slew = (if s.gtime < s.arg.len then 0 else 6 * (s.gtime - s.arg.len)) ∧ s.gtime ≤ s'.gtime ∧
      s'.time.sync = (if 250 < d.natAbs then false else if 3 ≤ good then true else s.time.sync) ∧
      s'.time.losses = (if 250 < d.natAbs ∧ s.time.sync = true then s.time.losses + 1 else s.time.losses) ∧
      (⟨s.cycle + 100 * usCycles, .syncTimeout, { len := s.cycle }⟩ : Due) ∈ s'.agenda) ∧
  (∀ (s : State) (c : Nat) (k : Ctx), let us := s.arg.len / 1000 - s.gtime / 1000
    s.ctxs = [(c, k)] → k.en = true → k.halt = false → (∃ m ∈ s.teams, m.ctx = c ∧ m.status = .resident) →
    s.gtime < s.arg.len → s.arg.len ≤ s.gtime + 250 → 0 < us → ∃ s', exec .timeMessage s = .next s' ∧
      (s'.ctx c).wdCount = k.wdCount + us ∧
      (k.wdlim ≠ 0 → k.wdlim.toNat * 1000 < k.wdCount + us → (⟨s.cycle + 1, .watchdogExpiry, { ctx := c }⟩ : Due) ∈ s'.agenda)) ∧
  (∀ (s : State), (s.time.last ≠ s.arg.len ∨ s.time.sync = false → exec .syncTimeout s = .next s) ∧
    (s.time.last = s.arg.len → s.time.sync = true → ∃ s', exec .syncTimeout s = .next s' ∧ s'.time.sync = false ∧
      s'.time.losses = s.time.losses + 1 ∧ ∀ l, s.fab.held = [l] → woundableHere s l.team → woundedByLapse s s' l.team)) ∧
  ∀ (s : State), s.tick.cycle = s.cycle + 1 ∧ s.gtime ≤ s.tick.gtime ∧
    s.tick.time.sixths = s.time.sixths + (if s.time.slew = 0 then 2 else 1)) ∧
  ((∀ (s : State) (e : Extent), s.fab.extents = [e] → e.id = s.arg.id → e.lapsed = false →
    (s.arg.ok = false → ∃ s', exec .extentRenewal s = .next s' ∧ sameTeamsAndMemory s s' ∧
      (⟨s.cycle + 6000000000, .extentRenewal, { id := e.id }⟩ : Due) ∈ s'.agenda ∧
      s'.fab.sent = if s.time.sync && s.poolUp e.base then .pool e.id :: s.fab.sent else s.fab.sent) ∧
    (s.arg.ok = true → ∃ s', exec .extentRenewal s = .next s' ∧ s'.fab.extents = [{ e with renewed := s.cycle }] ∧
      (⟨s.cycle + 30000000000, .extentLeaseLapse, { id := e.id }⟩ : Due) ∈ s'.agenda) ∧
    (s.cycle < e.renewed + 30000000000 → exec .extentLeaseLapse s = .next s) ∧
    (e.renewed + 30000000000 ≤ s.cycle → (s.cores.map Prod.fst).Nodup → ∃ s', exec .extentLeaseLapse s = .next s' ∧
      s'.fab.extents = [{ e with lapsed := true }] ∧
      let inside := fun (l : Nat) => keyTgt (l * 128) = 1 ∧ e.base ≤ keyPa (l * 128) ∧ keyPa (l * 128) < e.base + e.size
      (∀ c, (∀ x ∈ (s'.core c).l1, ¬ inside x.line) ∧ ∀ x ∈ (s'.core c).sb, ¬ inside x.line) ∧
      (∀ k ∈ s'.clusters, ∀ p ∈ k.privs, ¬ inside p.line) ∧ (∀ f ∈ s'.home.flights, inside f.line → f.stale = true) ∧
      (∀ x ∈ s'.home.shadows, ¬ inside x.line) ∧
      ((∀ x ∈ s.home.l2, inside x.line → x.under = none) → s'.mem = s.mem) ∧
      (∀ x old, s.home.l2 = [x] → inside x.line → x.under = some old →
        ∀ k, s'.mem.get k = if lineOf k = x.line then lineByte old (k % 128) else s.mem.get k) ∧
      ∀ pa va, e.base ≤ pa → pa < e.base + e.size → pa < 2 ^ 48 →
        (s'.poisoned (lineOf (2 ^ 48 + pa)) = false → s'.lateFault ⟨1, 0, pa, false⟩ va true = some (Request.of .leaseLapsed va)))) ∧
  (∀ (s : State), (∀ e ∈ s.fab.extents, e.id ≠ s.arg.id) → s.arg.ok = true → ∃ s', exec .extentRenewal s = .next s' ∧
    s'.fab.extents = ⟨s.arg.id, s.arg.addr, s.arg.len, s.cycle, false⟩ :: s.fab.extents ∧
    (s.arg.nums = [] → s'.mem = s.mem) ∧ (s.arg.nums ≠ [] → s.mem.wf = true → ∀ k, s'.mem.get k =
      if keyTgt k = 1 ∧ s.arg.addr ≤ keyPa k ∧ keyPa k < s.arg.addr + s.arg.len then 0 else s.mem.get k)))

/-! ### Management -/

/-- R412, R408: a store to a register of BAR0 that a context depends on is refused, and counted, while a context is enabled; the
other registers take the value, PWRCAP within its bounds; a store that would select a partition table in which two partitions
share an island is refused and counted too (18 R321; that the store itself is refused is the model's choice, log entry 84);
CTXCMD queues a command, and PUBCMD, DIGCMD and ATTEST queue a record; a store to no register has no effect. R410: until the
module is ready a store is discarded, and a register other than BOOTSTAT reads 0. R386, R387: a publication of a pool object
that is not resident compares the version: where it differs, STATUS is 2 with the version found; where it agrees, the
object's bytes stand at their new address, and the directory entry has that address and the next version. One of a peer's
object asks its home for the directory entry first. R390: a digest writes SHA-384 of the range, or the cause, once the lines
of host and peer memory that it needs have been read. R411: an attestation record's STATUS is pending while it is filled; it
gets the digests, of the firmware that runs among them, and the signature over its first 192 bytes, and 0 in the rest. The
cycle in which a following step is due is the model's (log entry 20). STATUS 0x10 for LEN above 2^40 is log entry 62; that a
register of an address keeps every value stored, aligned or not, is log entry 86; ECDSA's nonces are free (log entry 10).
Forms whose own effect completes here: PUBLISH, DIGEST, ATTEST, PWRCAP_WRITE, REGISTER_WRITE. -/
def Obligations.ManagementStoresAndRecords : Prop :=
  ((∀ (s : State), s.mgmt.boot ≠ 6 → (∀ i, i = .registerWrite ∨ i = .pwrcapWrite → exec i s = .next s) ∧ ∀ off, off ≠ 0 → s.bar0 off = 0) ∧
  (∀ (s : State), s.mgmt.boot = 6 → let off := s.arg.addr
    let x := s.arg.x
    (off = 0x8 ∨ off = 0x20 ∨ off = 0x38 ∨ off = 0x40 ∨ off = 0x48 →
      let shares := off = 0x20 ∧ s.tableShares x.toNat = true
      (s.anyEnabled = false → ¬ shares → ∃ s', exec .registerWrite s = .next s' ∧ sameTeamsAndMemory s s' ∧ s'.bar0 off = x ∧
        ∀ k, k ≠ off → s'.bar0 k = s.bar0 k) ∧
      (s.anyEnabled = true ∨ shares → ∃ s', exec .registerWrite s = .next s' ∧ sameTeamsAndMemory s s' ∧ s'.mgmt.mgmtErr = s.mgmt.mgmtErr + 1 ∧
        ∀ k, k ≠ 0x18 → s'.bar0 k = s.bar0 k)) ∧
    (off = 0x28 ∨ off = 0x68 ∨ off = 0x80 → ∃ s', exec .registerWrite s = .next s' ∧ sameTeamsAndMemory s s' ∧ s'.bar0 off = x ∧
      ∀ k, k ≠ off → s'.bar0 k = s.bar0 k) ∧
    (∀ i, (i = .registerWrite ∧ off = 0x70) ∨ i = .pwrcapWrite → ∃ s', exec i s = .next s' ∧ sameTeamsAndMemory s s' ∧
      s'.bar0 0x70 = (if x.toNat < 1200 then 1200 else if 4800 < x.toNat then 4800 else x) ∧ ∀ k, k ≠ 0x70 → s'.bar0 k = s.bar0 k) ∧
    (off = 0x10 → ∃ s', exec .registerWrite s = .next s' ∧ sameTeamsAndMemory s s' ∧ s'.mgmt.cmds = s.mgmt.cmds ++ [x] ∧
      (s.mgmt.cmds = [] → ∃ d : Due, (⟨s.cycle + 1, d.ev, d.arg⟩ : Due) ∈ s'.agenda ∧ d.arg.ctx = (x.extractLsb' 0 12).toNat ∧
        d.arg.arg = x.extractLsb' 16 48 ∧ let op := (x.extractLsb' 12 4).toNat
        (op = 1 → d.ev = .enable) ∧ (op = 2 → d.ev = .ringCommand) ∧ (op = 3 → d.ev = .invalidateAll) ∧ (op = 4 → d.ev = .invalidatePage) ∧
        (op = 5 → d.ev = .requestDone) ∧ (op = 6 → d.ev = .requestFailed) ∧ (op = 7 → d.ev = .watchdogRestart) ∧ (op = 8 → d.ev = .disable) ∧
        (op = 9 → d.ev = .resumeTeam) ∧ (op = 10 → d.ev = .endTeam) ∧ (op = 0 ∨ 10 < op → d.ev = .ctxcmdInvalid))) ∧
    (off = 0x50 ∨ off = 0x58 ∨ off = 0x78 → let kind := if off = 0x50 then 0 else if off = 0x58 then 1 else 2
      ∃ s', exec .registerWrite s = .next s' ∧ sameTeamsAndMemory s s' ∧ s'.mgmt.tasks = s.mgmt.tasks ++ [(kind, x)] ∧
        (s.mgmt.tasks = [] → (⟨s.cycle + 1, (if kind = 0 then .publish else if kind = 1 then .digest else .attest), { x := x, ok := true }⟩ : Due) ∈ s'.agenda)) ∧
    (off ∉ [0x8, 0x10, 0x20, 0x28, 0x38, 0x40, 0x48, 0x50, 0x58, 0x68, 0x70, 0x78, 0x80] → exec .registerWrite s = .next s)) ∧
  (∀ (s : State) (i : Instr) (kind : Nat), (i = .publish ∧ kind = 0) ∨ (i = .digest ∧ kind = 1) ∨ (i = .attest ∧ kind = 2) → s.arg.ok = false →
    (s.mgmt.boot = 6 → ∃ s', exec i s = .next s' ∧ sameTeamsAndMemory s s' ∧ s'.mgmt.tasks = s.mgmt.tasks ++ [(kind, s.arg.x)]) ∧
    (s.mgmt.boot ≠ 6 → exec i s = .next s))) ∧
  ((∀ (s : State), let a := s.arg.x.toNat
    let r := BitVec.ofNat 512 (s.dev a 64)
    let ctx := (r.extractLsb' 380 12).toNat
    let ident := r.extractLsb' 317 63
    let expect := (r.extractLsb' 392 32).toNat
    let new := (r.extractLsb' 0 64).toNat
    let dom := s.domainOf ident
    let at_ := dom.dir + 32 * (ident.toNat % 2 ^ 48)
    let dir := State.poolKey at_
    let odd := r.extractLsb' 464 48 ≠ 0 ∨ r.extractLsb' 64 253 ≠ 0 ∨ new % 128 ≠ 0
    s.arg.ok = true → (a % 64 ≠ 0 ∨ State.populated a 64 = false → ∃ s', exec .publish s = .next s' ∧ sameTeamsAndMemory s s' ∧
      s'.mgmt.tasks = s.mgmt.tasks.tail) ∧ (s.mgmt.far = [] → a % 64 = 0 → State.populated a 64 = true → freeOfParts s a 64 →
    (odd → ∃ s', exec .publish s = .next s' ∧ memoryWith s s' (a + 57) [0x10] ∧ s'.mgmt.tasks = s.mgmt.tasks.tail) ∧
    (¬odd → s.domainKnown ctx ident = false → ∃ s', exec .publish s = .next s' ∧ memoryWith s s' (a + 57) [0x11]) ∧
    (¬odd → s.domainKnown ctx ident = true → dom.home = 0 → ∃ s', exec .publish s = .next s' ∧ memoryWith s s' (a + 57) [0x12]) ∧
    (¬odd → s.domainKnown ctx ident = true → dom.home ≠ 0 → dom.home ≠ 1 → s.findEntry ctx ident = none → at_ % 128 ≤ 96 →
      ∃ s', exec .publish s = .next s' ∧ sameTeamsAndMemory s s' ∧ s'.mgmt.tasks = s.mgmt.tasks ∧ s'.fab.sent = .read dom.peer at_ 32 :: s.fab.sent ∧
        s'.mgmt.far.length = 1 ∧ (⟨s.cycle + 64, .publish, s.arg⟩ : Due) ∈ s'.agenda) ∧
    (¬odd → s.domainKnown ctx ident = true → dom.home = 1 → s.findEntry ctx ident = none → s.home.runs = [] →
      s.poolRange at_ 32 ≠ some 0x14 → ∀ bits, s.poolDir dom ident = some bits → let d := DirEntry.of bits
      d.ok = true →
      (d.version ≠ expect → ∃ s', exec .publish s = .next s' ∧ s'.mem.le (a + 53) 4 = d.version ∧ s'.mem.get (a + 57) = 2 ∧
        ∀ k, k < a + 53 ∨ a + 58 ≤ k → s'.mem.get k = s.mem.get k) ∧
      (d.version = expect → s.poolRange d.addr (d.sizem1 + 1) = none → s.poolLost (State.poolKey new) (d.sizem1 + 1) = none →
        a + 64 ≤ 2 ^ 48 → freeOfParts s (2 ^ 48) (2 ^ 50) →
        State.poolKey new + (d.sizem1 + 1) ≤ dir ∨ dir + 32 ≤ State.poolKey new →
        ∃ s', exec .publish s = .next s' ∧ s'.mem.get (a + 57) = 1 ∧ s'.mem.le dir 8 = new ∧ s'.mem.le (dir + 28) 4 = (expect + 1) % 2 ^ 32 ∧
          (∀ j, j < d.sizem1 + 1 → s'.mem.get (State.poolKey new + j) = s.mem.get (State.poolKey d.addr + j)) ∧
          s'.mgmt.tasks = s.mgmt.tasks.tail)))) ∧
  (∀ (s : State), let a := s.arg.x.toNat
    let r := BitVec.ofNat 1024 (s.dev a 128)
    let len := (r.extractLsb' 64 64).toNat
    let odd := r.extractLsb' 520 120 ≠ 0 ∨ r.extractLsb' 128 372 ≠ 0 ∨ 2 ^ 40 < len
    let va := (r.extractLsb' 0 64).toNat
    let c := (r.extractLsb' 500 12).toNat
    s.arg.ok = true → a % 128 = 0 → State.populated a 128 = true → freeOfParts s a 128 →
    (odd → ∃ s', exec .digest s = .next s' ∧ memoryWith s s' (a + 64) [0x10] ∧ s'.mgmt.tasks = s.mgmt.tasks.tail) ∧
    (¬odd → ∀ s1, s.awaits 0 c (State.lineParts va len len) = (s1, true) → ∃ s', exec .digest s = .next s' ∧ s'.mem = s1.mem ∧
      (⟨s1.cycle + 64, .digest, s1.arg⟩ : Due) ∈ s'.agenda) ∧
    (¬odd → ∀ s1, s.awaits 0 c (State.lineParts va len len) = (s1, false) →
      (∀ n, s1.digestBytes c va len = .error n → ∃ s', exec .digest s = .next s' ∧ memoryWith s s' (a + 64) [BitVec.ofNat 8 n] ∧
        s'.mgmt.tasks = s.mgmt.tasks.tail) ∧
      (∀ l, s1.digestBytes c va len = .ok l → ∃ s', exec .digest s = .next s' ∧ s'.mem.bytes (a + 80) 48 = sha384 l ∧
        s'.mem.get (a + 64) = 1 ∧ s'.mgmt.tasks = s.mgmt.tasks.tail ∧
        ∀ k, k < a + 64 ∨ a + 64 < k ∧ k < a + 80 ∨ a + 128 ≤ k → s'.mem.get k = s.mem.get k))) ∧
  (∀ (s : State), let a := s.arg.x.toNat
    let digest := fun (i : Nat) => beBytes 48 (Config.partDigest i s.mgmt.firmware).toNat
    let digests := digest 0 ++ digest 1 ++ digest 2
    s.arg.ok = true → freeOfParts s a 512 →
    (s.arg.len = 0 → s.attestable a = true → ∃ s' at_, exec .attest s = .next s' ∧ memoryWith s s' (a + 192) [0] ∧ s'.mgmt.tasks = s.mgmt.tasks ∧
      s.cycle < at_ ∧ at_ ≤ s.cycle + 2 ^ 20 ∧ (⟨at_, .attest, { x := s.arg.x, ok := true, len := 1 }⟩ : Due) ∈ s'.agenda) ∧
    (s.arg.len ≠ 0 → s.attestable a = true → ∃ s', exec .attest s = .next s' ∧ s'.mem.bytes a 48 = s.mem.bytes a 48 ∧
      s'.mem.bytes (a + 48) 144 = digests ∧ s'.mem.get (a + 192) = 1 ∧
      s'.mem.bytes (a + 256) 96 = (s.sign (s.mem.bytes a 48 ++ digests)).2 ∧
      (∀ j, 193 ≤ j → j < 256 ∨ 352 ≤ j → j < 512 → s'.mem.get (a + j) = 0) ∧ s'.mgmt.tasks = s.mgmt.tasks.tail) ∧
    (s.attestable a = false → ∃ s', exec .attest s = .next s' ∧ s'.mgmt.tasks = s.mgmt.tasks.tail ∧
      if State.populated (a + 192) 1 then memoryWith s s' (a + 192) [0x10] else s'.mem = s.mem)))

/-! ### Errors, failures, reset -/

/-- R399, R406: a corrected error is counted by its class of storage and has no other effect; the third correction of a DRAM row
within 24 hours is logged as class 3. A scrub is due again after 2^24 cycles. R399, R400, R401, R403: an uncorrectable error
is logged; in L1 the line is dropped; in the store buffer its entries are lost and their lines are poisoned, a line of the
host by a posted write with EP; a peer's line is sent a poison write; in DRAM the line is poisoned; in a core's SRAM its
teams wait to start again. R402, R403: a failed core is replaced by one of 8 spares of its die, or its number becomes absent;
its teams are saved where their state survives, and wait to start again where it is lost. R404: a failed slice's substitute
takes its lines, the dirty ones that stood in it, private copies too, are poisoned, and tasks with a claim there are wounded,
a peer's through its module. R405: a failed channel is copied into a spare of its stack, of two; a port runs at four lanes,
or is down and another port takes its flits. The cycle in which a following step is due is the model's (log entry 20). That a
slice's failure names the substitute and the dirty lines of device memory is log entry 67; that a lost line has two records,
and their UNIT and ADDR, is log entry 64. Forms whose own effect completes here: ECC_CORRECTION, UNCORRECTABLE_ERROR, SCRUB,
CORE_FAILURE, SLICE_FAILURE, CHANNEL_FAILURE, LANE_DEGRADE, PORT_DOWN. -/
def Obligations.ErrorsAndFailedUnits : Prop :=
  ((∀ (s : State), let k := storageNum s.arg.storage
    let recent := s.repair.rows.filter fun x => x.1 = s.arg.addr && s.cycle < x.2 + 86400000 * msCycles
    ∃ s', exec .eccCorrection s = .next s' ∧ s'.teams = s.teams ∧ s'.poison = s.poison ∧
      Sp.get 0 s'.repair.corrected k = Sp.get 0 s.repair.corrected k + 1 ∧
      (∀ j, j ≠ k → Sp.get 0 s'.repair.corrected j = Sp.get 0 s.repair.corrected j) ∧
      (s.arg.storage ≠ .dram ∨ recent.length < 2 → s'.mem = s.mem ∧ s'.repair.errN = s.repair.errN) ∧
      (s.arg.storage = .dram → 2 ≤ recent.length → canLog s → s.arg.id < 65536 → logged s s' 3 s.arg.addr s.arg.id)) ∧
  (∀ (s : State), ∃ s', exec .scrub s = .next s' ∧ sameTeamsAndMemory s s' ∧ (⟨s.cycle + 2 ^ 24, .scrub, {}⟩ : Due) ∈ s'.agenda) ∧
  (∀ (s : State), let c := s.arg.core
    let l := s.arg.addr
    canLog s → c < 1536 → s.arg.id < 65536 →
    (s.arg.storage = .l1 → ∃ s', exec .uncorrectableError s = .next s' ∧ logged s s' 1 (l * 128) c ∧ s'.teams = s.teams ∧
      (s'.core c).l1 = (s.core c).l1.filter fun x => x.line != l) ∧
    (s.arg.storage = .l2 → s.arg.ok = true → ∃ s', exec .uncorrectableError s = .next s' ∧ logged s s' 1 (l * 128) s.arg.id ∧ s'.teams = s.teams) ∧
    (s.arg.storage = .flit → exec .uncorrectableError s = .next s) ∧
    (s.arg.storage = .dram → ∃ s', exec .uncorrectableError s = .next s' ∧ s'.poisoned l = true ∧ s'.repair.errN = s.repair.errN + 2 ∧ s'.teams = s.teams) ∧
    (∀ e, s.arg.storage = .storeBuffer → (s.core c).sb = [e] → e.line = l → keyTgt (l * 128) ≤ 1 → ∃ s', exec .uncorrectableError s = .next s' ∧
      (s'.core c).sb = [] ∧ s'.poisoned l = true ∧ s'.repair.errN = s.repair.errN + 2 ∧ s'.teams = s.teams) ∧
    (∀ e, s.arg.storage = .storeBuffer → (s.core c).sb = [e] → e.line = l → keyTgt (l * 128) = 2 → s.host.locks = [] → ∃ s', exec .uncorrectableError s = .next s' ∧
      (s'.core c).sb = [] ∧ s'.host.posted = s.host.posted ++ [⟨keyPa (l * 128), [], e.relaxed, none, true⟩] ∧ s'.repair.errN = s.repair.errN + 2) ∧
    (∀ e, s.arg.storage = .writeCombining → (s.core c).wc = [e] → e.line = l → ∃ s', exec .uncorrectableError s = .next s' ∧
      (s'.core c).wc = [] ∧ s'.fab.sent = .poison (keyPeer (l * 128)) (keyPa (l * 128) / 128) :: s.fab.sent ∧ s'.repair.errN = s.repair.errN + 2 ∧ s'.teams = s.teams) ∧
    (∀ n, s.arg.storage = .coreSram → s.residents c = [n] → (s.cluster (s.team n).cluster).teams = [n] → ∃ s', exec .uncorrectableError s = .next s' ∧
      (s'.team n).status = .waiting ∧ ∀ k, k ≠ n → s'.team k = s.team k))) ∧
  ((∀ (s : State), let c := s.arg.core
    let used := Sp.get 0 s.repair.spares (dieOf c)
    (s.arg.ok = false → ∃ s', exec .coreFailure s = .next s' ∧ s'.core c = Core.reset ∧
      (∀ n ∈ s.residents c, n ∈ (s.cluster (s.team n).cluster).teams → (s'.team n).status = .waiting) ∧
      (used < 8 → Sp.get 0 s'.repair.spares (dieOf c) = used + 1 ∧ s'.repair.absent = s.repair.absent) ∧
      (8 ≤ used → s'.repair.absent.contains c = true ∧ s'.repair.spares = s.repair.spares)) ∧
    (∀ n, s.arg.ok = true → s.residents c = [n] → (s.cluster (s.team n).cluster).teams = [n] → (s.team n).request = none →
      (∀ s1, s1 = s.replaceCore c → s1.saveable n = true ∧ (s1.freeBlock? (s.team n).ctx).isSome = true) →
      ∃ s', exec .coreFailure s = .next s' ∧ (s'.team n).request = some s.cycle ∧ (s'.team n).status = .resident)) ∧
  (∀ (s : State), let x := s.arg.id
    let sub := x / 32 * 32 + s.arg.len % 32
    (∀ p ∈ s.repair.slices, p.1 ≠ x) → ∃ s', exec .sliceFailure s = .next s' ∧
      (∀ key, s'.homeSlice key = if s.homeSlice key = x then sub else s.homeSlice key) ∧
      (∀ l ∈ s.arg.nums, s.sliceOf l = x → s'.poisoned l = true) ∧
      (∀ cl, (s.cluster cl).slice = x → (s'.cluster cl).privs = [] ∧ ∀ p ∈ (s.cluster cl).privs, p.dirty = true → s'.poisoned p.line = true) ∧ (∀ r ∈ s'.home.dir, r.slice ≠ x) ∧
      (∀ c ∈ s.home.claims, s.homeSlice (c.gran * 256) = x →
        (c.committing = true → s'.poisoned (c.gran * 2) = true ∧ s'.poisoned (c.gran * 2 + 1) = true) ∧
        (c.committing = false → State.remoteHolder c.team = false → (⟨s.cycle + 1, .wound, { team := c.team }⟩ : Due) ∈ s'.agenda) ∧
        (c.committing = false → State.remoteHolder c.team = true → ∀ l ∈ s.fab.given, l.gran = c.gran → .wound l.holder l.gran ∈ s'.fab.sent))) ∧
  (∀ (s : State), let used := Sp.get 0 s.repair.channels (s.arg.id / 8)
    ∃ s', exec .channelFailure s = .next s' ∧ s'.teams = s.teams ∧ (∀ l ∈ s.arg.nums, s'.poisoned l = true) ∧
      Sp.get 0 s'.repair.channels (s.arg.id / 8) = (if used < 2 then used + 1 else used) ∧
      (used < 2 → s.arg.nums = [] → canLog s → s.arg.id < 65536 → logged s s' 4 0 s.arg.id)) ∧
  (∀ (s : State), canLog s → s.arg.id < 65536 → ∃ s', exec .laneDegrade s = .next s' ∧ (s'.port s.arg.id).lanes = 4 ∧
    (s'.port s.arg.id).up = (s.port s.arg.id).up ∧ s'.teams = s.teams ∧ logged s s' 8 0 s.arg.id) ∧
  (∀ (s : State), canLog s → s.arg.id < 32 → let p := s.arg.id
    (∃ q, q < 32 ∧ q ≠ p ∧ (s.port q).up = true) → ∃ s' q, exec .portDown s = .next s' ∧ (s'.port p).up = false ∧ (s'.port p).replay = [] ∧
      (s'.port p).backlog = [] ∧ q < 32 ∧ q ≠ p ∧ (s.port q).up = true ∧ logged s s' 9 0 p ∧
      (s'.port q).backlog.length + (s'.port q).replay.length =
        (s.port q).backlog.length + (s.port q).replay.length + (s.port p).replay.length + (s.port p).backlog.length))

/-- R407, R408, R409: throttling changes timing only; a shutdown disables every enabled context, and then removes the compute
dies' power. R410: a reset leaves no context enabled, no team, every management register at its reset value and device memory
at what nothing written reads as (log entry 2), while pool memory and the repairs stay (log entry 66); bring-up goes from
step to step, with STATE 1, 2 and 3, until it is 6 and the registers can be read; it takes the firmware image of the flash,
spares or marks absent a core that fails its test, and leaves down the links that cannot be trained; with a bad signature
STATE is 5 and it goes no further. R322: an island reset empties the island's cores. The cycle in which a following step is
due is the model's (log entry 20). That an island's teams wait to start again is log entry 65; that the cycle counter is 0 is
log entry 7, and that address registers are 0, log entry 8; how a reset tells what its bring-up has found is log entry 1.
Forms whose own effect completes here: THERMAL_THROTTLE, THERMAL_SHUTDOWN, MODULE_RESET, ISLAND_RESET. -/
def Obligations.ResetsAndShutdowns : Prop :=
  (∀ (s : State), exec .thermalThrottle s = .next { s with repair := { s.repair with throttled := s.arg.ok } }) ∧
  (∀ (s : State), ∃ s', exec .thermalShutdown s = .next s' ∧ (∀ n, (s.ctx (s.team n).ctx).en = true → (s'.team n).status = .ended) ∧
    (s'.mgmt.boot = 4 ∨ (⟨s.cycle + 1, .thermalShutdown, s.arg⟩ : Due) ∈ s'.agenda) ∧
    (s.anyEnabled = false → s' = { s with mgmt := { s.mgmt with boot := 4 } })) ∧
  (∀ (s : State), s.arg.len = 0 → ∃ s', exec .moduleReset s = .next s' ∧ s'.mgmt.boot = 1 ∧ s'.teams = [] ∧ s'.cores = [] ∧ s'.ctxs = [] ∧
    s'.cycle = 0 ∧ s'.repair.absent = s.repair.absent ∧ s'.repair.slices = s.repair.slices ∧
    (∀ off, off ≠ 0 → off < 0x1000 → s'.bar0 off = 0 ∧ s'.register off = State.reset.register off) ∧
    (∀ k, s'.mem.get k = if keyTgt k = 1 then s.mem.get k else 0) ∧ (∀ p, p < 32 → (s'.port p).up = !(s.arg.nums.contains p)) ∧
    (∀ p, p < 8 → s'.fab.poolDown.contains p = (s.fab.poolDown.contains p || s.arg.nums.contains (32 + p))) ∧
    s'.host.active = (if s.arg.nums.contains 40 then 1 else 0) ∧
    ∃ at_, 0 < at_ ∧ s'.agenda = [⟨at_, .moduleReset, { s.arg with len := 2 }⟩]) ∧
  (∀ (s : State) (k b : Nat), s.arg.len = k → s.mgmt.boot = b → (k = 2 ∧ b = 1 ∧ s.arg.ok = true) ∨ (k = 3 ∧ b = 2 ∧ s.arg.nums = []) →
    ∃ s' at_, exec .moduleReset s = .next s' ∧ s'.mgmt = { s.mgmt with boot := k, firmware := if k = 2 then s.arg.id else s.mgmt.firmware } ∧
      s'.mem = s.mem ∧ s'.teams = s.teams ∧
      s.cycle < at_ ∧ s'.agenda = s.agenda ++ [⟨at_, .moduleReset, { s.arg with len := if k = 2 then 3 else 6 }⟩]) ∧
  (∀ (s : State) (c : Nat), s.arg.len = 3 → s.mgmt.boot = 2 → c < 1536 → s.arg.nums = [100 + c] → let used := Sp.get 0 s.repair.spares (dieOf c)
    ∃ s', exec .moduleReset s = .next s' ∧ s'.mgmt.boot = 3 ∧ s'.teams = s.teams ∧
      (used < 8 → Sp.get 0 s'.repair.spares (dieOf c) = used + 1 ∧ s'.repair.absent = s.repair.absent) ∧
      (8 ≤ used → s'.repair.absent.contains c = true ∧ s'.repair.spares = s.repair.spares)) ∧
  (∀ (s : State) (k b n : Nat), s.arg.len = k → s.mgmt.boot = b → (k = 2 ∧ b = 1 ∧ s.arg.ok = false ∧ n = 5) ∨ (k = 6 ∧ b = 3 ∧ n = 6) →
    exec .moduleReset s = .next { s with mgmt := { s.mgmt with boot := n } }) ∧
  (∀ (s : State), let i := s.arg.id
    ∃ s', exec .islandReset s = .next s' ∧ s'.repair.clamped.contains i = !s.arg.ok ∧
      (∀ j, j ≠ i → s'.repair.clamped.contains j = s.repair.clamped.contains j) ∧ (∀ c, islandOf c = i → s'.core c = Core.reset) ∧
      ∀ n, (s.team n).status = .resident → islandOf (s.team n).core = i → s.core (s.team n).core ≠ Core.reset →
        n ∈ (s.cluster (s.team n).cluster).teams → (s'.team n).status = .waiting)

/-! ### Words, steps, reset, numbers -/

namespace Sys2Proof.Claims

open Sys2Proof.Machine

/-- The words that lie one after another at a program address as a team fetches them, and the module after the fetches. -/
def fetched (s : State) (n : Nat) (pc : DWord) : List Word → State → Prop
  | [], s' => s' = s
  | w :: ws, s' => ∃ s1, s.fetchWord n pc = (s1, .word w) ∧ fetched s1 n (pc + 4) ws s'

/-- The core of a team keeps the lines that hold the first and the last of a bundle's words, as they are now (04 R92). -/
def codeKept (s : State) (n : Nat) (pc : DWord) (words : Nat) : State :=
  (s.noteCode n pc).noteCode n (pc + BitVec.ofNat 64 (4 * (words - 1)))

/-- No event is due, and the module runs. -/
def undisturbed (s : State) : Prop := s.mgmt.boot ≠ 4 ∧ s.mgmt.boot ≠ 5 ∧ ∀ d ∈ s.agenda, s.cycle < d.at_

/-- The threads that issue next on a core, and the module once they are selected: a thread at a PACE word, which takes no slot,
or the issue group of the entry selected, whereupon YIELD ends at other entries (R68, R117, R214). -/
def selected (s : State) (c : Nat) (ts : List Tid) (s0 : State) : Prop :=
  (∃ t, s.nextPace = some t ∧ c = s.coreNum t ∧ ts = [t] ∧ s0 = s) ∨
  (∃ e, s.nextPace = none ∧ s.nextIssue = some (c, e) ∧ ts = s.issueGroup c e ∧
    s0 = (s.endYields c e).modCore c fun k => { k with issued := some (s.cycle, e) })

/-- The words fetched so far begin a bundle and do not complete it. -/
def unfinished (ws : List Word) : Prop := ∀ k, k ≤ ws.length → decodeWords (ws.take k) = .more

/-- A unit of an entry was ready at the end of the previous cycle. -/
def heldReady (s : State) (c e : Nat) : Prop := ∃ u ∈ s.unitsAt c e, ∃ t, u.head? = some t ∧ t ∈ (s.core c).ready

/-- What holds in every state that a run reaches: memory is in its canonical form, STATE is one of R409 and R410,
and the power cap lies in the range that R408 clamps it to. -/
def Steady (s : State) : Prop :=
  s.mem.wf = true ∧ 1 ≤ s.mgmt.boot ∧ s.mgmt.boot ≤ 6 ∧ 1200 ≤ s.mgmt.pwrCap.toNat ∧ s.mgmt.pwrCap.toNat ≤ 4800

/-- The thread alone runs the instruction, whose d register then holds the value. -/
def lands (s : State) (t : Tid) (f : TF) (i : Instr) (x : Word) : Prop :=
  alone s i t → ∃ s', exec i s = .next s' ∧ holdsV s s' t f.d.toNat x

/-- Exponent and fraction of an FP32 code; a NaN; a code with FTZ32 applied (02 R27). -/
def expOf (x : Word) : Nat := x.toNat / 2 ^ 23 % 256
def fracOf (x : Word) : Nat := x.toNat % 2 ^ 23
def isNaN (x : Word) : Bool := expOf x == 255 && fracOf x != 0
def flushed (ftz : Bool) (x : Word) : Word := if ftz = true ∧ expOf x = 0 ∧ fracOf x ≠ 0 then x &&& 0x80000000 else x

/-- The low and the high end of a signed range. -/
def clampedTo (n : Nat) (x : Int) : Int := max (-(2 ^ (n - 1))) (min (2 ^ (n - 1) - 1) x)

end Sys2Proof.Claims

/-- R67 to R77, R88, R89 (04): the words and the bytes of every well-formed instruction, whatever follows them, decode to it:
no bit of an encoding is lost, and no two well-formed instructions share their words. -/
def Obligations.EncodedInstructionsDecode : Prop :=
  ∀ (i : Instr), i.isWord = true → i.WellFormed →
    (∀ rest, decodeWords (encode i ++ rest) = .ok i) ∧ (∀ bytes, decode (encodeBytes i ++ bytes) = .ok i)

/-- R68, R73, R75, R76, R79: what decodes is a well-formed instruction whose own words come first, at most an X word, a W word and
the instruction word; a second X word, an X or W word after a W word, and a PACE word after either are refused at that
word; so is a PACE word with bit 21 set. -/
def Obligations.DecodedInstructionsAreWellFormed : Prop :=
  (∀ ws i, decodeWords ws = .ok i → i.isWord = true ∧ i.WellFormed ∧ (∃ rest, ws = encode i ++ rest) ∧ (encode i).length ≤ 3) ∧
  (∀ (x w : Word) rest, opcodeOf x = 0x3F0 → (opcodeOf w = 0x3F0 ∨ opcodeOf w = 0x3F2) →
    decodeWords (x :: w :: rest) = .bad (.malformed 1)) ∧
  (∀ (x w : Word) rest, opcodeOf x = 0x3F1 → (opcodeOf w = 0x3F0 ∨ opcodeOf w = 0x3F1 ∨ opcodeOf w = 0x3F2) →
    decodeWords (x :: w :: rest) = .bad (.malformed 1)) ∧
  (∀ (x y w : Word) rest, opcodeOf x = 0x3F0 → opcodeOf y = 0x3F1 → (opcodeOf w = 0x3F0 ∨ opcodeOf w = 0x3F1 ∨ opcodeOf w = 0x3F2) →
    decodeWords (x :: y :: w :: rest) = .bad (.malformed 2)) ∧
  (∀ (w : Word) rest, opcodeOf w = 0x3F2 → w.getLsbD 21 = true → decodeWords (w :: rest) = .bad (.reserved 0))

/-- The words that the spec's own examples write out decode to the instructions it gives beside them (04, 05, 06, 07, 08). -/
def Obligations.WrittenWordsDecode : Prop :=
  let n : Pfx := ⟨none, none⟩
  decodeWords [0x004A152C] = .ok (.add ⟨n, 20, 21, 22, false⟩) ∧
  decodeWords [0xFC800158] = .ok (.pace ⟨0, 3, 5, 0, 0, 0, 0⟩) ∧
  decodeWords [0x388B9428] = .ok (.fmul ⟨n, 23, 20, 20, false⟩) ∧
  decodeWords [0x380C172A] = .ok (.fadd ⟨n, 24, 23, 21, false⟩) ∧
  decodeWords [0x00CA14FF] = .ok (.addi ⟨n, 20, 20, 0xFF⟩) ∧
  decodeWords [0xFC400002, 0x0A8F2345] = .ok (.movl ⟨⟨none, some 2⟩, 30, 0x2345⟩) ∧
  decodeWords [0xFC000A00, 0x09440907] = .ok (.sel ⟨⟨some ⟨0, false, 0, 10, false, false, false, 0⟩, none⟩, 8, 9, 3, true⟩) ∧
  decodeWords [0x203FFFFD] = .ok (.bra ⟨n, 0x3FFFFD⟩) ∧
  decodeWords [0x20C28003] = .ok (.brnz ⟨n, 5, 3⟩) ∧
  decodeWords [0x22800000] = .ok (.nop ⟨n, 0, 0, 0, false⟩) ∧
  decodeWords [0x00000000] = .ok (.illegalOpcodeWord n 0)

/-- A step (10 R221, 04 R68, R78, R93): an event that is due first; otherwise the bundle at the program counter of the threads
that issue next runs, decoded from the words fetched there; a word that cannot be fetched traps at its address, a malformed
or reserved bundle traps at the word at fault, each for every thread of the issue group; where nothing issues, the cycle
ends: threads keep all but the issue entry that they join (09 R212), and memory is as before where no line of a slice has to
leave its way (11 R243, R244). After the removal of power or a failed start nothing but a reset follows (28 R409, R410). That
a step is one event in the agenda's order before any bundle, or the end of a cycle, is log entry 69; which lines of code a
core keeps is log entry 23. -/
def Obligations.StepRunsTheDecodedInstruction : Prop :=
  (∀ (s : State) (c : Nat) (t : Tid) (ts : List Tid) (s0 s1 : State) (ws : List Word) (w : Word) (i : Instr),
    let pc := (s0.thread t).pc
    undisturbed s → selected s c (t :: ts) s0 → unfinished ws → fetched s0 t.team pc (ws ++ [w]) s1 → decodeWords (ws ++ [w]) = .ok i →
    step s = exec i { codeKept s1 t.team pc (ws.length + 1) with cur := ⟨c, t :: ts, pc, pc + BitVec.ofNat 64 (4 * ws.length), pc + BitVec.ofNat 64 (4 * (ws.length + 1))⟩ }) ∧
  (∀ (s : State) (c : Nat) (t : Tid) (ts : List Tid) (s0 s1 s2 : State) (ws : List Word) (r : Request),
    let pc := (s0.thread t).pc
    undisturbed s → selected s c (t :: ts) s0 → unfinished ws → fetched s0 t.team pc ws s1 →
    s1.fetchWord t.team (pc + BitVec.ofNat 64 (4 * ws.length)) = (s2, .fault r) →
    step s = .next ((t :: ts).foldl (fun s u => s.takeTrap u r) { s2 with cur := ⟨c, t :: ts, pc, pc, pc + 4⟩ })) ∧
  (∀ (s : State) (c : Nat) (t : Tid) (ts : List Tid) (s0 s1 : State) (ws : List Word) (w : Word) (e : DecodeError),
    let pc := (s0.thread t).pc
    undisturbed s → selected s c (t :: ts) s0 → unfinished ws → fetched s0 t.team pc (ws ++ [w]) s1 → decodeWords (ws ++ [w]) = .bad e →
    ∃ k r, ((e = .malformed k ∧ r = Request.of .illegalOpcode (pc + BitVec.ofNat 64 (4 * k))) ∨
        (e = .reserved k ∧ r = Request.of .reservedField (pc + BitVec.ofNat 64 (4 * k)))) ∧
      step s = .next ((t :: ts).foldl (fun s u => s.takeTrap u r) { s1 with cur := ⟨c, t :: ts, pc, pc, pc + 4⟩ })) ∧
  (∀ (s : State) (l1 l2 : List Due) (d : Due), s.mgmt.boot ≠ 4 → s.mgmt.boot ≠ 5 → s.agenda = l1 ++ d :: l2 → (∀ x ∈ l1, s.cycle < x.at_) →
    d.at_ ≤ s.cycle → step s = exec d.ev { s with agenda := l1 ++ l2, arg := d.arg }) ∧
  (∀ (s : State), undisturbed s → s.nextPace = none → s.nextIssue = none → ∃ s', step s = .next s' ∧ s'.cycle = s.cycle + 1 ∧
    ((∀ x ∈ s.home.l2, x.out = false) → s'.mem = s.mem ∧ ∀ t, s'.thread t = { s.thread t with entry := (s'.thread t).entry })) ∧
  (∀ (s : State), (∀ d ∈ s.agenda, d.ev ≠ .moduleReset) → (s.mgmt.boot = 4 → step s = .fault .powerRemoved) ∧
    (s.mgmt.boot = 5 → step s = .fault .bootFailed)) ∧
  (∀ (s : State) (l1 l2 : List Due) (d : Due), s.mgmt.boot = 4 ∨ s.mgmt.boot = 5 → s.agenda = l1 ++ d :: l2 →
    (∀ x ∈ l1, x.ev ≠ .moduleReset) → d.ev = .moduleReset → step s = exec .moduleReset { s with agenda := l1 ++ l2, arg := d.arg })

/-- Every instruction answers a next state in every state; a step stops only once power is removed or the start has failed. -/
def Obligations.EveryInstructionAnswersANextState : Prop :=
  (∀ (i : Instr) (s : State), ∃ s', exec i s = .next s') ∧
  (∀ (s : State), s.mgmt.boot ≠ 4 → s.mgmt.boot ≠ 5 → ∃ s', step s = .next s')

/-- R214: the entry under the guard pointer is selected where it holds a unit that was ready before; otherwise the entry whose oldest
ready unit is oldest, the lower of equals; units are taken oldest first, ties by the lowest lane, each whole or not at all,
and one that is not taken shares a lane with one taken before it; from the overflow entry only the oldest is taken. The
guard pointer's start is log entry 5. -/
def Obligations.IssueFollowsGuardAndAge : Prop :=
  (∀ (s : State) (c e : Nat), s.selectEntry c = some e → let g := ((s.core c).guard + s.cycle) % 256
    (heldReady s c g → e = g) ∧
    (¬ heldReady s c g → ∃ u ∈ s.unitsAt c e, ∀ e' ∈ s.entriesOf c, ∀ u' ∈ s.unitsAt c e',
      s.unitStamp u < s.unitStamp u' ∨ (s.unitStamp u = s.unitStamp u' ∧ e ≤ e'))) ∧
  (∀ (s : State) (c : Nat), s.selectEntry c = none → ∀ e ∈ s.entriesOf c, s.unitsAt c e = []) ∧
  (∀ (s : State) (c e : Nat), (s.issueGroup c e).Pairwise (fun t u => s.lane t ≤ s.lane u) ∧
    ∀ t ∈ s.issueGroup c e, ∃ u ∈ s.unitsAt c e, t ∈ u ∧ ∀ x ∈ u, x ∈ s.issueGroup c e) ∧
  (∀ (s : State) (c e : Nat), e ≠ 255 → ∀ u ∈ s.unitsAt c e, (∀ t ∈ u, t ∈ s.issueGroup c e) ∨
    ∃ v ∈ s.unitsAt c e, (∀ t ∈ v, t ∈ s.issueGroup c e) ∧
      (s.unitStamp v < s.unitStamp u ∨ (s.unitStamp v = s.unitStamp u ∧ s.unitLane v ≤ s.unitLane u)) ∧
      ∃ t ∈ u, ∃ x ∈ v, s.lane t = s.lane x) ∧
  (∀ (s : State) (c : Nat) (u : List Tid), s.unitsAt c 255 = [u] → ∀ t, t ∈ s.issueGroup c 255 ↔ t ∈ u)

/-- Every step keeps the invariant, from every state that has it: the canonical form of memory (a choice of the model), the states
that R409 and R410 leave, R408's range. -/
def Obligations.StepsKeepTheInvariant : Prop := ∀ (s s' : State), Steady s → step s = .next s' → Steady s'

/-- R212, R410: after reset the module is ready, no context is enabled and no team is on it; of the management registers, PWRCAP
reads 4,800 (R408) and each of the others that a load may read reads its reset value. Bytes that nothing has written read 0,
and time starts at 0: the model's choices, log entries 2 and 7. The invariant holds at reset. 0 in CTXTABLE, PARTTAB,
PRQRING, DOMTAB, COMMONSBASE, PERSTAB and ERRLOG is log entry 8, and which moment reset is, log entry 1. -/
def Obligations.ResetLeavesAModuleReady : Prop :=
  (let s := State.reset
  s.bar0 0 = 6 ∧ s.bar0 0x70 = 4800 ∧ (∀ off ∈ [0x08, 0x10, 0x18, 0x20, 0x28, 0x30, 0x38, 0x40, 0x48, 0x68], s.bar0 off = 0) ∧
  s.anyEnabled = false ∧ (∀ c, (s.ctx c).en = false) ∧ s.teams = [] ∧ (∀ c, s.core c = Core.reset) ∧ (∀ p, (s.port p).up = true) ∧
  (∀ a, s.mem.get a = 0) ∧ s.mem.wf = true ∧ s.gtime = 0 ∧ step s = .next s.tick) ∧
  (Steady State.reset)

/-- R97 to R102: integer results wrap, or with sat are the exact result clamped once; products are exact; R99's quotients and
remainders; R100's shifts by any amount; counts of bits; R101's fields and R102's bytes. The functions are those that
VectorResultsLand gives to the instructions; DIVS to REMN, BFX, BFI and PRMB are run here. -/
def Obligations.IntegerResultsAreExact : Prop :=
  (∀ (s : State) (t : Tid) (f : TF), let a := A s t f
    let b := B s t f
    let d := D s t f
    lands s t f (.divs f) (quotI true a b) ∧ lands s t f (.divn f) (quotI false a b) ∧ lands s t f (.rems f) (remI true a b) ∧
    lands s t f (.remn f) (remI false a b) ∧ lands s t f (.bfx f) (bfxI a b) ∧ lands s t f (.bfi f) (bfiI a b d) ∧
    lands s t f (.prmb f) (prmbI a b d)) ∧
  (∀ (a b d : Word), addI 32 false a b = a + b ∧ subI 32 false a b = a - b ∧ mulI false a b = a * b ∧ madI false a b d = a * b + d ∧
    negI false b = 0 - b ∧ absI false b = (if b.toInt < 0 then 0 - b else b)) ∧
  (∀ (a b : DWord), addI 64 false a b = a + b ∧ subI 64 false a b = a - b ∧
    (addI 64 true a b).toInt = clampedTo 64 (a.toInt + b.toInt) ∧ (subI 64 true a b).toInt = clampedTo 64 (a.toInt - b.toInt)) ∧
  (∀ (a b d : Word), (addI 32 true a b).toInt = clampedTo 32 (a.toInt + b.toInt) ∧ (subI 32 true a b).toInt = clampedTo 32 (a.toInt - b.toInt) ∧
    (mulI true a b).toInt = clampedTo 32 (a.toInt * b.toInt) ∧ (madI true a b d).toInt = clampedTo 32 (a.toInt * b.toInt + d.toInt) ∧
    (negI true b).toInt = clampedTo 32 (-b.toInt) ∧ (absI true b).toInt = clampedTo 32 (b.toInt.natAbs : Int)) ∧
  (∀ (a b : Word), (mulWide true a b).toInt = a.toInt * b.toInt ∧ (mulWide false a b).toNat = a.toNat * b.toNat ∧
    (mulHigh true a b).toInt = a.toInt * b.toInt / 2 ^ 32 ∧ (mulHigh false a b).toNat = a.toNat * b.toNat / 2 ^ 32) ∧
  (∀ (a b : Word) (sg : Bool), (b = 0 → quotI sg a b = 0xFFFFFFFF ∧ remI sg a b = a) ∧
    (b ≠ 0 → (quotI false a b).toNat = a.toNat / b.toNat ∧ (remI false a b).toNat = a.toNat % b.toNat ∧
      (remI true a b).toInt = a.toInt - b.toInt * a.toInt.tdiv b.toInt ∧
      (quotI true a b).toInt = if a = 0x80000000 ∧ b = 0xFFFFFFFF then -(2 ^ 31) else a.toInt.tdiv b.toInt)) ∧
  (∀ (a : Word) (n i : Nat), i < 32 → (shlI a n).getLsbD i = (decide (n ≤ i) && a.getLsbD (i - n)) ∧ (shrI a n).getLsbD i = a.getLsbD (i + n) ∧
    (sraI a n).getLsbD i = (if i + n < 32 then a.getLsbD (i + n) else a.getLsbD 31) ∧ (rolI a n).getLsbD ((i + n) % 32) = a.getLsbD i ∧
    (brevI a).getLsbD i = a.getLsbD (31 - i)) ∧
  (∀ (b : Word), let z := (clzI b).toNat
    z ≤ 32 ∧ (z < 32 → b.getLsbD (31 - z) = true) ∧ ∀ i, i < 32 → 32 - z ≤ i → b.getLsbD i = false) ∧
  (∀ (b : Word), let z := (ctzI b).toNat
    z ≤ 32 ∧ (z < 32 → b.getLsbD z = true) ∧ ∀ i, i < z → b.getLsbD i = false) ∧
  (∀ (b : Word), popcount b = (List.range 32).foldl (fun n i => n + (b.toNat / 2 ^ i) % 2) 0) ∧
  (∀ (a b d : Word) (i : Nat), i < 32 → let w := min (b.toNat / 256 % 64) 32
    let pos := b.toNat % 32
    (bfxI a b).getLsbD i = (if i < w then a.getLsbD (pos + i) else b.getLsbD 15 && decide (w ≠ 0) && a.getLsbD (pos + w - 1)) ∧
    (bfiI a b d).getLsbD i = if pos ≤ i ∧ i < pos + w then a.getLsbD (i - pos) else d.getLsbD i) ∧
  (∀ (a b d : Word) (i : Nat), i < 4 → let n := d.toNat / 16 ^ i % 16
    let x := if n % 8 < 4 then a.toNat / 256 ^ (n % 8) % 256 else b.toNat / 256 ^ (n % 8 - 4) % 256
    (prmbI a b d).toNat / 256 ^ i % 256 = if 8 ≤ n then (if 128 ≤ x then 255 else 0) else x)

/-- R30: a positive magnitude m · 2^e becomes a multiple q · 2^lsb as each mode says: 1 the nearest, ties to even; 2 toward zero; 3
down and 4 up, by the sign; 5 the nearest, ties away; and a multiple stays itself. R26 to R28: every code of a format that is
no NaN, but E2M1's extra code (R34), is rounded to itself in every mode that flushes nothing. R138 to R140: FMIN and FMAX order the codes with −0 below +0 and
prefer a number to a NaN; FABS and FNEG touch bit 31 only; FCLASS sets the one bit of its operand's class. -/
def Obligations.FloatsRoundAndCompare : Prop :=
  (∀ (rm : Nat) (neg : Bool) (m : Nat) (e lsb : Int), lsb ≤ e → roundAt rm neg m e lsb = m * 2 ^ (e - lsb).toNat) ∧
  (∀ (neg : Bool) (m : Nat) (e lsb : Int), e < lsb → let d := 2 ^ (lsb - e).toNat
    let q := fun rm => roundAt rm neg m e lsb
    (2 * (q 1 * d) ≤ 2 * m + d ∧ 2 * m ≤ 2 * (q 1 * d) + d ∧ (2 * (q 1 * d) = 2 * m + d ∨ 2 * m = 2 * (q 1 * d) + d → q 1 % 2 = 0)) ∧
    (q 2 * d ≤ m ∧ m < q 2 * d + d) ∧
    (if neg then m ≤ q 3 * d ∧ q 3 * d < m + d else q 3 * d ≤ m ∧ m < q 3 * d + d) ∧
    (if neg then q 4 * d ≤ m ∧ m < q 4 * d + d else m ≤ q 4 * d ∧ q 4 * d < m + d) ∧
    (2 * (q 5 * d) ≤ 2 * m + d ∧ 2 * m < 2 * (q 5 * d) + d)) ∧
  (∀ (code c rm : Nat) (sat : Bool), code ≤ 5 → c < 2 ^ (fmtOf code).bits → (∀ n, decodeRaw code c ≠ .nan n) →
    (sat = true → ∀ n, decodeRaw code c ≠ .inf n) → (code = 5 → c ≠ 8) →
    encodeF (Modes.plain rm) sat code (decodeF (Modes.plain rm) code c) = c) ∧
  (∀ (s : State) (t : Tid) (f : TF), let b := B s t f
    let x := flushed (M s t f.p).ftz32 (A s t f)
    let y := flushed (M s t f.p).ftz32 b
    let below := fun (u v : Word) => if u.getLsbD 31 then (if v.getLsbD 31 then decide (v.toNat < u.toNat) else true)
      else !v.getLsbD 31 && decide (u.toNat < v.toNat)
    let least := fun (u v : Word) => if isNaN x && isNaN y then 0x7FC00000 else if isNaN x then y else if isNaN y then x else if below u v then x else y
    lands s t f (.fmin f) (least x y) ∧ lands s t f (.fmax f) (least y x) ∧ lands s t f (.fabs f) (b &&& 0x7FFFFFFF) ∧
    lands s t f (.fneg f) (b ^^^ 0x80000000) ∧
    lands s t f (.fclass f) (1#32 <<< (if isNaN b then (if b.getLsbD 22 then 9 else 8)
      else if expOf b = 255 then (if b.getLsbD 31 then 0 else 7) else if expOf b ≠ 0 then (if b.getLsbD 31 then 1 else 6)
      else if fracOf b ≠ 0 then (if b.getLsbD 31 then 2 else 5) else (if b.getLsbD 31 then 3 else 4))))
end

