-- ==== Sys2Proof/Laws/Sparse.lean ====
section
/-! SUPPORT. Maps and memories: what is read back after a change, and that every change keeps the canonical form. -/

namespace Sys2Proof.Machine

variable {α : Type}

/-! ### Reading back -/

@[simp] theorem Sp.get_nil (d : α) (k : Nat) : Sp.get d [] k = d := rfl

theorem Sp.get_insert (d : α) (m : Sparse α) (k j : Nat) (x : α) :
    Sp.get d (Sp.insert k x m) j = if k = j then x else Sp.get d m j := by
  induction m with
  | nil => simp [Sp.insert, Sp.get]
  | cons e m ih =>
    obtain ⟨i, y⟩ := e
    simp only [Sp.insert]
    split
    · simp [Sp.get]
    · split
      · subst_vars; simp only [Sp.get]; split <;> simp_all
      · simp only [Sp.get, ih]; split <;> split <;> simp_all

theorem Sp.get_drop (d : α) (m : Sparse α) (k j : Nat) :
    Sp.get d (Sp.drop m k) j = if k = j then d else Sp.get d m j := by
  induction m with
  | nil => simp [Sp.drop, Sp.get]
  | cons e m ih =>
    obtain ⟨i, y⟩ := e
    simp only [Sp.drop, List.filter_cons] at ih ⊢
    by_cases hi : i = k
    · subst hi; simp only [bne_self_eq_false, Bool.false_eq_true, if_false, ih, Sp.get]
      by_cases hj : i = j <;> simp [hj]
    · simp only [bne_iff_ne, ne_eq, hi, not_false_eq_true, if_true, Sp.get, ih]
      by_cases hj : i = j
      · subst hj; simp [Ne.symm hi]
      · simp [hj]

/-- A map that is changed at `k` reads there what was put and elsewhere what it read before. -/
@[simp] theorem Sp.get_set [DecidableEq α] (d : α) (m : Sparse α) (k j : Nat) (x : α) :
    Sp.get d (Sp.set d m k x) j = if k = j then x else Sp.get d m j := by
  unfold Sp.set
  split
  · subst_vars; simp [Sp.get_drop]
  · exact Sp.get_insert d m k j x

/-! ### The canonical form -/

theorem Sp.above_mono [DecidableEq α] (d : α) (m : Sparse α) {lo hi : Nat} (h : lo ≤ hi)
    (w : Sp.above d (some hi) m = true) : Sp.above d (some lo) m = true := by
  cases m with
  | nil => rfl
  | cons e m =>
    obtain ⟨k, x⟩ := e
    simp only [Sp.above, Bool.and_eq_true, decide_eq_true_eq] at w ⊢
    exact ⟨⟨Nat.lt_of_le_of_lt h w.1.1, w.1.2⟩, w.2⟩

theorem Sp.above_none [DecidableEq α] (d : α) (m : Sparse α) (lo : Option Nat)
    (w : Sp.above d lo m = true) : Sp.above d none m = true := by
  cases m with
  | nil => rfl
  | cons e m =>
    obtain ⟨k, x⟩ := e
    cases lo <;> simp_all [Sp.above]

/-- Everything in a map above `lo` lies above `lo`. -/
theorem Sp.above_lt [DecidableEq α] (d : α) (m : Sparse α) (lo : Nat) (w : Sp.above d (some lo) m = true) :
    ∀ e ∈ m, lo < e.1 := by
  induction m generalizing lo with
  | nil => simp
  | cons e m ih =>
    obtain ⟨k, x⟩ := e
    simp only [Sp.above, Bool.and_eq_true, decide_eq_true_eq] at w
    intro e' h
    cases h with
    | head => exact w.1.1
    | tail _ h => exact Nat.lt_trans w.1.1 (ih k w.2 e' h)

theorem Sp.above_filter [DecidableEq α] (d : α) (m : Sparse α) (p : Nat × α → Bool) (lo : Option Nat)
    (w : Sp.above d lo m = true) : Sp.above d lo (m.filter p) = true := by
  induction m generalizing lo with
  | nil => rfl
  | cons e m ih =>
    obtain ⟨k, x⟩ := e
    have w' := w
    simp only [Sp.above, Bool.and_eq_true] at w
    rw [List.filter_cons]
    split
    · simp only [Sp.above, Bool.and_eq_true]
      exact ⟨w.1, ih (some k) w.2⟩
    · cases lo with
      | none => exact Sp.above_none d _ _ (ih (some k) w.2)
      | some l =>
        have hl : l < k := by simpa using w.1.1
        exact Sp.above_mono d _ (Nat.le_of_lt hl) (ih (some k) w.2)

theorem Sp.above_insert [DecidableEq α] (d : α) (m : Sparse α) (k : Nat) (x : α) (hx : x ≠ d) (lo : Option Nat)
    (hk : ∀ l, lo = some l → l < k) (w : Sp.above d lo m = true) : Sp.above d lo (Sp.insert k x m) = true := by
  induction m generalizing lo with
  | nil =>
    cases lo with
    | none => simp [Sp.insert, Sp.above, hx]
    | some l => simp [Sp.insert, Sp.above, hx, hk l rfl]
  | cons e m ih =>
    obtain ⟨j, y⟩ := e
    simp only [Sp.above, Bool.and_eq_true] at w
    simp only [Sp.insert]
    split
    · rename_i h
      simp only [Sp.above, Bool.and_eq_true, bne_iff_ne, ne_eq, decide_eq_true_eq]
      refine ⟨⟨?_, hx⟩, ⟨h, by simpa using w.1.2⟩, w.2⟩
      cases lo with
      | none => rfl
      | some l => simpa using hk l rfl
    · split
      · rename_i h
        subst h
        simp only [Sp.above, Bool.and_eq_true, bne_iff_ne, ne_eq]
        exact ⟨⟨w.1.1, hx⟩, w.2⟩
      · simp only [Sp.above, Bool.and_eq_true]
        refine ⟨w.1, ih (some j) ?_ w.2⟩
        intro l h
        cases h
        omega

/-- Setting a key keeps the canonical form. -/
theorem Sp.wf_set [DecidableEq α] (d : α) (m : Sparse α) (k : Nat) (x : α) (w : Sp.wf d m = true) :
    Sp.wf d (Sp.set d m k x) = true := by
  unfold Sp.set
  split
  · exact Sp.above_filter d m _ none w
  · rename_i hx
    exact Sp.above_insert d m k x hx none (by simp) w

/-! ### Memory -/

/-- A read after a write of one byte (02 R25). -/
@[simp] theorem Memory.get_put (m : Memory) (a b : Nat) (x : Byte) :
    (m.put a x).get b = if a = b then x else m.get b := Sp.get_set _ _ _ _ _

/-- A write of one byte keeps the canonical form. -/
theorem Memory.wf_put (m : Memory) (a : Nat) (x : Byte) (w : m.wf = true) : (m.put a x).wf = true := Sp.wf_set _ _ _ _ w

/-- A write of many bytes keeps the canonical form. -/
theorem Memory.wf_putAll (l : List (Nat × Byte)) (m : Memory) (w : m.wf = true) : (m.putAll l).wf = true := by
  induction l generalizing m with
  | nil => exact w
  | cons e l ih => exact ih (m.put e.1 e.2) (m.wf_put e.1 e.2 w)

/-- A byte that a write of many bytes does not name reads as before. -/
theorem Memory.get_putAll_of_not_mem (l : List (Nat × Byte)) (m : Memory) (b : Nat) (h : ∀ e ∈ l, e.1 ≠ b) :
    (m.putAll l).get b = m.get b := by
  induction l generalizing m with
  | nil => rfl
  | cons e l ih =>
    rw [Memory.putAll, ih _ fun x hx => h x (List.mem_cons_of_mem _ hx)]
    simp [h e (List.mem_cons_self ..)]

/-- Clearing a range keeps the canonical form. -/
theorem Memory.wf_clear (m : Memory) (a n : Nat) (w : m.wf = true) : (m.clear a n).wf = true :=
  Sp.above_filter _ m _ none w

/-- Replacing a range keeps the canonical form. -/
theorem Memory.wf_replace (m : Memory) (a n : Nat) (img : Memory) (w : m.wf = true) :
    (m.replace a n img).wf = true := Memory.wf_putAll _ _ (m.wf_clear a n w)

/-- Copying a range keeps the canonical form. -/
theorem Memory.wf_copy (m : Memory) (src n dst : Nat) (w : m.wf = true) : (m.copy src n dst).wf = true :=
  m.wf_replace dst n _ w

/-- Replacing a line keeps the canonical form. -/
theorem Memory.wf_putLine (m : Memory) (l : Nat) (x : Line) (w : m.wf = true) : (m.putLine l x).wf = true :=
  Memory.wf_putAll _ _ w

theorem Sp.above_map_shift (m : Memory) (a b : Nat) (lo : Option Nat)
    (h : ∀ e ∈ m, a ≤ e.1) (hlo : ∀ l, lo = some l → a ≤ l) (w : Sp.above (0 : Byte) lo m = true) :
    Sp.above (0 : Byte) (lo.map fun l => b + (l - a)) (m.map fun c => (b + (c.1 - a), c.2)) = true := by
  induction m generalizing lo with
  | nil => rfl
  | cons e m ih =>
    obtain ⟨k, x⟩ := e
    have hk : a ≤ k := h (k, x) (List.mem_cons_self ..)
    simp only [Sp.above, Bool.and_eq_true] at w
    simp only [List.map_cons, Sp.above, Bool.and_eq_true]
    refine ⟨⟨?_, w.1.2⟩, ?_⟩
    · cases lo with
      | none => rfl
      | some l =>
        have := hlo l rfl
        have hl : l < k := by simpa using w.1.1
        simp only [Option.map_some, decide_eq_true_eq]
        omega
    · exact ih (some k) (fun e he => h e (List.mem_cons_of_mem _ he)) (fun l hl => by cases hl; exact hk) w.2

/-- A range of a memory moved elsewhere is canonical. -/
theorem Memory.wf_slice (m : Memory) (a n b : Nat) (w : m.wf = true) : (m.slice a n b).wf = true := by
  have f := Sp.above_filter (0 : Byte) m (fun c => a ≤ c.1 && c.1 < a + n) none w
  refine Sp.above_map_shift _ a b none ?_ (by simp) f
  intro e he
  have := (List.mem_filter.mp he).2
  simp only [Bool.and_eq_true, decide_eq_true_eq] at this
  exact this.1

/-- Two canonical maps that read the same everywhere are the same list. -/
theorem Sp.ext_above [DecidableEq α] (d : α) (m n : Sparse α) (lo : Option Nat)
    (wm : Sp.above d lo m = true) (wn : Sp.above d lo n = true)
    (h : ∀ k, Sp.get d m k = Sp.get d n k) : m = n := by
  have nilCase : ∀ (k : Nat) (x : α) (m : Sparse α) (lo : Option Nat), Sp.above d lo ((k, x) :: m) = true →
      (∀ j, Sp.get d ((k, x) :: m) j = d) → False := by
    intro k x m lo w h
    have := h k
    simp [Sp.get] at this
    simp [Sp.above, this] at w
  have below : ∀ (m : Sparse α) (l : Nat), Sp.above d (some l) m = true → ∀ j, j ≤ l → Sp.get d m j = d := by
    intro m
    induction m with
    | nil => intros; rfl
    | cons e m ih =>
      obtain ⟨k, x⟩ := e
      intro l w j hj
      simp only [Sp.above, Bool.and_eq_true, decide_eq_true_eq] at w
      have : k ≠ j := by omega
      simp only [Sp.get, this, if_false]
      exact ih k w.2 j (by omega)
  induction m generalizing n lo with
  | nil =>
    cases n with
    | nil => rfl
    | cons e n => exact (nilCase e.1 e.2 n lo wn fun j => (h j).symm).elim
  | cons e m ih =>
    obtain ⟨k, x⟩ := e
    cases n with
    | nil => exact (nilCase k x m lo wm h).elim
    | cons e' n =>
      obtain ⟨j, y⟩ := e'
      have wm' := wm
      have wn' := wn
      simp only [Sp.above, Bool.and_eq_true, bne_iff_ne, ne_eq] at wm wn
      have hkj : k = j := by
        rcases Nat.lt_trichotomy k j with c | c | c
        · exfalso
          have := h k
          simp only [Sp.get, if_true] at this
          rw [if_neg (by omega), below n j wn.2 k (by omega)] at this
          exact wm.1.2 this
        · exact c
        · exfalso
          have := h j
          simp only [Sp.get, if_true] at this
          rw [if_neg (by omega), below m k wm.2 j (by omega)] at this
          exact wn.1.2 this.symm
      subst hkj
      have hxy : x = y := by have := h k; simpa [Sp.get] using this
      subst hxy
      congr 1
      refine ih n (some k) wm.2 wn.2 fun i => ?_
      by_cases hi : i ≤ k
      · rw [below m k wm.2 i hi, below n k wn.2 i hi]
      · have := h i
        have hne : k ≠ i := by omega
        simpa [Sp.get, hne] using this

/-- Equal memories are equal data. -/
theorem Memory.ext (m n : Memory) (wm : m.wf = true) (wn : n.wf = true) (h : ∀ a, m.get a = n.get a) : m = n :=
  Sp.ext_above (0 : Byte) m n none wm wn h

end Sys2Proof.Machine
end

