-- ==== Sys2Proof/Laws/State.lean ====
section
/-! SUPPORT. Lemmas about the updates of the state: what each changes and leaves, and reading a part back after it. -/

namespace Sys2Proof.Machine

namespace State

@[simp] theorem modCore_cycle (s : State) (c : Nat) (f : Core → Core) : (s.modCore c f).cycle = s.cycle := rfl
@[simp] theorem modCore_time (s : State) (c : Nat) (f : Core → Core) : (s.modCore c f).time = s.time := rfl
@[simp] theorem modCore_mem (s : State) (c : Nat) (f : Core → Core) : (s.modCore c f).mem = s.mem := rfl
@[simp] theorem modCore_poison (s : State) (c : Nat) (f : Core → Core) : (s.modCore c f).poison = s.poison := rfl
@[simp] theorem modCore_cores (s : State) (c : Nat) (f : Core → Core) : (s.modCore c f).cores = Sp.set Core.reset s.cores c (f (s.core c)) := rfl
@[simp] theorem modCore_teams (s : State) (c : Nat) (f : Core → Core) : (s.modCore c f).teams = s.teams := rfl
@[simp] theorem modCore_clusters (s : State) (c : Nat) (f : Core → Core) : (s.modCore c f).clusters = s.clusters := rfl
@[simp] theorem modCore_grids (s : State) (c : Nat) (f : Core → Core) : (s.modCore c f).grids = s.grids := rfl
@[simp] theorem modCore_ctxs (s : State) (c : Nat) (f : Core → Core) : (s.modCore c f).ctxs = s.ctxs := rfl
@[simp] theorem modCore_dieTlb (s : State) (c : Nat) (f : Core → Core) : (s.modCore c f).dieTlb = s.dieTlb := rfl
@[simp] theorem modCore_home (s : State) (c : Nat) (f : Core → Core) : (s.modCore c f).home = s.home := rfl
@[simp] theorem modCore_prq (s : State) (c : Nat) (f : Core → Core) : (s.modCore c f).prq = s.prq := rfl
@[simp] theorem modCore_mgmt (s : State) (c : Nat) (f : Core → Core) : (s.modCore c f).mgmt = s.mgmt := rfl
@[simp] theorem modCore_host (s : State) (c : Nat) (f : Core → Core) : (s.modCore c f).host = s.host := rfl
@[simp] theorem modCore_fab (s : State) (c : Nat) (f : Core → Core) : (s.modCore c f).fab = s.fab := rfl
@[simp] theorem modCore_repair (s : State) (c : Nat) (f : Core → Core) : (s.modCore c f).repair = s.repair := rfl
@[simp] theorem modCore_agenda (s : State) (c : Nat) (f : Core → Core) : (s.modCore c f).agenda = s.agenda := rfl
@[simp] theorem modCore_cur (s : State) (c : Nat) (f : Core → Core) : (s.modCore c f).cur = s.cur := rfl
@[simp] theorem modCore_arg (s : State) (c : Nat) (f : Core → Core) : (s.modCore c f).arg = s.arg := rfl
@[simp] theorem modCore_fresh (s : State) (c : Nat) (f : Core → Core) : (s.modCore c f).fresh = s.fresh := rfl
@[simp] theorem modCore_nextId (s : State) (c : Nat) (f : Core → Core) : (s.modCore c f).nextId = s.nextId := rfl
@[simp] theorem modCore_ctx (s : State) (c : Nat) (f : Core → Core) (k : Nat) : (s.modCore c f).ctx k = s.ctx k := rfl
@[simp] theorem modCore_team (s : State) (c : Nat) (f : Core → Core) (k : Nat) : (s.modCore c f).team k = s.team k := rfl
@[simp] theorem modCore_group (s : State) (c : Nat) (f : Core → Core) (k j : Nat) : (s.modCore c f).group k j = s.group k j := rfl
@[simp] theorem modCore_thread (s : State) (c : Nat) (f : Core → Core) (u : Tid) : (s.modCore c f).thread u = s.thread u := rfl
@[simp] theorem modCore_cluster (s : State) (c : Nat) (f : Core → Core) (k : Nat) : (s.modCore c f).cluster k = s.cluster k := rfl
@[simp] theorem modCore_grid (s : State) (c : Nat) (f : Core → Core) (k : Nat) : (s.modCore c f).grid k = s.grid k := rfl
@[simp] theorem modCore_gtime (s : State) (c : Nat) (f : Core → Core) : (s.modCore c f).gtime = s.gtime := rfl

@[simp] theorem modCtx_cycle (s : State) (c : Nat) (f : Ctx → Ctx) : (s.modCtx c f).cycle = s.cycle := rfl
@[simp] theorem modCtx_time (s : State) (c : Nat) (f : Ctx → Ctx) : (s.modCtx c f).time = s.time := rfl
@[simp] theorem modCtx_mem (s : State) (c : Nat) (f : Ctx → Ctx) : (s.modCtx c f).mem = s.mem := rfl
@[simp] theorem modCtx_poison (s : State) (c : Nat) (f : Ctx → Ctx) : (s.modCtx c f).poison = s.poison := rfl
@[simp] theorem modCtx_cores (s : State) (c : Nat) (f : Ctx → Ctx) : (s.modCtx c f).cores = s.cores := rfl
@[simp] theorem modCtx_teams (s : State) (c : Nat) (f : Ctx → Ctx) : (s.modCtx c f).teams = s.teams := rfl
@[simp] theorem modCtx_clusters (s : State) (c : Nat) (f : Ctx → Ctx) : (s.modCtx c f).clusters = s.clusters := rfl
@[simp] theorem modCtx_grids (s : State) (c : Nat) (f : Ctx → Ctx) : (s.modCtx c f).grids = s.grids := rfl
@[simp] theorem modCtx_ctxs (s : State) (c : Nat) (f : Ctx → Ctx) : (s.modCtx c f).ctxs = Sp.set Ctx.reset s.ctxs c (f (s.ctx c)) := rfl
@[simp] theorem modCtx_dieTlb (s : State) (c : Nat) (f : Ctx → Ctx) : (s.modCtx c f).dieTlb = s.dieTlb := rfl
@[simp] theorem modCtx_home (s : State) (c : Nat) (f : Ctx → Ctx) : (s.modCtx c f).home = s.home := rfl
@[simp] theorem modCtx_prq (s : State) (c : Nat) (f : Ctx → Ctx) : (s.modCtx c f).prq = s.prq := rfl
@[simp] theorem modCtx_mgmt (s : State) (c : Nat) (f : Ctx → Ctx) : (s.modCtx c f).mgmt = s.mgmt := rfl
@[simp] theorem modCtx_host (s : State) (c : Nat) (f : Ctx → Ctx) : (s.modCtx c f).host = s.host := rfl
@[simp] theorem modCtx_fab (s : State) (c : Nat) (f : Ctx → Ctx) : (s.modCtx c f).fab = s.fab := rfl
@[simp] theorem modCtx_repair (s : State) (c : Nat) (f : Ctx → Ctx) : (s.modCtx c f).repair = s.repair := rfl
@[simp] theorem modCtx_agenda (s : State) (c : Nat) (f : Ctx → Ctx) : (s.modCtx c f).agenda = s.agenda := rfl
@[simp] theorem modCtx_cur (s : State) (c : Nat) (f : Ctx → Ctx) : (s.modCtx c f).cur = s.cur := rfl
@[simp] theorem modCtx_arg (s : State) (c : Nat) (f : Ctx → Ctx) : (s.modCtx c f).arg = s.arg := rfl
@[simp] theorem modCtx_fresh (s : State) (c : Nat) (f : Ctx → Ctx) : (s.modCtx c f).fresh = s.fresh := rfl
@[simp] theorem modCtx_nextId (s : State) (c : Nat) (f : Ctx → Ctx) : (s.modCtx c f).nextId = s.nextId := rfl
@[simp] theorem modCtx_core (s : State) (c : Nat) (f : Ctx → Ctx) (k : Nat) : (s.modCtx c f).core k = s.core k := rfl
@[simp] theorem modCtx_team (s : State) (c : Nat) (f : Ctx → Ctx) (k : Nat) : (s.modCtx c f).team k = s.team k := rfl
@[simp] theorem modCtx_group (s : State) (c : Nat) (f : Ctx → Ctx) (k j : Nat) : (s.modCtx c f).group k j = s.group k j := rfl
@[simp] theorem modCtx_thread (s : State) (c : Nat) (f : Ctx → Ctx) (u : Tid) : (s.modCtx c f).thread u = s.thread u := rfl
@[simp] theorem modCtx_cluster (s : State) (c : Nat) (f : Ctx → Ctx) (k : Nat) : (s.modCtx c f).cluster k = s.cluster k := rfl
@[simp] theorem modCtx_grid (s : State) (c : Nat) (f : Ctx → Ctx) (k : Nat) : (s.modCtx c f).grid k = s.grid k := rfl
@[simp] theorem modCtx_gtime (s : State) (c : Nat) (f : Ctx → Ctx) : (s.modCtx c f).gtime = s.gtime := rfl

@[simp] theorem modTeam_cycle (s : State) (n : Nat) (f : Team → Team) : (s.modTeam n f).cycle = s.cycle := rfl
@[simp] theorem modTeam_time (s : State) (n : Nat) (f : Team → Team) : (s.modTeam n f).time = s.time := rfl
@[simp] theorem modTeam_mem (s : State) (n : Nat) (f : Team → Team) : (s.modTeam n f).mem = s.mem := rfl
@[simp] theorem modTeam_poison (s : State) (n : Nat) (f : Team → Team) : (s.modTeam n f).poison = s.poison := rfl
@[simp] theorem modTeam_cores (s : State) (n : Nat) (f : Team → Team) : (s.modTeam n f).cores = s.cores := rfl
@[simp] theorem modTeam_teams (s : State) (n : Nat) (f : Team → Team) : (s.modTeam n f).teams = modAt f n s.teams := rfl
@[simp] theorem modTeam_clusters (s : State) (n : Nat) (f : Team → Team) : (s.modTeam n f).clusters = s.clusters := rfl
@[simp] theorem modTeam_grids (s : State) (n : Nat) (f : Team → Team) : (s.modTeam n f).grids = s.grids := rfl
@[simp] theorem modTeam_ctxs (s : State) (n : Nat) (f : Team → Team) : (s.modTeam n f).ctxs = s.ctxs := rfl
@[simp] theorem modTeam_dieTlb (s : State) (n : Nat) (f : Team → Team) : (s.modTeam n f).dieTlb = s.dieTlb := rfl
@[simp] theorem modTeam_home (s : State) (n : Nat) (f : Team → Team) : (s.modTeam n f).home = s.home := rfl
@[simp] theorem modTeam_prq (s : State) (n : Nat) (f : Team → Team) : (s.modTeam n f).prq = s.prq := rfl
@[simp] theorem modTeam_mgmt (s : State) (n : Nat) (f : Team → Team) : (s.modTeam n f).mgmt = s.mgmt := rfl
@[simp] theorem modTeam_host (s : State) (n : Nat) (f : Team → Team) : (s.modTeam n f).host = s.host := rfl
@[simp] theorem modTeam_fab (s : State) (n : Nat) (f : Team → Team) : (s.modTeam n f).fab = s.fab := rfl
@[simp] theorem modTeam_repair (s : State) (n : Nat) (f : Team → Team) : (s.modTeam n f).repair = s.repair := rfl
@[simp] theorem modTeam_agenda (s : State) (n : Nat) (f : Team → Team) : (s.modTeam n f).agenda = s.agenda := rfl
@[simp] theorem modTeam_cur (s : State) (n : Nat) (f : Team → Team) : (s.modTeam n f).cur = s.cur := rfl
@[simp] theorem modTeam_arg (s : State) (n : Nat) (f : Team → Team) : (s.modTeam n f).arg = s.arg := rfl
@[simp] theorem modTeam_fresh (s : State) (n : Nat) (f : Team → Team) : (s.modTeam n f).fresh = s.fresh := rfl
@[simp] theorem modTeam_nextId (s : State) (n : Nat) (f : Team → Team) : (s.modTeam n f).nextId = s.nextId := rfl
@[simp] theorem modTeam_core (s : State) (n : Nat) (f : Team → Team) (k : Nat) : (s.modTeam n f).core k = s.core k := rfl
@[simp] theorem modTeam_ctx (s : State) (n : Nat) (f : Team → Team) (k : Nat) : (s.modTeam n f).ctx k = s.ctx k := rfl
@[simp] theorem modTeam_cluster (s : State) (n : Nat) (f : Team → Team) (k : Nat) : (s.modTeam n f).cluster k = s.cluster k := rfl
@[simp] theorem modTeam_grid (s : State) (n : Nat) (f : Team → Team) (k : Nat) : (s.modTeam n f).grid k = s.grid k := rfl
@[simp] theorem modTeam_gtime (s : State) (n : Nat) (f : Team → Team) : (s.modTeam n f).gtime = s.gtime := rfl

@[simp] theorem modGroup_cycle (s : State) (n g : Nat) (f : Group → Group) : (s.modGroup n g f).cycle = s.cycle := rfl
@[simp] theorem modGroup_time (s : State) (n g : Nat) (f : Group → Group) : (s.modGroup n g f).time = s.time := rfl
@[simp] theorem modGroup_mem (s : State) (n g : Nat) (f : Group → Group) : (s.modGroup n g f).mem = s.mem := rfl
@[simp] theorem modGroup_poison (s : State) (n g : Nat) (f : Group → Group) : (s.modGroup n g f).poison = s.poison := rfl
@[simp] theorem modGroup_cores (s : State) (n g : Nat) (f : Group → Group) : (s.modGroup n g f).cores = s.cores := rfl
@[simp] theorem modGroup_clusters (s : State) (n g : Nat) (f : Group → Group) : (s.modGroup n g f).clusters = s.clusters := rfl
@[simp] theorem modGroup_grids (s : State) (n g : Nat) (f : Group → Group) : (s.modGroup n g f).grids = s.grids := rfl
@[simp] theorem modGroup_ctxs (s : State) (n g : Nat) (f : Group → Group) : (s.modGroup n g f).ctxs = s.ctxs := rfl
@[simp] theorem modGroup_dieTlb (s : State) (n g : Nat) (f : Group → Group) : (s.modGroup n g f).dieTlb = s.dieTlb := rfl
@[simp] theorem modGroup_home (s : State) (n g : Nat) (f : Group → Group) : (s.modGroup n g f).home = s.home := rfl
@[simp] theorem modGroup_prq (s : State) (n g : Nat) (f : Group → Group) : (s.modGroup n g f).prq = s.prq := rfl
@[simp] theorem modGroup_mgmt (s : State) (n g : Nat) (f : Group → Group) : (s.modGroup n g f).mgmt = s.mgmt := rfl
@[simp] theorem modGroup_host (s : State) (n g : Nat) (f : Group → Group) : (s.modGroup n g f).host = s.host := rfl
@[simp] theorem modGroup_fab (s : State) (n g : Nat) (f : Group → Group) : (s.modGroup n g f).fab = s.fab := rfl
@[simp] theorem modGroup_repair (s : State) (n g : Nat) (f : Group → Group) : (s.modGroup n g f).repair = s.repair := rfl
@[simp] theorem modGroup_agenda (s : State) (n g : Nat) (f : Group → Group) : (s.modGroup n g f).agenda = s.agenda := rfl
@[simp] theorem modGroup_cur (s : State) (n g : Nat) (f : Group → Group) : (s.modGroup n g f).cur = s.cur := rfl
@[simp] theorem modGroup_arg (s : State) (n g : Nat) (f : Group → Group) : (s.modGroup n g f).arg = s.arg := rfl
@[simp] theorem modGroup_fresh (s : State) (n g : Nat) (f : Group → Group) : (s.modGroup n g f).fresh = s.fresh := rfl
@[simp] theorem modGroup_nextId (s : State) (n g : Nat) (f : Group → Group) : (s.modGroup n g f).nextId = s.nextId := rfl
@[simp] theorem modGroup_core (s : State) (n g : Nat) (f : Group → Group) (k : Nat) : (s.modGroup n g f).core k = s.core k := rfl
@[simp] theorem modGroup_ctx (s : State) (n g : Nat) (f : Group → Group) (k : Nat) : (s.modGroup n g f).ctx k = s.ctx k := rfl
@[simp] theorem modGroup_cluster (s : State) (n g : Nat) (f : Group → Group) (k : Nat) : (s.modGroup n g f).cluster k = s.cluster k := rfl
@[simp] theorem modGroup_grid (s : State) (n g : Nat) (f : Group → Group) (k : Nat) : (s.modGroup n g f).grid k = s.grid k := rfl
@[simp] theorem modGroup_gtime (s : State) (n g : Nat) (f : Group → Group) : (s.modGroup n g f).gtime = s.gtime := rfl

@[simp] theorem modThread_cycle (s : State) (t : Tid) (f : Thread → Thread) : (s.modThread t f).cycle = s.cycle := rfl
@[simp] theorem modThread_time (s : State) (t : Tid) (f : Thread → Thread) : (s.modThread t f).time = s.time := rfl
@[simp] theorem modThread_mem (s : State) (t : Tid) (f : Thread → Thread) : (s.modThread t f).mem = s.mem := rfl
@[simp] theorem modThread_poison (s : State) (t : Tid) (f : Thread → Thread) : (s.modThread t f).poison = s.poison := rfl
@[simp] theorem modThread_cores (s : State) (t : Tid) (f : Thread → Thread) : (s.modThread t f).cores = s.cores := rfl
@[simp] theorem modThread_clusters (s : State) (t : Tid) (f : Thread → Thread) : (s.modThread t f).clusters = s.clusters := rfl
@[simp] theorem modThread_grids (s : State) (t : Tid) (f : Thread → Thread) : (s.modThread t f).grids = s.grids := rfl
@[simp] theorem modThread_ctxs (s : State) (t : Tid) (f : Thread → Thread) : (s.modThread t f).ctxs = s.ctxs := rfl
@[simp] theorem modThread_dieTlb (s : State) (t : Tid) (f : Thread → Thread) : (s.modThread t f).dieTlb = s.dieTlb := rfl
@[simp] theorem modThread_home (s : State) (t : Tid) (f : Thread → Thread) : (s.modThread t f).home = s.home := rfl
@[simp] theorem modThread_prq (s : State) (t : Tid) (f : Thread → Thread) : (s.modThread t f).prq = s.prq := rfl
@[simp] theorem modThread_mgmt (s : State) (t : Tid) (f : Thread → Thread) : (s.modThread t f).mgmt = s.mgmt := rfl
@[simp] theorem modThread_host (s : State) (t : Tid) (f : Thread → Thread) : (s.modThread t f).host = s.host := rfl
@[simp] theorem modThread_fab (s : State) (t : Tid) (f : Thread → Thread) : (s.modThread t f).fab = s.fab := rfl
@[simp] theorem modThread_repair (s : State) (t : Tid) (f : Thread → Thread) : (s.modThread t f).repair = s.repair := rfl
@[simp] theorem modThread_agenda (s : State) (t : Tid) (f : Thread → Thread) : (s.modThread t f).agenda = s.agenda := rfl
@[simp] theorem modThread_cur (s : State) (t : Tid) (f : Thread → Thread) : (s.modThread t f).cur = s.cur := rfl
@[simp] theorem modThread_arg (s : State) (t : Tid) (f : Thread → Thread) : (s.modThread t f).arg = s.arg := rfl
@[simp] theorem modThread_fresh (s : State) (t : Tid) (f : Thread → Thread) : (s.modThread t f).fresh = s.fresh := rfl
@[simp] theorem modThread_nextId (s : State) (t : Tid) (f : Thread → Thread) : (s.modThread t f).nextId = s.nextId := rfl
@[simp] theorem modThread_core (s : State) (t : Tid) (f : Thread → Thread) (k : Nat) : (s.modThread t f).core k = s.core k := rfl
@[simp] theorem modThread_ctx (s : State) (t : Tid) (f : Thread → Thread) (k : Nat) : (s.modThread t f).ctx k = s.ctx k := rfl
@[simp] theorem modThread_cluster (s : State) (t : Tid) (f : Thread → Thread) (k : Nat) : (s.modThread t f).cluster k = s.cluster k := rfl
@[simp] theorem modThread_grid (s : State) (t : Tid) (f : Thread → Thread) (k : Nat) : (s.modThread t f).grid k = s.grid k := rfl
@[simp] theorem modThread_gtime (s : State) (t : Tid) (f : Thread → Thread) : (s.modThread t f).gtime = s.gtime := rfl

@[simp] theorem modCluster_cycle (s : State) (n : Nat) (f : Cluster → Cluster) : (s.modCluster n f).cycle = s.cycle := rfl
@[simp] theorem modCluster_time (s : State) (n : Nat) (f : Cluster → Cluster) : (s.modCluster n f).time = s.time := rfl
@[simp] theorem modCluster_mem (s : State) (n : Nat) (f : Cluster → Cluster) : (s.modCluster n f).mem = s.mem := rfl
@[simp] theorem modCluster_poison (s : State) (n : Nat) (f : Cluster → Cluster) : (s.modCluster n f).poison = s.poison := rfl
@[simp] theorem modCluster_cores (s : State) (n : Nat) (f : Cluster → Cluster) : (s.modCluster n f).cores = s.cores := rfl
@[simp] theorem modCluster_teams (s : State) (n : Nat) (f : Cluster → Cluster) : (s.modCluster n f).teams = s.teams := rfl
@[simp] theorem modCluster_clusters (s : State) (n : Nat) (f : Cluster → Cluster) : (s.modCluster n f).clusters = modAt f n s.clusters := rfl
@[simp] theorem modCluster_grids (s : State) (n : Nat) (f : Cluster → Cluster) : (s.modCluster n f).grids = s.grids := rfl
@[simp] theorem modCluster_ctxs (s : State) (n : Nat) (f : Cluster → Cluster) : (s.modCluster n f).ctxs = s.ctxs := rfl
@[simp] theorem modCluster_dieTlb (s : State) (n : Nat) (f : Cluster → Cluster) : (s.modCluster n f).dieTlb = s.dieTlb := rfl
@[simp] theorem modCluster_home (s : State) (n : Nat) (f : Cluster → Cluster) : (s.modCluster n f).home = s.home := rfl
@[simp] theorem modCluster_prq (s : State) (n : Nat) (f : Cluster → Cluster) : (s.modCluster n f).prq = s.prq := rfl
@[simp] theorem modCluster_mgmt (s : State) (n : Nat) (f : Cluster → Cluster) : (s.modCluster n f).mgmt = s.mgmt := rfl
@[simp] theorem modCluster_host (s : State) (n : Nat) (f : Cluster → Cluster) : (s.modCluster n f).host = s.host := rfl
@[simp] theorem modCluster_fab (s : State) (n : Nat) (f : Cluster → Cluster) : (s.modCluster n f).fab = s.fab := rfl
@[simp] theorem modCluster_repair (s : State) (n : Nat) (f : Cluster → Cluster) : (s.modCluster n f).repair = s.repair := rfl
@[simp] theorem modCluster_agenda (s : State) (n : Nat) (f : Cluster → Cluster) : (s.modCluster n f).agenda = s.agenda := rfl
@[simp] theorem modCluster_cur (s : State) (n : Nat) (f : Cluster → Cluster) : (s.modCluster n f).cur = s.cur := rfl
@[simp] theorem modCluster_arg (s : State) (n : Nat) (f : Cluster → Cluster) : (s.modCluster n f).arg = s.arg := rfl
@[simp] theorem modCluster_fresh (s : State) (n : Nat) (f : Cluster → Cluster) : (s.modCluster n f).fresh = s.fresh := rfl
@[simp] theorem modCluster_nextId (s : State) (n : Nat) (f : Cluster → Cluster) : (s.modCluster n f).nextId = s.nextId := rfl
@[simp] theorem modCluster_core (s : State) (n : Nat) (f : Cluster → Cluster) (k : Nat) : (s.modCluster n f).core k = s.core k := rfl
@[simp] theorem modCluster_ctx (s : State) (n : Nat) (f : Cluster → Cluster) (k : Nat) : (s.modCluster n f).ctx k = s.ctx k := rfl
@[simp] theorem modCluster_team (s : State) (n : Nat) (f : Cluster → Cluster) (k : Nat) : (s.modCluster n f).team k = s.team k := rfl
@[simp] theorem modCluster_group (s : State) (n : Nat) (f : Cluster → Cluster) (k j : Nat) : (s.modCluster n f).group k j = s.group k j := rfl
@[simp] theorem modCluster_thread (s : State) (n : Nat) (f : Cluster → Cluster) (u : Tid) : (s.modCluster n f).thread u = s.thread u := rfl
@[simp] theorem modCluster_grid (s : State) (n : Nat) (f : Cluster → Cluster) (k : Nat) : (s.modCluster n f).grid k = s.grid k := rfl
@[simp] theorem modCluster_gtime (s : State) (n : Nat) (f : Cluster → Cluster) : (s.modCluster n f).gtime = s.gtime := rfl

@[simp] theorem modGrid_cycle (s : State) (n : Nat) (f : Grid → Grid) : (s.modGrid n f).cycle = s.cycle := rfl
@[simp] theorem modGrid_time (s : State) (n : Nat) (f : Grid → Grid) : (s.modGrid n f).time = s.time := rfl
@[simp] theorem modGrid_mem (s : State) (n : Nat) (f : Grid → Grid) : (s.modGrid n f).mem = s.mem := rfl
@[simp] theorem modGrid_poison (s : State) (n : Nat) (f : Grid → Grid) : (s.modGrid n f).poison = s.poison := rfl
@[simp] theorem modGrid_cores (s : State) (n : Nat) (f : Grid → Grid) : (s.modGrid n f).cores = s.cores := rfl
@[simp] theorem modGrid_teams (s : State) (n : Nat) (f : Grid → Grid) : (s.modGrid n f).teams = s.teams := rfl
@[simp] theorem modGrid_clusters (s : State) (n : Nat) (f : Grid → Grid) : (s.modGrid n f).clusters = s.clusters := rfl
@[simp] theorem modGrid_grids (s : State) (n : Nat) (f : Grid → Grid) : (s.modGrid n f).grids = modAt f n s.grids := rfl
@[simp] theorem modGrid_ctxs (s : State) (n : Nat) (f : Grid → Grid) : (s.modGrid n f).ctxs = s.ctxs := rfl
@[simp] theorem modGrid_dieTlb (s : State) (n : Nat) (f : Grid → Grid) : (s.modGrid n f).dieTlb = s.dieTlb := rfl
@[simp] theorem modGrid_home (s : State) (n : Nat) (f : Grid → Grid) : (s.modGrid n f).home = s.home := rfl
@[simp] theorem modGrid_prq (s : State) (n : Nat) (f : Grid → Grid) : (s.modGrid n f).prq = s.prq := rfl
@[simp] theorem modGrid_mgmt (s : State) (n : Nat) (f : Grid → Grid) : (s.modGrid n f).mgmt = s.mgmt := rfl
@[simp] theorem modGrid_host (s : State) (n : Nat) (f : Grid → Grid) : (s.modGrid n f).host = s.host := rfl
@[simp] theorem modGrid_fab (s : State) (n : Nat) (f : Grid → Grid) : (s.modGrid n f).fab = s.fab := rfl
@[simp] theorem modGrid_repair (s : State) (n : Nat) (f : Grid → Grid) : (s.modGrid n f).repair = s.repair := rfl
@[simp] theorem modGrid_agenda (s : State) (n : Nat) (f : Grid → Grid) : (s.modGrid n f).agenda = s.agenda := rfl
@[simp] theorem modGrid_cur (s : State) (n : Nat) (f : Grid → Grid) : (s.modGrid n f).cur = s.cur := rfl
@[simp] theorem modGrid_arg (s : State) (n : Nat) (f : Grid → Grid) : (s.modGrid n f).arg = s.arg := rfl
@[simp] theorem modGrid_fresh (s : State) (n : Nat) (f : Grid → Grid) : (s.modGrid n f).fresh = s.fresh := rfl
@[simp] theorem modGrid_nextId (s : State) (n : Nat) (f : Grid → Grid) : (s.modGrid n f).nextId = s.nextId := rfl
@[simp] theorem modGrid_core (s : State) (n : Nat) (f : Grid → Grid) (k : Nat) : (s.modGrid n f).core k = s.core k := rfl
@[simp] theorem modGrid_ctx (s : State) (n : Nat) (f : Grid → Grid) (k : Nat) : (s.modGrid n f).ctx k = s.ctx k := rfl
@[simp] theorem modGrid_team (s : State) (n : Nat) (f : Grid → Grid) (k : Nat) : (s.modGrid n f).team k = s.team k := rfl
@[simp] theorem modGrid_group (s : State) (n : Nat) (f : Grid → Grid) (k j : Nat) : (s.modGrid n f).group k j = s.group k j := rfl
@[simp] theorem modGrid_thread (s : State) (n : Nat) (f : Grid → Grid) (u : Tid) : (s.modGrid n f).thread u = s.thread u := rfl
@[simp] theorem modGrid_cluster (s : State) (n : Nat) (f : Grid → Grid) (k : Nat) : (s.modGrid n f).cluster k = s.cluster k := rfl
@[simp] theorem modGrid_gtime (s : State) (n : Nat) (f : Grid → Grid) : (s.modGrid n f).gtime = s.gtime := rfl

@[simp] theorem modHome_cycle (s : State) (f : Home → Home) : (s.modHome f).cycle = s.cycle := rfl
@[simp] theorem modHome_time (s : State) (f : Home → Home) : (s.modHome f).time = s.time := rfl
@[simp] theorem modHome_mem (s : State) (f : Home → Home) : (s.modHome f).mem = s.mem := rfl
@[simp] theorem modHome_poison (s : State) (f : Home → Home) : (s.modHome f).poison = s.poison := rfl
@[simp] theorem modHome_cores (s : State) (f : Home → Home) : (s.modHome f).cores = s.cores := rfl
@[simp] theorem modHome_teams (s : State) (f : Home → Home) : (s.modHome f).teams = s.teams := rfl
@[simp] theorem modHome_clusters (s : State) (f : Home → Home) : (s.modHome f).clusters = s.clusters := rfl
@[simp] theorem modHome_grids (s : State) (f : Home → Home) : (s.modHome f).grids = s.grids := rfl
@[simp] theorem modHome_ctxs (s : State) (f : Home → Home) : (s.modHome f).ctxs = s.ctxs := rfl
@[simp] theorem modHome_dieTlb (s : State) (f : Home → Home) : (s.modHome f).dieTlb = s.dieTlb := rfl
@[simp] theorem modHome_home (s : State) (f : Home → Home) : (s.modHome f).home = f s.home := rfl
@[simp] theorem modHome_prq (s : State) (f : Home → Home) : (s.modHome f).prq = s.prq := rfl
@[simp] theorem modHome_mgmt (s : State) (f : Home → Home) : (s.modHome f).mgmt = s.mgmt := rfl
@[simp] theorem modHome_host (s : State) (f : Home → Home) : (s.modHome f).host = s.host := rfl
@[simp] theorem modHome_fab (s : State) (f : Home → Home) : (s.modHome f).fab = s.fab := rfl
@[simp] theorem modHome_repair (s : State) (f : Home → Home) : (s.modHome f).repair = s.repair := rfl
@[simp] theorem modHome_agenda (s : State) (f : Home → Home) : (s.modHome f).agenda = s.agenda := rfl
@[simp] theorem modHome_cur (s : State) (f : Home → Home) : (s.modHome f).cur = s.cur := rfl
@[simp] theorem modHome_arg (s : State) (f : Home → Home) : (s.modHome f).arg = s.arg := rfl
@[simp] theorem modHome_fresh (s : State) (f : Home → Home) : (s.modHome f).fresh = s.fresh := rfl
@[simp] theorem modHome_nextId (s : State) (f : Home → Home) : (s.modHome f).nextId = s.nextId := rfl
@[simp] theorem modHome_core (s : State) (f : Home → Home) (k : Nat) : (s.modHome f).core k = s.core k := rfl
@[simp] theorem modHome_ctx (s : State) (f : Home → Home) (k : Nat) : (s.modHome f).ctx k = s.ctx k := rfl
@[simp] theorem modHome_team (s : State) (f : Home → Home) (k : Nat) : (s.modHome f).team k = s.team k := rfl
@[simp] theorem modHome_group (s : State) (f : Home → Home) (k j : Nat) : (s.modHome f).group k j = s.group k j := rfl
@[simp] theorem modHome_thread (s : State) (f : Home → Home) (u : Tid) : (s.modHome f).thread u = s.thread u := rfl
@[simp] theorem modHome_cluster (s : State) (f : Home → Home) (k : Nat) : (s.modHome f).cluster k = s.cluster k := rfl
@[simp] theorem modHome_grid (s : State) (f : Home → Home) (k : Nat) : (s.modHome f).grid k = s.grid k := rfl
@[simp] theorem modHome_gtime (s : State) (f : Home → Home) : (s.modHome f).gtime = s.gtime := rfl

@[simp] theorem modHost_cycle (s : State) (f : HostPort → HostPort) : (s.modHost f).cycle = s.cycle := rfl
@[simp] theorem modHost_time (s : State) (f : HostPort → HostPort) : (s.modHost f).time = s.time := rfl
@[simp] theorem modHost_mem (s : State) (f : HostPort → HostPort) : (s.modHost f).mem = s.mem := rfl
@[simp] theorem modHost_poison (s : State) (f : HostPort → HostPort) : (s.modHost f).poison = s.poison := rfl
@[simp] theorem modHost_cores (s : State) (f : HostPort → HostPort) : (s.modHost f).cores = s.cores := rfl
@[simp] theorem modHost_teams (s : State) (f : HostPort → HostPort) : (s.modHost f).teams = s.teams := rfl
@[simp] theorem modHost_clusters (s : State) (f : HostPort → HostPort) : (s.modHost f).clusters = s.clusters := rfl
@[simp] theorem modHost_grids (s : State) (f : HostPort → HostPort) : (s.modHost f).grids = s.grids := rfl
@[simp] theorem modHost_ctxs (s : State) (f : HostPort → HostPort) : (s.modHost f).ctxs = s.ctxs := rfl
@[simp] theorem modHost_dieTlb (s : State) (f : HostPort → HostPort) : (s.modHost f).dieTlb = s.dieTlb := rfl
@[simp] theorem modHost_home (s : State) (f : HostPort → HostPort) : (s.modHost f).home = s.home := rfl
@[simp] theorem modHost_prq (s : State) (f : HostPort → HostPort) : (s.modHost f).prq = s.prq := rfl
@[simp] theorem modHost_mgmt (s : State) (f : HostPort → HostPort) : (s.modHost f).mgmt = s.mgmt := rfl
@[simp] theorem modHost_host (s : State) (f : HostPort → HostPort) : (s.modHost f).host = f s.host := rfl
@[simp] theorem modHost_fab (s : State) (f : HostPort → HostPort) : (s.modHost f).fab = s.fab := rfl
@[simp] theorem modHost_repair (s : State) (f : HostPort → HostPort) : (s.modHost f).repair = s.repair := rfl
@[simp] theorem modHost_agenda (s : State) (f : HostPort → HostPort) : (s.modHost f).agenda = s.agenda := rfl
@[simp] theorem modHost_cur (s : State) (f : HostPort → HostPort) : (s.modHost f).cur = s.cur := rfl
@[simp] theorem modHost_arg (s : State) (f : HostPort → HostPort) : (s.modHost f).arg = s.arg := rfl
@[simp] theorem modHost_fresh (s : State) (f : HostPort → HostPort) : (s.modHost f).fresh = s.fresh := rfl
@[simp] theorem modHost_nextId (s : State) (f : HostPort → HostPort) : (s.modHost f).nextId = s.nextId := rfl
@[simp] theorem modHost_core (s : State) (f : HostPort → HostPort) (k : Nat) : (s.modHost f).core k = s.core k := rfl
@[simp] theorem modHost_ctx (s : State) (f : HostPort → HostPort) (k : Nat) : (s.modHost f).ctx k = s.ctx k := rfl
@[simp] theorem modHost_team (s : State) (f : HostPort → HostPort) (k : Nat) : (s.modHost f).team k = s.team k := rfl
@[simp] theorem modHost_group (s : State) (f : HostPort → HostPort) (k j : Nat) : (s.modHost f).group k j = s.group k j := rfl
@[simp] theorem modHost_thread (s : State) (f : HostPort → HostPort) (u : Tid) : (s.modHost f).thread u = s.thread u := rfl
@[simp] theorem modHost_cluster (s : State) (f : HostPort → HostPort) (k : Nat) : (s.modHost f).cluster k = s.cluster k := rfl
@[simp] theorem modHost_grid (s : State) (f : HostPort → HostPort) (k : Nat) : (s.modHost f).grid k = s.grid k := rfl
@[simp] theorem modHost_gtime (s : State) (f : HostPort → HostPort) : (s.modHost f).gtime = s.gtime := rfl

@[simp] theorem modFab_cycle (s : State) (f : Fabric → Fabric) : (s.modFab f).cycle = s.cycle := rfl
@[simp] theorem modFab_time (s : State) (f : Fabric → Fabric) : (s.modFab f).time = s.time := rfl
@[simp] theorem modFab_mem (s : State) (f : Fabric → Fabric) : (s.modFab f).mem = s.mem := rfl
@[simp] theorem modFab_poison (s : State) (f : Fabric → Fabric) : (s.modFab f).poison = s.poison := rfl
@[simp] theorem modFab_cores (s : State) (f : Fabric → Fabric) : (s.modFab f).cores = s.cores := rfl
@[simp] theorem modFab_teams (s : State) (f : Fabric → Fabric) : (s.modFab f).teams = s.teams := rfl
@[simp] theorem modFab_clusters (s : State) (f : Fabric → Fabric) : (s.modFab f).clusters = s.clusters := rfl
@[simp] theorem modFab_grids (s : State) (f : Fabric → Fabric) : (s.modFab f).grids = s.grids := rfl
@[simp] theorem modFab_ctxs (s : State) (f : Fabric → Fabric) : (s.modFab f).ctxs = s.ctxs := rfl
@[simp] theorem modFab_dieTlb (s : State) (f : Fabric → Fabric) : (s.modFab f).dieTlb = s.dieTlb := rfl
@[simp] theorem modFab_home (s : State) (f : Fabric → Fabric) : (s.modFab f).home = s.home := rfl
@[simp] theorem modFab_prq (s : State) (f : Fabric → Fabric) : (s.modFab f).prq = s.prq := rfl
@[simp] theorem modFab_mgmt (s : State) (f : Fabric → Fabric) : (s.modFab f).mgmt = s.mgmt := rfl
@[simp] theorem modFab_host (s : State) (f : Fabric → Fabric) : (s.modFab f).host = s.host := rfl
@[simp] theorem modFab_fab (s : State) (f : Fabric → Fabric) : (s.modFab f).fab = f s.fab := rfl
@[simp] theorem modFab_repair (s : State) (f : Fabric → Fabric) : (s.modFab f).repair = s.repair := rfl
@[simp] theorem modFab_agenda (s : State) (f : Fabric → Fabric) : (s.modFab f).agenda = s.agenda := rfl
@[simp] theorem modFab_cur (s : State) (f : Fabric → Fabric) : (s.modFab f).cur = s.cur := rfl
@[simp] theorem modFab_arg (s : State) (f : Fabric → Fabric) : (s.modFab f).arg = s.arg := rfl
@[simp] theorem modFab_fresh (s : State) (f : Fabric → Fabric) : (s.modFab f).fresh = s.fresh := rfl
@[simp] theorem modFab_nextId (s : State) (f : Fabric → Fabric) : (s.modFab f).nextId = s.nextId := rfl
@[simp] theorem modFab_core (s : State) (f : Fabric → Fabric) (k : Nat) : (s.modFab f).core k = s.core k := rfl
@[simp] theorem modFab_ctx (s : State) (f : Fabric → Fabric) (k : Nat) : (s.modFab f).ctx k = s.ctx k := rfl
@[simp] theorem modFab_team (s : State) (f : Fabric → Fabric) (k : Nat) : (s.modFab f).team k = s.team k := rfl
@[simp] theorem modFab_group (s : State) (f : Fabric → Fabric) (k j : Nat) : (s.modFab f).group k j = s.group k j := rfl
@[simp] theorem modFab_thread (s : State) (f : Fabric → Fabric) (u : Tid) : (s.modFab f).thread u = s.thread u := rfl
@[simp] theorem modFab_cluster (s : State) (f : Fabric → Fabric) (k : Nat) : (s.modFab f).cluster k = s.cluster k := rfl
@[simp] theorem modFab_grid (s : State) (f : Fabric → Fabric) (k : Nat) : (s.modFab f).grid k = s.grid k := rfl
@[simp] theorem modFab_gtime (s : State) (f : Fabric → Fabric) : (s.modFab f).gtime = s.gtime := rfl

@[simp] theorem modMgmt_cycle (s : State) (f : Mgmt → Mgmt) : (s.modMgmt f).cycle = s.cycle := rfl
@[simp] theorem modMgmt_time (s : State) (f : Mgmt → Mgmt) : (s.modMgmt f).time = s.time := rfl
@[simp] theorem modMgmt_mem (s : State) (f : Mgmt → Mgmt) : (s.modMgmt f).mem = s.mem := rfl
@[simp] theorem modMgmt_poison (s : State) (f : Mgmt → Mgmt) : (s.modMgmt f).poison = s.poison := rfl
@[simp] theorem modMgmt_cores (s : State) (f : Mgmt → Mgmt) : (s.modMgmt f).cores = s.cores := rfl
@[simp] theorem modMgmt_teams (s : State) (f : Mgmt → Mgmt) : (s.modMgmt f).teams = s.teams := rfl
@[simp] theorem modMgmt_clusters (s : State) (f : Mgmt → Mgmt) : (s.modMgmt f).clusters = s.clusters := rfl
@[simp] theorem modMgmt_grids (s : State) (f : Mgmt → Mgmt) : (s.modMgmt f).grids = s.grids := rfl
@[simp] theorem modMgmt_ctxs (s : State) (f : Mgmt → Mgmt) : (s.modMgmt f).ctxs = s.ctxs := rfl
@[simp] theorem modMgmt_dieTlb (s : State) (f : Mgmt → Mgmt) : (s.modMgmt f).dieTlb = s.dieTlb := rfl
@[simp] theorem modMgmt_home (s : State) (f : Mgmt → Mgmt) : (s.modMgmt f).home = s.home := rfl
@[simp] theorem modMgmt_prq (s : State) (f : Mgmt → Mgmt) : (s.modMgmt f).prq = s.prq := rfl
@[simp] theorem modMgmt_mgmt (s : State) (f : Mgmt → Mgmt) : (s.modMgmt f).mgmt = f s.mgmt := rfl
@[simp] theorem modMgmt_host (s : State) (f : Mgmt → Mgmt) : (s.modMgmt f).host = s.host := rfl
@[simp] theorem modMgmt_fab (s : State) (f : Mgmt → Mgmt) : (s.modMgmt f).fab = s.fab := rfl
@[simp] theorem modMgmt_repair (s : State) (f : Mgmt → Mgmt) : (s.modMgmt f).repair = s.repair := rfl
@[simp] theorem modMgmt_agenda (s : State) (f : Mgmt → Mgmt) : (s.modMgmt f).agenda = s.agenda := rfl
@[simp] theorem modMgmt_cur (s : State) (f : Mgmt → Mgmt) : (s.modMgmt f).cur = s.cur := rfl
@[simp] theorem modMgmt_arg (s : State) (f : Mgmt → Mgmt) : (s.modMgmt f).arg = s.arg := rfl
@[simp] theorem modMgmt_fresh (s : State) (f : Mgmt → Mgmt) : (s.modMgmt f).fresh = s.fresh := rfl
@[simp] theorem modMgmt_nextId (s : State) (f : Mgmt → Mgmt) : (s.modMgmt f).nextId = s.nextId := rfl
@[simp] theorem modMgmt_core (s : State) (f : Mgmt → Mgmt) (k : Nat) : (s.modMgmt f).core k = s.core k := rfl
@[simp] theorem modMgmt_ctx (s : State) (f : Mgmt → Mgmt) (k : Nat) : (s.modMgmt f).ctx k = s.ctx k := rfl
@[simp] theorem modMgmt_team (s : State) (f : Mgmt → Mgmt) (k : Nat) : (s.modMgmt f).team k = s.team k := rfl
@[simp] theorem modMgmt_group (s : State) (f : Mgmt → Mgmt) (k j : Nat) : (s.modMgmt f).group k j = s.group k j := rfl
@[simp] theorem modMgmt_thread (s : State) (f : Mgmt → Mgmt) (u : Tid) : (s.modMgmt f).thread u = s.thread u := rfl
@[simp] theorem modMgmt_cluster (s : State) (f : Mgmt → Mgmt) (k : Nat) : (s.modMgmt f).cluster k = s.cluster k := rfl
@[simp] theorem modMgmt_grid (s : State) (f : Mgmt → Mgmt) (k : Nat) : (s.modMgmt f).grid k = s.grid k := rfl
@[simp] theorem modMgmt_gtime (s : State) (f : Mgmt → Mgmt) : (s.modMgmt f).gtime = s.gtime := rfl

@[simp] theorem modRepair_cycle (s : State) (f : Repair → Repair) : (s.modRepair f).cycle = s.cycle := rfl
@[simp] theorem modRepair_time (s : State) (f : Repair → Repair) : (s.modRepair f).time = s.time := rfl
@[simp] theorem modRepair_mem (s : State) (f : Repair → Repair) : (s.modRepair f).mem = s.mem := rfl
@[simp] theorem modRepair_poison (s : State) (f : Repair → Repair) : (s.modRepair f).poison = s.poison := rfl
@[simp] theorem modRepair_cores (s : State) (f : Repair → Repair) : (s.modRepair f).cores = s.cores := rfl
@[simp] theorem modRepair_teams (s : State) (f : Repair → Repair) : (s.modRepair f).teams = s.teams := rfl
@[simp] theorem modRepair_clusters (s : State) (f : Repair → Repair) : (s.modRepair f).clusters = s.clusters := rfl
@[simp] theorem modRepair_grids (s : State) (f : Repair → Repair) : (s.modRepair f).grids = s.grids := rfl
@[simp] theorem modRepair_ctxs (s : State) (f : Repair → Repair) : (s.modRepair f).ctxs = s.ctxs := rfl
@[simp] theorem modRepair_dieTlb (s : State) (f : Repair → Repair) : (s.modRepair f).dieTlb = s.dieTlb := rfl
@[simp] theorem modRepair_home (s : State) (f : Repair → Repair) : (s.modRepair f).home = s.home := rfl
@[simp] theorem modRepair_prq (s : State) (f : Repair → Repair) : (s.modRepair f).prq = s.prq := rfl
@[simp] theorem modRepair_mgmt (s : State) (f : Repair → Repair) : (s.modRepair f).mgmt = s.mgmt := rfl
@[simp] theorem modRepair_host (s : State) (f : Repair → Repair) : (s.modRepair f).host = s.host := rfl
@[simp] theorem modRepair_fab (s : State) (f : Repair → Repair) : (s.modRepair f).fab = s.fab := rfl
@[simp] theorem modRepair_repair (s : State) (f : Repair → Repair) : (s.modRepair f).repair = f s.repair := rfl
@[simp] theorem modRepair_agenda (s : State) (f : Repair → Repair) : (s.modRepair f).agenda = s.agenda := rfl
@[simp] theorem modRepair_cur (s : State) (f : Repair → Repair) : (s.modRepair f).cur = s.cur := rfl
@[simp] theorem modRepair_arg (s : State) (f : Repair → Repair) : (s.modRepair f).arg = s.arg := rfl
@[simp] theorem modRepair_fresh (s : State) (f : Repair → Repair) : (s.modRepair f).fresh = s.fresh := rfl
@[simp] theorem modRepair_nextId (s : State) (f : Repair → Repair) : (s.modRepair f).nextId = s.nextId := rfl
@[simp] theorem modRepair_core (s : State) (f : Repair → Repair) (k : Nat) : (s.modRepair f).core k = s.core k := rfl
@[simp] theorem modRepair_ctx (s : State) (f : Repair → Repair) (k : Nat) : (s.modRepair f).ctx k = s.ctx k := rfl
@[simp] theorem modRepair_team (s : State) (f : Repair → Repair) (k : Nat) : (s.modRepair f).team k = s.team k := rfl
@[simp] theorem modRepair_group (s : State) (f : Repair → Repair) (k j : Nat) : (s.modRepair f).group k j = s.group k j := rfl
@[simp] theorem modRepair_thread (s : State) (f : Repair → Repair) (u : Tid) : (s.modRepair f).thread u = s.thread u := rfl
@[simp] theorem modRepair_cluster (s : State) (f : Repair → Repair) (k : Nat) : (s.modRepair f).cluster k = s.cluster k := rfl
@[simp] theorem modRepair_grid (s : State) (f : Repair → Repair) (k : Nat) : (s.modRepair f).grid k = s.grid k := rfl
@[simp] theorem modRepair_gtime (s : State) (f : Repair → Repair) : (s.modRepair f).gtime = s.gtime := rfl

@[simp] theorem after_cycle (s : State) (d : Nat) (e : Instr) (a : EvArg) : (s.after d e a).cycle = s.cycle := rfl
@[simp] theorem after_time (s : State) (d : Nat) (e : Instr) (a : EvArg) : (s.after d e a).time = s.time := rfl
@[simp] theorem after_mem (s : State) (d : Nat) (e : Instr) (a : EvArg) : (s.after d e a).mem = s.mem := rfl
@[simp] theorem after_poison (s : State) (d : Nat) (e : Instr) (a : EvArg) : (s.after d e a).poison = s.poison := rfl
@[simp] theorem after_cores (s : State) (d : Nat) (e : Instr) (a : EvArg) : (s.after d e a).cores = s.cores := rfl
@[simp] theorem after_teams (s : State) (d : Nat) (e : Instr) (a : EvArg) : (s.after d e a).teams = s.teams := rfl
@[simp] theorem after_clusters (s : State) (d : Nat) (e : Instr) (a : EvArg) : (s.after d e a).clusters = s.clusters := rfl
@[simp] theorem after_grids (s : State) (d : Nat) (e : Instr) (a : EvArg) : (s.after d e a).grids = s.grids := rfl
@[simp] theorem after_ctxs (s : State) (d : Nat) (e : Instr) (a : EvArg) : (s.after d e a).ctxs = s.ctxs := rfl
@[simp] theorem after_dieTlb (s : State) (d : Nat) (e : Instr) (a : EvArg) : (s.after d e a).dieTlb = s.dieTlb := rfl
@[simp] theorem after_home (s : State) (d : Nat) (e : Instr) (a : EvArg) : (s.after d e a).home = s.home := rfl
@[simp] theorem after_prq (s : State) (d : Nat) (e : Instr) (a : EvArg) : (s.after d e a).prq = s.prq := rfl
@[simp] theorem after_mgmt (s : State) (d : Nat) (e : Instr) (a : EvArg) : (s.after d e a).mgmt = s.mgmt := rfl
@[simp] theorem after_host (s : State) (d : Nat) (e : Instr) (a : EvArg) : (s.after d e a).host = s.host := rfl
@[simp] theorem after_fab (s : State) (d : Nat) (e : Instr) (a : EvArg) : (s.after d e a).fab = s.fab := rfl
@[simp] theorem after_repair (s : State) (d : Nat) (e : Instr) (a : EvArg) : (s.after d e a).repair = s.repair := rfl
@[simp] theorem after_agenda (s : State) (d : Nat) (e : Instr) (a : EvArg) : (s.after d e a).agenda = s.agenda ++ [⟨s.cycle + d, e, a⟩] := rfl
@[simp] theorem after_cur (s : State) (d : Nat) (e : Instr) (a : EvArg) : (s.after d e a).cur = s.cur := rfl
@[simp] theorem after_arg (s : State) (d : Nat) (e : Instr) (a : EvArg) : (s.after d e a).arg = s.arg := rfl
@[simp] theorem after_fresh (s : State) (d : Nat) (e : Instr) (a : EvArg) : (s.after d e a).fresh = s.fresh := rfl
@[simp] theorem after_nextId (s : State) (d : Nat) (e : Instr) (a : EvArg) : (s.after d e a).nextId = s.nextId := rfl
@[simp] theorem after_core (s : State) (d : Nat) (e : Instr) (a : EvArg) (k : Nat) : (s.after d e a).core k = s.core k := rfl
@[simp] theorem after_ctx (s : State) (d : Nat) (e : Instr) (a : EvArg) (k : Nat) : (s.after d e a).ctx k = s.ctx k := rfl
@[simp] theorem after_team (s : State) (d : Nat) (e : Instr) (a : EvArg) (k : Nat) : (s.after d e a).team k = s.team k := rfl
@[simp] theorem after_group (s : State) (d : Nat) (e : Instr) (a : EvArg) (k j : Nat) : (s.after d e a).group k j = s.group k j := rfl
@[simp] theorem after_thread (s : State) (d : Nat) (e : Instr) (a : EvArg) (u : Tid) : (s.after d e a).thread u = s.thread u := rfl
@[simp] theorem after_cluster (s : State) (d : Nat) (e : Instr) (a : EvArg) (k : Nat) : (s.after d e a).cluster k = s.cluster k := rfl
@[simp] theorem after_grid (s : State) (d : Nat) (e : Instr) (a : EvArg) (k : Nat) : (s.after d e a).grid k = s.grid k := rfl
@[simp] theorem after_gtime (s : State) (d : Nat) (e : Instr) (a : EvArg) : (s.after d e a).gtime = s.gtime := rfl

@[simp] theorem newId_cycle (s : State) : (s.newId).2.cycle = s.cycle := rfl
@[simp] theorem newId_time (s : State) : (s.newId).2.time = s.time := rfl
@[simp] theorem newId_mem (s : State) : (s.newId).2.mem = s.mem := rfl
@[simp] theorem newId_poison (s : State) : (s.newId).2.poison = s.poison := rfl
@[simp] theorem newId_cores (s : State) : (s.newId).2.cores = s.cores := rfl
@[simp] theorem newId_teams (s : State) : (s.newId).2.teams = s.teams := rfl
@[simp] theorem newId_clusters (s : State) : (s.newId).2.clusters = s.clusters := rfl
@[simp] theorem newId_grids (s : State) : (s.newId).2.grids = s.grids := rfl
@[simp] theorem newId_ctxs (s : State) : (s.newId).2.ctxs = s.ctxs := rfl
@[simp] theorem newId_dieTlb (s : State) : (s.newId).2.dieTlb = s.dieTlb := rfl
@[simp] theorem newId_home (s : State) : (s.newId).2.home = s.home := rfl
@[simp] theorem newId_prq (s : State) : (s.newId).2.prq = s.prq := rfl
@[simp] theorem newId_mgmt (s : State) : (s.newId).2.mgmt = s.mgmt := rfl
@[simp] theorem newId_host (s : State) : (s.newId).2.host = s.host := rfl
@[simp] theorem newId_fab (s : State) : (s.newId).2.fab = s.fab := rfl
@[simp] theorem newId_repair (s : State) : (s.newId).2.repair = s.repair := rfl
@[simp] theorem newId_agenda (s : State) : (s.newId).2.agenda = s.agenda := rfl
@[simp] theorem newId_cur (s : State) : (s.newId).2.cur = s.cur := rfl
@[simp] theorem newId_arg (s : State) : (s.newId).2.arg = s.arg := rfl
@[simp] theorem newId_fresh (s : State) : (s.newId).2.fresh = s.fresh := rfl
@[simp] theorem newId_core (s : State) (k : Nat) : (s.newId).2.core k = s.core k := rfl
@[simp] theorem newId_ctx (s : State) (k : Nat) : (s.newId).2.ctx k = s.ctx k := rfl
@[simp] theorem newId_team (s : State) (k : Nat) : (s.newId).2.team k = s.team k := rfl
@[simp] theorem newId_group (s : State) (k j : Nat) : (s.newId).2.group k j = s.group k j := rfl
@[simp] theorem newId_thread (s : State) (u : Tid) : (s.newId).2.thread u = s.thread u := rfl
@[simp] theorem newId_cluster (s : State) (k : Nat) : (s.newId).2.cluster k = s.cluster k := rfl
@[simp] theorem newId_grid (s : State) (k : Nat) : (s.newId).2.grid k = s.grid k := rfl
@[simp] theorem newId_gtime (s : State)  : (s.newId).2.gtime  = s.gtime  := rfl

@[simp] theorem draw_cycle (s : State) (n : Nat) : (s.draw n).2.cycle = s.cycle := rfl
@[simp] theorem draw_time (s : State) (n : Nat) : (s.draw n).2.time = s.time := rfl
@[simp] theorem draw_mem (s : State) (n : Nat) : (s.draw n).2.mem = s.mem := rfl
@[simp] theorem draw_poison (s : State) (n : Nat) : (s.draw n).2.poison = s.poison := rfl
@[simp] theorem draw_cores (s : State) (n : Nat) : (s.draw n).2.cores = s.cores := rfl
@[simp] theorem draw_teams (s : State) (n : Nat) : (s.draw n).2.teams = s.teams := rfl
@[simp] theorem draw_clusters (s : State) (n : Nat) : (s.draw n).2.clusters = s.clusters := rfl
@[simp] theorem draw_grids (s : State) (n : Nat) : (s.draw n).2.grids = s.grids := rfl
@[simp] theorem draw_ctxs (s : State) (n : Nat) : (s.draw n).2.ctxs = s.ctxs := rfl
@[simp] theorem draw_dieTlb (s : State) (n : Nat) : (s.draw n).2.dieTlb = s.dieTlb := rfl
@[simp] theorem draw_home (s : State) (n : Nat) : (s.draw n).2.home = s.home := rfl
@[simp] theorem draw_prq (s : State) (n : Nat) : (s.draw n).2.prq = s.prq := rfl
@[simp] theorem draw_mgmt (s : State) (n : Nat) : (s.draw n).2.mgmt = s.mgmt := rfl
@[simp] theorem draw_host (s : State) (n : Nat) : (s.draw n).2.host = s.host := rfl
@[simp] theorem draw_fab (s : State) (n : Nat) : (s.draw n).2.fab = s.fab := rfl
@[simp] theorem draw_repair (s : State) (n : Nat) : (s.draw n).2.repair = s.repair := rfl
@[simp] theorem draw_agenda (s : State) (n : Nat) : (s.draw n).2.agenda = s.agenda := rfl
@[simp] theorem draw_cur (s : State) (n : Nat) : (s.draw n).2.cur = s.cur := rfl
@[simp] theorem draw_arg (s : State) (n : Nat) : (s.draw n).2.arg = s.arg := rfl
@[simp] theorem draw_nextId (s : State) (n : Nat) : (s.draw n).2.nextId = s.nextId := rfl
@[simp] theorem draw_core (s : State) (n : Nat) (k : Nat) : (s.draw n).2.core k = s.core k := rfl
@[simp] theorem draw_ctx (s : State) (n : Nat) (k : Nat) : (s.draw n).2.ctx k = s.ctx k := rfl
@[simp] theorem draw_team (s : State) (n : Nat) (k : Nat) : (s.draw n).2.team k = s.team k := rfl
@[simp] theorem draw_group (s : State) (n : Nat) (k j : Nat) : (s.draw n).2.group k j = s.group k j := rfl
@[simp] theorem draw_thread (s : State) (n : Nat) (u : Tid) : (s.draw n).2.thread u = s.thread u := rfl
@[simp] theorem draw_cluster (s : State) (n : Nat) (k : Nat) : (s.draw n).2.cluster k = s.cluster k := rfl
@[simp] theorem draw_grid (s : State) (n : Nat) (k : Nat) : (s.draw n).2.grid k = s.grid k := rfl
@[simp] theorem draw_gtime (s : State) (n : Nat)  : (s.draw n).2.gtime  = s.gtime  := rfl

@[simp] theorem afterOnce_cycle (s : State) (d : Nat) (e : Instr) (a : EvArg) : (s.afterOnce d e a).cycle = s.cycle := by
  unfold afterOnce; split <;> rfl
@[simp] theorem afterOnce_time (s : State) (d : Nat) (e : Instr) (a : EvArg) : (s.afterOnce d e a).time = s.time := by
  unfold afterOnce; split <;> rfl
@[simp] theorem afterOnce_mem (s : State) (d : Nat) (e : Instr) (a : EvArg) : (s.afterOnce d e a).mem = s.mem := by
  unfold afterOnce; split <;> rfl
@[simp] theorem afterOnce_poison (s : State) (d : Nat) (e : Instr) (a : EvArg) : (s.afterOnce d e a).poison = s.poison := by
  unfold afterOnce; split <;> rfl
@[simp] theorem afterOnce_cores (s : State) (d : Nat) (e : Instr) (a : EvArg) : (s.afterOnce d e a).cores = s.cores := by
  unfold afterOnce; split <;> rfl
@[simp] theorem afterOnce_teams (s : State) (d : Nat) (e : Instr) (a : EvArg) : (s.afterOnce d e a).teams = s.teams := by
  unfold afterOnce; split <;> rfl
@[simp] theorem afterOnce_clusters (s : State) (d : Nat) (e : Instr) (a : EvArg) : (s.afterOnce d e a).clusters = s.clusters := by
  unfold afterOnce; split <;> rfl
@[simp] theorem afterOnce_grids (s : State) (d : Nat) (e : Instr) (a : EvArg) : (s.afterOnce d e a).grids = s.grids := by
  unfold afterOnce; split <;> rfl
@[simp] theorem afterOnce_ctxs (s : State) (d : Nat) (e : Instr) (a : EvArg) : (s.afterOnce d e a).ctxs = s.ctxs := by
  unfold afterOnce; split <;> rfl
@[simp] theorem afterOnce_dieTlb (s : State) (d : Nat) (e : Instr) (a : EvArg) : (s.afterOnce d e a).dieTlb = s.dieTlb := by
  unfold afterOnce; split <;> rfl
@[simp] theorem afterOnce_home (s : State) (d : Nat) (e : Instr) (a : EvArg) : (s.afterOnce d e a).home = s.home := by
  unfold afterOnce; split <;> rfl
@[simp] theorem afterOnce_prq (s : State) (d : Nat) (e : Instr) (a : EvArg) : (s.afterOnce d e a).prq = s.prq := by
  unfold afterOnce; split <;> rfl
@[simp] theorem afterOnce_mgmt (s : State) (d : Nat) (e : Instr) (a : EvArg) : (s.afterOnce d e a).mgmt = s.mgmt := by
  unfold afterOnce; split <;> rfl
@[simp] theorem afterOnce_host (s : State) (d : Nat) (e : Instr) (a : EvArg) : (s.afterOnce d e a).host = s.host := by
  unfold afterOnce; split <;> rfl
@[simp] theorem afterOnce_fab (s : State) (d : Nat) (e : Instr) (a : EvArg) : (s.afterOnce d e a).fab = s.fab := by
  unfold afterOnce; split <;> rfl
@[simp] theorem afterOnce_repair (s : State) (d : Nat) (e : Instr) (a : EvArg) : (s.afterOnce d e a).repair = s.repair := by
  unfold afterOnce; split <;> rfl
@[simp] theorem afterOnce_cur (s : State) (d : Nat) (e : Instr) (a : EvArg) : (s.afterOnce d e a).cur = s.cur := by
  unfold afterOnce; split <;> rfl
@[simp] theorem afterOnce_arg (s : State) (d : Nat) (e : Instr) (a : EvArg) : (s.afterOnce d e a).arg = s.arg := by
  unfold afterOnce; split <;> rfl
@[simp] theorem afterOnce_fresh (s : State) (d : Nat) (e : Instr) (a : EvArg) : (s.afterOnce d e a).fresh = s.fresh := by
  unfold afterOnce; split <;> rfl
@[simp] theorem afterOnce_nextId (s : State) (d : Nat) (e : Instr) (a : EvArg) : (s.afterOnce d e a).nextId = s.nextId := by
  unfold afterOnce; split <;> rfl
@[simp] theorem afterOnce_core (s : State) (d : Nat) (e : Instr) (a : EvArg) (k : Nat) : (s.afterOnce d e a).core k = s.core k := by
  unfold afterOnce; split <;> rfl
@[simp] theorem afterOnce_ctx (s : State) (d : Nat) (e : Instr) (a : EvArg) (k : Nat) : (s.afterOnce d e a).ctx k = s.ctx k := by
  unfold afterOnce; split <;> rfl
@[simp] theorem afterOnce_team (s : State) (d : Nat) (e : Instr) (a : EvArg) (k : Nat) : (s.afterOnce d e a).team k = s.team k := by
  unfold afterOnce; split <;> rfl
@[simp] theorem afterOnce_group (s : State) (d : Nat) (e : Instr) (a : EvArg) (k j : Nat) : (s.afterOnce d e a).group k j = s.group k j := by
  unfold afterOnce; split <;> rfl
@[simp] theorem afterOnce_thread (s : State) (d : Nat) (e : Instr) (a : EvArg) (u : Tid) : (s.afterOnce d e a).thread u = s.thread u := by
  unfold afterOnce; split <;> rfl
@[simp] theorem afterOnce_cluster (s : State) (d : Nat) (e : Instr) (a : EvArg) (k : Nat) : (s.afterOnce d e a).cluster k = s.cluster k := by
  unfold afterOnce; split <;> rfl
@[simp] theorem afterOnce_grid (s : State) (d : Nat) (e : Instr) (a : EvArg) (k : Nat) : (s.afterOnce d e a).grid k = s.grid k := by
  unfold afterOnce; split <;> rfl
@[simp] theorem afterOnce_gtime (s : State) (d : Nat) (e : Instr) (a : EvArg)  : (s.afterOnce d e a).gtime  = s.gtime  := by
  unfold afterOnce; split <;> rfl

end State

end Sys2Proof.Machine
end

