-- ==== Sys2Proof/Laws/Threads.lean ====
section
/-! SUPPORT. Lists changed at a place, and teams, groups, threads, cores and contexts read back after a change. -/

namespace Sys2Proof.Machine

/-! ### Lists -/

@[simp] theorem modAt_length {α : Type} (f : α → α) (n : Nat) (l : List α) : (modAt f n l).length = l.length := by
  induction l generalizing n with
  | nil => cases n <;> rfl
  | cons x l ih => cases n <;> simp [modAt, ih]

theorem nthD_modAt {α : Type} (d : α) (f : α → α) (i j : Nat) (l : List α) :
    nthD d (modAt f i l) j = if i = j ∧ j < l.length then f (nthD d l j) else nthD d l j := by
  induction l generalizing i j with
  | nil => cases i <;> simp [modAt, nthD]
  | cons x l ih =>
    cases i with
    | zero => cases j <;> simp [modAt, nthD]
    | succ i =>
      cases j with
      | zero => simp [modAt, nthD]
      | succ j => simp [modAt, nthD, ih]

theorem nthD_modAt_ne {α : Type} (d : α) (f : α → α) {i j : Nat} (l : List α) (h : i ≠ j) :
    nthD d (modAt f i l) j = nthD d l j := by simp [nthD_modAt, h]

theorem nthD_modAt_self {α : Type} (d : α) (f : α → α) {i : Nat} (l : List α) (h : i < l.length) :
    nthD d (modAt f i l) i = f (nthD d l i) := by simp [nthD_modAt, h]

theorem nthD_of_le {α : Type} (d : α) (l : List α) (i : Nat) (h : l.length ≤ i) : nthD d l i = d := by
  induction l generalizing i with
  | nil => rfl
  | cons x l ih =>
    cases i with
    | zero => simp at h
    | succ i => exact ih i (by simpa using h)

/-- A change that leaves `g` of every element as it is leaves `g` of every place as it is. -/
theorem nthD_modAt_proj {α β : Type} (d : α) (f : α → α) (g : α → β) (h : ∀ x, g (f x) = g x) (i j : Nat) (l : List α) :
    g (nthD d (modAt f i l) j) = g (nthD d l j) := by
  rw [nthD_modAt]; split
  · exact h _
  · rfl

namespace State

/-! ### Cores and contexts -/

theorem core_modCore (s : State) (c d : Nat) (f : Core → Core) :
    (s.modCore c f).core d = if c = d then f (s.core c) else s.core d := by
  unfold core modCore; exact Sp.get_set _ _ _ _ _

@[simp] theorem core_modCore_self (s : State) (c : Nat) (f : Core → Core) : (s.modCore c f).core c = f (s.core c) := by
  simp [core_modCore]

theorem ctx_modCtx (s : State) (c d : Nat) (f : Ctx → Ctx) :
    (s.modCtx c f).ctx d = if c = d then f (s.ctx c) else s.ctx d := by
  unfold ctx modCtx; exact Sp.get_set _ _ _ _ _

@[simp] theorem ctx_modCtx_self (s : State) (c : Nat) (f : Ctx → Ctx) : (s.modCtx c f).ctx c = f (s.ctx c) := by
  simp [ctx_modCtx]

/-! ### Teams -/

theorem team_modTeam (s : State) (n k : Nat) (f : Team → Team) :
    (s.modTeam n f).team k = if n = k ∧ k < s.teams.length then f (s.team k) else s.team k := nthD_modAt _ _ _ _ _

theorem team_modTeam_ne (s : State) {n k : Nat} (f : Team → Team) (h : n ≠ k) : (s.modTeam n f).team k = s.team k := by
  simp [team_modTeam, h]

theorem team_modTeam_self (s : State) {n : Nat} (f : Team → Team) (h : n < s.teams.length) :
    (s.modTeam n f).team n = f (s.team n) := by simp [team_modTeam, h]

theorem team_of_le (s : State) (n : Nat) (h : s.teams.length ≤ n) : s.team n = Team.none := nthD_of_le _ _ _ h

/-- A change of a team that leaves `p` as it is leaves `p` of every team as it is. -/
theorem team_modTeam_proj {β : Type} (s : State) (n k : Nat) (f : Team → Team) (p : Team → β) (h : ∀ m, p (f m) = p m) :
    p ((s.modTeam n f).team k) = p (s.team k) := by
  rw [team_modTeam]; split
  · exact h _
  · rfl

theorem group_modTeam_proj {β : Type} (s : State) (n k : Nat) (f : Team → Team) (p : List Group → β)
    (h : ∀ m, p (f m).groups = p m.groups) : p ((s.modTeam n f).team k).groups = p (s.team k).groups := by
  rw [team_modTeam]; split
  · exact h _
  · rfl

/-! ### Groups -/

theorem team_modGroup (s : State) (n g k : Nat) (f : Group → Group) :
    (s.modGroup n g f).team k =
      if n = k ∧ k < s.teams.length then { s.team k with groups := modAt f g (s.team k).groups } else s.team k :=
  team_modTeam _ _ _ _

/-- Changing a group leaves all of a team but its groups. -/
theorem team_modGroup_proj {β : Type} (s : State) (n g k : Nat) (f : Group → Group) (p : Team → β)
    (h : ∀ m l, p { m with groups := l } = p m) : p ((s.modGroup n g f).team k) = p (s.team k) :=
  team_modTeam_proj _ _ _ _ p fun m => h m _

theorem group_modGroup (s : State) (n g k j : Nat) (f : Group → Group) :
    (s.modGroup n g f).group k j =
      if n = k ∧ g = j ∧ k < s.teams.length ∧ j < (s.team k).groups.length then f (s.group k j) else s.group k j := by
  unfold group
  rw [team_modGroup]
  by_cases h : n = k ∧ k < s.teams.length
  · simp only [h, and_self, if_true, true_and, nthD_modAt]
  · rw [if_neg h, if_neg (fun hh => h ⟨hh.1, hh.2.2.1⟩)]

theorem group_modGroup_ne (s : State) {n g k j : Nat} (f : Group → Group) (h : (n, g) ≠ (k, j)) :
    (s.modGroup n g f).group k j = s.group k j := by
  rw [group_modGroup, if_neg]
  rintro ⟨rfl, rfl, -⟩
  exact h rfl

/-- A change of a group that leaves `p` as it is leaves `p` of every group as it is. -/
theorem group_modGroup_proj {β : Type} (s : State) (n g k j : Nat) (f : Group → Group) (p : Group → β)
    (h : ∀ x, p (f x) = p x) : p ((s.modGroup n g f).group k j) = p (s.group k j) := by
  rw [group_modGroup]; split
  · exact h _
  · rfl

/-- The group exists. -/
def Has (s : State) (n g : Nat) : Prop := n < s.teams.length ∧ g < (s.team n).groups.length

theorem group_modGroup_self (s : State) {n g : Nat} (f : Group → Group) (h : s.Has n g) :
    (s.modGroup n g f).group n g = f (s.group n g) := by
  rw [group_modGroup, if_pos ⟨rfl, rfl, h⟩]

theorem group_of_not_has (s : State) {n g : Nat} (h : ¬s.Has n g) : s.group n g = Group.none := by
  unfold group
  by_cases hn : n < s.teams.length
  · exact nthD_of_le _ _ _ (Nat.le_of_not_lt fun hg => h ⟨hn, hg⟩)
  · rw [team_of_le s n (Nat.le_of_not_lt hn)]; rfl

@[simp] theorem has_modGroup (s : State) (n g k j : Nat) (f : Group → Group) : (s.modGroup n g f).Has k j ↔ s.Has k j := by
  unfold Has
  rw [show (s.modGroup n g f).teams.length = s.teams.length by simp [modGroup]]
  rw [team_modGroup]
  split <;> simp

@[simp] theorem has_modThread (s : State) (t : Tid) (k j : Nat) (f : Thread → Thread) :
    (s.modThread t f).Has k j ↔ s.Has k j := has_modGroup _ _ _ _ _ _

/-! ### Threads -/

/-- The thread has a place. -/
def Here (s : State) (t : Tid) : Prop := s.Has t.team t.grp ∧ t.thr < (s.group t.team t.grp).threads.length

theorem thread_modGroup_proj (s : State) (n g : Nat) (f : Group → Group) (h : ∀ x, (f x).threads = x.threads) (u : Tid) :
    (s.modGroup n g f).thread u = s.thread u := by
  unfold thread
  rw [group_modGroup_proj s n g u.team u.grp f (fun x => x.threads) h]

theorem thread_modThread_self (s : State) {t : Tid} (f : Thread → Thread) (h : s.Here t) :
    (s.modThread t f).thread t = f (s.thread t) := by
  unfold thread modThread
  rw [group_modGroup_self _ _ h.1]
  exact nthD_modAt_self _ _ _ h.2

theorem thread_modThread_ne (s : State) {t u : Tid} (f : Thread → Thread) (h : t ≠ u) :
    (s.modThread t f).thread u = s.thread u := by
  unfold thread modThread
  by_cases hg : (t.team, t.grp) = (u.team, u.grp)
  · obtain ⟨h1, h2⟩ := Prod.mk.inj hg
    have h3 : t.thr ≠ u.thr := fun h3 => h (by cases t; cases u; simp_all)
    rw [h1, h2, group_modGroup]
    split
    · exact nthD_modAt_ne _ _ _ h3
    · rfl
  · rw [group_modGroup_ne _ _ hg]

/-- A change of a thread that leaves `p` as it is leaves `p` of every thread as it is. -/
theorem thread_modThread_proj {β : Type} (s : State) (t u : Tid) (f : Thread → Thread) (p : Thread → β)
    (h : ∀ x, p (f x) = p x) : p ((s.modThread t f).thread u) = p (s.thread u) := by
  unfold thread modThread
  rw [group_modGroup]
  split
  · exact nthD_modAt_proj _ _ p h _ _ _
  · rfl

/-- Changing a thread leaves all of a group but its threads. -/
theorem group_modThread_proj {β : Type} (s : State) (t : Tid) (f : Thread → Thread) (k j : Nat) (p : Group → β)
    (h : ∀ x l, p { x with threads := l } = p x) : p ((s.modThread t f).group k j) = p (s.group k j) :=
  group_modGroup_proj _ _ _ _ _ _ p fun x => h x _

theorem team_modThread_proj {β : Type} (s : State) (t : Tid) (f : Thread → Thread) (k : Nat) (p : Team → β)
    (h : ∀ m l, p { m with groups := l } = p m) : p ((s.modThread t f).team k) = p (s.team k) :=
  team_modGroup_proj _ _ _ _ _ p h

theorem threads_length_modThread (s : State) (t : Tid) (f : Thread → Thread) (k j : Nat) :
    ((s.modThread t f).group k j).threads.length = (s.group k j).threads.length :=
  group_modGroup_proj _ _ _ _ _ _ (fun x => x.threads.length) fun x => by simp

theorem here_modThread (s : State) (t u : Tid) (f : Thread → Thread) : (s.modThread t f).Here u ↔ s.Here u := by
  unfold Here
  rw [has_modThread, threads_length_modThread]

theorem here_modGroup (s : State) (n g : Nat) (f : Group → Group) (h : ∀ x, (f x).threads.length = x.threads.length)
    (u : Tid) : (s.modGroup n g f).Here u ↔ s.Here u := by
  unfold Here
  rw [has_modGroup, group_modGroup_proj s n g u.team u.grp f (fun x => x.threads.length) h]

/-- A thread that the mask k0 or another mask shows has a place. -/
theorem presentFrom_bit (n : Nat) (l : List Thread) (i : Nat) (h : (presentFrom n l).getLsbD i = true) :
    n ≤ i ∧ i < n + l.length ∧ (nthD Thread.none l (i - n)).present = true := by
  induction l generalizing n with
  | nil => simp [presentFrom] at h
  | cons x l ih =>
    simp only [presentFrom, BitVec.getLsbD_or, Bool.or_eq_true] at h
    rcases h with h | h
    · split at h
      · rename_i hx
        simp only [bit64, BitVec.getLsbD_shiftLeft, BitVec.getLsbD_one, Bool.and_eq_true, decide_eq_true_eq,
          Bool.not_eq_true', decide_eq_false_iff_not] at h
        have : i = n := by omega
        subst this
        simp [nthD, hx]
      · simp at h
    · obtain ⟨h1, h2, h3⟩ := ih (n + 1) h
      refine ⟨by omega, by simp only [List.length_cons]; omega, ?_⟩
      have : i - n = (i - (n + 1)) + 1 := by omega
      rw [this]
      exact h3

end State

end Sys2Proof.Machine
end

