-- ==== Sys2Proof/Laws/Bundles.lean ====
section
/-! SUPPORT. What completing a bundle does and leaves: `Kept s s' ts` says that from `s` to `s'` only the threads `ts`
moved on, and only issue tables, steps due, results under way and counters changed beside them. The operations that
complete a bundle keep it, and relations of this kind compose. -/

namespace Sys2Proof.Machine

/-- A thread without what the completion of a bundle changes. -/
def Thread.rest (x : Thread) : Thread :=
  { x with pc := 0, pace := [], since := 0, entry := 0, stamp := 0, wait := .none, reply := .none, sent := Option.none, got := [] }

namespace State

/-! ### The operations of a completing bundle, step by step -/

theorem join_eq (s : State) (t : Tid) (k : Nat) : s.join t k =
    if (s.team t.team).status != .resident then s
    else if s.cycle < k then s.modThread t fun x => { x with entry := 256, stamp := k }
    else (if (s.entryFor t).2 then s.modCore (s.team t.team).core (fun c =>
        { c with entries := c.entries ++ [⟨(s.entryFor t).1, (s.thread t).pc, (s.team t.team).ctx⟩] }) else s).modThread t
      (fun x => { x with entry := (s.entryFor t).1, stamp := k }) := rfl

theorem fixed_eq (s : State) (t : Tid) (own : List Nat) (d : Dst) (lat : Nat) : s.fixed t own d lat =
    (s.modGroup t.team t.grp fun g => { g with pend := g.pend.filterMap (Pend.outrun d (s.cycle + lat)) ++
      [⟨d, some (s.cycle + lat), 0, own, false⟩] }).afterOnce lat .fixedLatencyResult
        { team := t.team, grp := t.grp, len := s.cycle + lat } := rfl

theorem later_eq (s : State) (t : Tid) (own : List Nat) (ds : List Dst) (delay : Nat) : s.later t own ds delay =
    (s.newId.2.modGroup t.team t.grp fun g =>
      { g with pend := g.pend ++ ds.map (fun d => ⟨d, none, s.nextId, own, false⟩) }).after delay .variableLatencyResult
        { team := t.team, grp := t.grp, id := s.nextId } := rfl

theorem landLater_eq (s : State) (t : Tid) (own : List Nat) (ds : List Dst) : s.landLater t own ds =
    (s.draw (2 ^ 20)).2.later t own ds (1 + (s.draw (2 ^ 20)).1) := rfl

theorem retire_eq (s : State) (t : Tid) (pc : DWord) (ends : Bool) : s.retire t pc ends =
    ((s.modThread t fun x => { x with
      pc := pc, pace := if ends then [] else x.pace.tail, since := s.cycle + 1, wait := .none, reply := .none,
      sent := Option.none, got := [] }
      ).prunePend t.team t.grp).join t (s.cycle + 1) := rfl

/-- Only the threads `ts` moved on between two states. -/
structure Kept (s s' : State) (ts : List Tid) : Prop where
  rest : { s' with cores := s.cores, teams := s.teams, agenda := s.agenda, nextId := s.nextId, fresh := s.fresh } = s
  core : ∀ c, { s'.core c with entries := (s.core c).entries } = s.core c
  team : ∀ n, { s'.team n with groups := (s.team n).groups } = s.team n
  sreg : ∀ n g, (s'.group n g).s = (s.group n g).s
  mask : ∀ n g, (s'.group n g).k = (s.group n g).k
  pend : ∀ n g, (∀ t ∈ ts, (t.team, t.grp) ≠ (n, g)) → (s'.group n g).pend = (s.group n g).pend
  other : ∀ u, u ∉ ts → s'.thread u = s.thread u
  thread : ∀ u, (s'.thread u).rest = (s.thread u).rest
  len : ∀ n g, (s'.group n g).threads.length = (s.group n g).threads.length
  has : ∀ n g, s'.Has n g ↔ s.Has n g

theorem Kept.refl (s : State) (ts : List Tid) : Kept s s ts :=
  ⟨rfl, fun _ => rfl, fun _ => rfl, fun _ _ => rfl, fun _ _ => rfl, fun _ _ _ => rfl, fun _ _ => rfl, fun _ => rfl,
    fun _ _ => rfl, fun _ _ => Iff.rfl⟩

theorem Kept.trans {s s' s'' : State} {ts : List Tid} (h : Kept s s' ts) (h' : Kept s' s'' ts) : Kept s s'' ts where
  rest := by
    have e : s = { s' with cores := s.cores, teams := s.teams, agenda := s.agenda, nextId := s.nextId, fresh := s.fresh } :=
      h.rest.symm
    have e' := congrArg (fun x : State =>
      { x with cores := s.cores, teams := s.teams, agenda := s.agenda, nextId := s.nextId, fresh := s.fresh }) h'.rest
    exact e'.trans h.rest
  core := fun c => by
    have e' := congrArg (fun x : Core => { x with entries := (s.core c).entries }) (h'.core c)
    exact e'.trans (h.core c)
  team := fun n => by
    have e' := congrArg (fun x : Team => { x with groups := (s.team n).groups }) (h'.team n)
    exact e'.trans (h.team n)
  sreg := fun n g => (h'.sreg n g).trans (h.sreg n g)
  mask := fun n g => (h'.mask n g).trans (h.mask n g)
  pend := fun n g hn => (h'.pend n g hn).trans (h.pend n g hn)
  other := fun u hu => (h'.other u hu).trans (h.other u hu)
  thread := fun u => (h'.thread u).trans (h.thread u)
  len := fun n g => (h'.len n g).trans (h.len n g)
  has := fun n g => (h'.has n g).trans (h.has n g)

theorem Kept.here {s s' : State} {ts : List Tid} (h : Kept s s' ts) (t : Tid) : s'.Here t ↔ s.Here t := by
  unfold Here; rw [h.has, h.len]

theorem Kept.proj {s s' : State} {ts : List Tid} (h : Kept s s' ts) {β : Type} (p : Thread → β) (hp : ∀ x, p x.rest = p x)
    (u : Tid) : p (s'.thread u) = p (s.thread u) := by rw [← hp, h.thread, hp]

theorem Kept.present {s s' : State} {ts : List Tid} (h : Kept s s' ts) (u : Tid) :
    (s'.thread u).present = (s.thread u).present := h.proj (fun x => x.present) (fun _ => rfl) u

theorem Kept.base {s s' : State} {ts : List Tid} (h : Kept s s' ts) (u : Tid) : (s'.thread u).base = (s.thread u).base :=
  h.proj (fun x => x.base) (fun _ => rfl) u

theorem Kept.vreg {s s' : State} {ts : List Tid} (h : Kept s s' ts) (u : Tid) (n : Nat) :
    (s'.thread u).vreg n = (s.thread u).vreg n := h.proj (fun x => x.vreg n) (fun _ => rfl) u

theorem Kept.areg {s s' : State} {ts : List Tid} (h : Kept s s' ts) (u : Tid) (n : Nat) :
    (s'.thread u).areg n = (s.thread u).areg n := h.proj (fun x => x.areg n) (fun _ => rfl) u

theorem Kept.field {s s' : State} {ts : List Tid} (h : Kept s s' ts) {β : Type} (p : State → β)
    (hp : ∀ (x : State) c t a n f, p { x with cores := c, teams := t, agenda := a, nextId := n, fresh := f } = p x) :
    p s' = p s := by
  have := congrArg p h.rest
  rwa [hp] at this

theorem Kept.cycle {s s' : State} {ts : List Tid} (h : Kept s s' ts) : s'.cycle = s.cycle :=
  h.field (fun x => x.cycle) fun _ _ _ _ _ _ => rfl
theorem Kept.cur {s s' : State} {ts : List Tid} (h : Kept s s' ts) : s'.cur = s.cur :=
  h.field (fun x => x.cur) fun _ _ _ _ _ _ => rfl

/-- A state that differs in steps due and counters alone. -/
theorem Kept.of_agenda {s s' : State} (ts : List Tid) (ht : s'.teams = s.teams) (hc : s'.cores = s.cores)
    (hr : { s' with agenda := s.agenda, nextId := s.nextId, fresh := s.fresh } = s) : Kept s s' ts := by
  have team : ∀ n, s'.team n = s.team n := fun n => by unfold State.team; rw [ht]
  have group : ∀ n g, s'.group n g = s.group n g := fun n g => by unfold State.group; rw [team]
  have thread : ∀ u, s'.thread u = s.thread u := fun u => by unfold State.thread; rw [group]
  have core : ∀ c, s'.core c = s.core c := fun c => by unfold State.core; rw [hc]
  refine ⟨?_, fun c => by rw [core], fun n => by rw [team], fun n g => by rw [group], fun n g => by rw [group],
    fun n g _ => by rw [group], fun u _ => thread u, fun u => by rw [thread], fun n g => by rw [group], fun n g => ?_⟩
  · rw [← ht, ← hc]; exact hr
  · unfold Has; rw [ht, team]

theorem Kept.afterOnce (s : State) (ts : List Tid) (d : Nat) (e : Instr) (a : EvArg) : Kept s (s.afterOnce d e a) ts :=
  Kept.of_agenda ts (by simp) (by simp) (by unfold State.afterOnce; split <;> rfl)

theorem Kept.after (s : State) (ts : List Tid) (d : Nat) (e : Instr) (a : EvArg) : Kept s (s.after d e a) ts :=
  Kept.of_agenda ts rfl rfl rfl

theorem Kept.newId (s : State) (ts : List Tid) : Kept s s.newId.2 ts := Kept.of_agenda ts rfl rfl rfl
theorem Kept.draw (s : State) (ts : List Tid) (n : Nat) : Kept s (s.draw n).2 ts := Kept.of_agenda ts rfl rfl rfl

/-- A change of the results under way in a group of one of the threads. -/
theorem Kept.pending (s : State) (t : Tid) (ts : List Tid) (ht : t ∈ ts) (f : List Pend → List Pend) :
    Kept s (s.modGroup t.team t.grp fun g => { g with pend := f g.pend }) ts where
  rest := rfl
  core := fun _ => rfl
  team := fun n => by rw [team_modGroup]; split <;> rfl
  sreg := fun n g => group_modGroup_proj _ _ _ _ _ _ (fun x => x.s) fun _ => rfl
  mask := fun n g => group_modGroup_proj _ _ _ _ _ _ (fun x => x.k) fun _ => rfl
  pend := fun n g h => by rw [group_modGroup_ne _ _ (h t ht)]
  other := fun u _ => thread_modGroup_proj s _ _ (fun g => { g with pend := f g.pend }) (fun _ => rfl) u
  thread := fun u => by rw [thread_modGroup_proj s _ _ (fun g => { g with pend := f g.pend }) (fun _ => rfl) u]
  len := fun n g => group_modGroup_proj _ _ _ _ _ _ (fun x => x.threads.length) fun _ => rfl
  has := fun n g => has_modGroup _ _ _ _ _ _

/-- A change of what completing a bundle changes in one of the threads. -/
theorem Kept.moved (s : State) (t : Tid) (ts : List Tid) (ht : t ∈ ts) (f : Thread → Thread)
    (hf : ∀ x, (f x).rest = x.rest) : Kept s (s.modThread t f) ts where
  rest := rfl
  core := fun _ => rfl
  team := fun n => by unfold modThread; rw [team_modGroup]; split <;> rfl
  sreg := fun n g => group_modThread_proj _ _ _ _ _ (fun x => x.s) fun _ _ => rfl
  mask := fun n g => group_modThread_proj _ _ _ _ _ (fun x => x.k) fun _ _ => rfl
  pend := fun n g _ => group_modThread_proj _ _ _ _ _ (fun x => x.pend) fun _ _ => rfl
  other := fun u hu => thread_modThread_ne _ _ fun h => hu (h ▸ ht)
  thread := fun u => thread_modThread_proj _ _ _ _ Thread.rest hf
  len := fun n g => threads_length_modThread _ _ _ _ _
  has := fun n g => has_modThread _ _ _ _ _

/-- A change of a core's issue table. -/
theorem Kept.entries (s : State) (c : Nat) (ts : List Tid) (f : List Entry → List Entry) :
    Kept s (s.modCore c fun k => { k with entries := f k.entries }) ts where
  rest := rfl
  core := fun d => by rw [core_modCore]; split <;> simp_all
  team := fun _ => rfl
  sreg := fun _ _ => rfl
  mask := fun _ _ => rfl
  pend := fun _ _ _ => rfl
  other := fun _ _ => rfl
  thread := fun _ => rfl
  len := fun _ _ => rfl
  has := fun _ _ => Iff.rfl

theorem Kept.prunePend (s : State) (t : Tid) (ts : List Tid) (ht : t ∈ ts) : Kept s (s.prunePend t.team t.grp) ts where
  rest := rfl
  core := fun _ => rfl
  team := fun n => by unfold State.prunePend; rw [team_modGroup]; split <;> rfl
  sreg := fun n g => group_modGroup_proj _ _ _ _ _ _ (fun x => x.s) fun _ => rfl
  mask := fun n g => group_modGroup_proj _ _ _ _ _ _ (fun x => x.k) fun _ => rfl
  pend := fun n g h => by unfold State.prunePend; rw [group_modGroup_ne _ _ (h t ht)]
  other := fun u _ => by unfold State.prunePend; rw [thread_modGroup_proj]; intro; rfl
  thread := fun u => by unfold State.prunePend; rw [thread_modGroup_proj]; intro; rfl
  len := fun n g => group_modGroup_proj _ _ _ _ _ _ (fun x => x.threads.length) fun _ => rfl
  has := fun n g => has_modGroup _ _ _ _ _ _

theorem Kept.join (s : State) (t : Tid) (ts : List Tid) (ht : t ∈ ts) (k : Nat) : Kept s (s.join t k) ts := by
  rw [join_eq]
  split
  · exact Kept.refl s ts
  · have m : ∀ (u : State) (e : Nat), Kept u (u.modThread t fun x => { x with entry := e, stamp := k }) ts :=
      fun u _ => Kept.moved u t ts ht _ fun _ => rfl
    split
    · exact m s 256
    · split
      · exact (Kept.entries s _ ts (fun l => l ++ [⟨(s.entryFor t).1, (s.thread t).pc, (s.team t.team).ctx⟩])).trans (m _ _)
      · exact m s _

theorem Kept.retire (s : State) (t : Tid) (ts : List Tid) (ht : t ∈ ts) (pc : DWord) (ends : Bool) :
    Kept s (s.retire t pc ends) ts := by
  rw [retire_eq]
  exact (Kept.moved s t ts ht (fun x => { x with
    pc := pc, pace := if ends then [] else x.pace.tail, since := s.cycle + 1, wait := .none, reply := .none,
    sent := Option.none, got := [] })
    fun _ => rfl).trans ((Kept.prunePend _ t ts ht).trans (Kept.join _ t ts ht _))

theorem Kept.fixed (s : State) (t : Tid) (ts : List Tid) (ht : t ∈ ts) (own : List Nat) (d : Dst) (lat : Nat) :
    Kept s (s.fixed t own d lat) ts := by
  rw [fixed_eq]
  exact (Kept.pending s t ts ht (fun l => l.filterMap (Pend.outrun d (s.cycle + lat)) ++
    [⟨d, some (s.cycle + lat), 0, own, false⟩])).trans (Kept.afterOnce _ ts _ _ _)

theorem Kept.fixedOwn (s : State) (t : Tid) (ts : List Tid) (ht : t ∈ ts) (d : Dst) (lat : Nat) :
    Kept s (s.fixedOwn t d lat) ts := Kept.fixed s t ts ht _ d lat

theorem Kept.later (s : State) (t : Tid) (ts : List Tid) (ht : t ∈ ts) (own : List Nat) (ds : List Dst) (delay : Nat) :
    Kept s (s.later t own ds delay) ts := by
  rw [later_eq]
  exact (Kept.newId s ts).trans ((Kept.pending _ t ts ht (fun l => l ++
    ds.map (fun d => ⟨d, none, s.nextId, own, false⟩))).trans (Kept.after _ ts _ _ _))

theorem Kept.landLater (s : State) (t : Tid) (ts : List Tid) (ht : t ∈ ts) (own : List Nat) (ds : List Dst) :
    Kept s (s.landLater t own ds) ts := by
  rw [landLater_eq]
  exact (Kept.draw s ts _).trans (Kept.later _ t ts ht own ds _)

/-! ### A thread that goes on -/

theorem thread_join_proj {β : Type} (s : State) (t u : Tid) (k : Nat) (p : Thread → β)
    (hp : ∀ (x : Thread) e, p { x with entry := e, stamp := k } = p x) : p ((s.join t k).thread u) = p (s.thread u) := by
  rw [join_eq]
  split
  · rfl
  · split
    · rw [thread_modThread_proj _ _ _ _ p fun x => hp x _]
    · rw [thread_modThread_proj _ _ _ _ p fun x => hp x _]
      split <;> rfl

theorem pend_join (s : State) (t : Tid) (k n g : Nat) : ((s.join t k).group n g).pend = (s.group n g).pend := by
  rw [join_eq]
  split
  · rfl
  · split
    · rw [group_modThread_proj _ _ _ _ _ (fun x => x.pend) fun _ _ => rfl]
    · rw [group_modThread_proj _ _ _ _ _ (fun x => x.pend) fun _ _ => rfl]
      split <;> rfl

theorem thread_prunePend (s : State) (n g : Nat) (u : Tid) : (s.prunePend n g).thread u = s.thread u := by
  unfold State.prunePend; rw [thread_modGroup_proj]; intro; rfl

/-- Where a thread stands after its bundle has completed. -/
theorem thread_retire (s : State) (t : Tid) (pc : DWord) (ends : Bool) (h : s.Here t) :
    ((s.retire t pc ends).thread t).pc = pc ∧ ((s.retire t pc ends).thread t).wait = .none ∧
    ((s.retire t pc ends).thread t).since = s.cycle + 1 ∧
    ((s.retire t pc ends).thread t).pace = if ends then [] else (s.thread t).pace.tail := by
  rw [retire_eq]
  refine ⟨?_, ?_, ?_, ?_⟩
  · rw [thread_join_proj _ _ _ _ (fun x => x.pc) fun _ _ => rfl, thread_prunePend, thread_modThread_self _ _ h]
  · rw [thread_join_proj _ _ _ _ (fun x => x.wait) fun _ _ => rfl, thread_prunePend, thread_modThread_self _ _ h]
  · rw [thread_join_proj _ _ _ _ (fun x => x.since) fun _ _ => rfl, thread_prunePend, thread_modThread_self _ _ h]
  · rw [thread_join_proj _ _ _ _ (fun x => x.pace) fun _ _ => rfl, thread_prunePend, thread_modThread_self _ _ h]

/-! ### Results under way -/

/-- The results under way that remain when a thread completes its bundle are some of those before, in their order; one
that has not yet landed remains. -/
theorem pend_retire (s : State) (t : Tid) (pc : DWord) (ends : Bool) (n g : Nat) :
    ∃ q : Pend → Bool, (∀ e, (∀ w, e.due = some w → s.cycle < w) → q e = true) ∧
      ((s.retire t pc ends).group n g).pend = (s.group n g).pend.filter q := by
  rw [retire_eq, pend_join]
  generalize hu : s.modThread t _ = u
  have hp : (u.group n g).pend = (s.group n g).pend := by
    rw [← hu, group_modThread_proj _ _ _ _ _ (fun x => x.pend) fun _ _ => rfl]
  have hc : u.cycle = s.cycle := by rw [← hu]; rfl
  unfold State.prunePend
  rw [group_modGroup]
  split
  · rw [← hp]
    refine ⟨_, ?_, rfl⟩
    intro e hd
    split
    · rfl
    · rename_i w hw
      have := hd w hw
      simp [hc, this]
  · exact ⟨fun _ => true, fun _ _ => rfl, by rw [hp]; exact (List.filter_eq_self.mpr fun _ _ => rfl).symm⟩

theorem pend_retireAll (us : List Tid) (s : State) (pc : DWord) (ends : Bool) (n g : Nat) :
    ∃ q : Pend → Bool, (∀ e, (∀ w, e.due = some w → s.cycle < w) → q e = true) ∧
      ((us.foldl (fun s t => s.retire t pc ends) s).group n g).pend = (s.group n g).pend.filter q := by
  induction us generalizing s with
  | nil => exact ⟨fun _ => true, fun _ _ => rfl, (List.filter_eq_self.mpr fun _ _ => rfl).symm⟩
  | cons u us ih =>
    obtain ⟨q, hq, e⟩ := pend_retire s u pc ends n g
    obtain ⟨q', hq', e'⟩ := ih (s.retire u pc ends)
    have hc : (s.retire u pc ends).cycle = s.cycle := (Kept.retire s u [u] (by simp) pc ends).cycle
    refine ⟨fun x => q x && q' x, fun x hx => ?_, ?_⟩
    · simp only [hq x hx, hq' x (by rw [hc]; exact hx), Bool.and_self]
    · rw [List.foldl_cons, e', e, List.filter_filter]
      congr 1
      funext x
      exact Bool.and_comm _ _

theorem pend_fixed (s : State) (t : Tid) (own : List Nat) (d : Dst) (lat : Nat) (h : s.Has t.team t.grp) :
    ((s.fixed t own d lat).group t.team t.grp).pend =
      (s.group t.team t.grp).pend.filterMap (Pend.outrun d (s.cycle + lat)) ++ [⟨d, some (s.cycle + lat), 0, own, false⟩] := by
  rw [fixed_eq, afterOnce_group, group_modGroup_self _ _ h]

end State

/-! ### Landing -/

/-- Results landed one after another. -/
def Group.putAll (g : Group) (l : List Pend) : Group := l.foldl (fun g e => g.put e.dst) g

theorem Group.putAll_proj {β : Type} (p : Group → β) (h : ∀ g d, p (g.put d) = p g) (g : Group) (l : List Pend) :
    p (g.putAll l) = p g := by
  unfold Group.putAll
  induction l generalizing g with
  | nil => rfl
  | cons e l ih => rw [List.foldl_cons, ih, h]

theorem Group.putAll_concat (g : Group) (l : List Pend) (e : Pend) : g.putAll (l ++ [e]) = (g.putAll l).put e.dst := by
  unfold Group.putAll; rw [List.foldl_append]; rfl

theorem Group.put_length (g : Group) (d : Dst) : (g.put d).threads.length = g.threads.length := by
  cases d <;> simp only [Group.put] <;> split <;> simp

theorem Group.put_thread {β : Type} (p : Thread → β) (hv : ∀ x v, p { x with v := v } = p x)
    (ha : ∀ x a, p { x with a := a } = p x) (g : Group) (d : Dst) (i : Nat) :
    p (nthD Thread.none (g.put d).threads i) = p (nthD Thread.none g.threads i) := by
  cases d <;> simp only [Group.put] <;> split <;> try rfl
  · exact nthD_modAt_proj _ _ p (fun x => hv x _) _ _ _
  · exact nthD_modAt_proj _ _ p (fun x => ha x _) _ _ _

/-- v0 is not written (01 R4). -/
theorem Group.put_v0 (g : Group) (d : Dst) (i : Nat) :
    Sp.get (0 : Word) (nthD Thread.none (g.put d).threads i).v 0 = Sp.get (0 : Word) (nthD Thread.none g.threads i).v 0 := by
  cases d <;> simp only [Group.put] <;> split <;> try rfl
  · rename_i h
    refine nthD_modAt_proj _ _ (fun x : Thread => Sp.get (0 : Word) x.v 0) (fun x => ?_) _ _ _
    rw [Sp.get_set, if_neg h]
  · refine nthD_modAt_proj _ _ (fun x : Thread => Sp.get (0 : Word) x.v 0) ?_ _ _ _
    intro x; rfl

/-- a0 is not written (01 R10). -/
theorem Group.put_a0 (g : Group) (d : Dst) (i : Nat) :
    Sp.get AReg.zero (nthD Thread.none (g.put d).threads i).a 0 = Sp.get AReg.zero (nthD Thread.none g.threads i).a 0 := by
  cases d <;> simp only [Group.put] <;> split <;> try rfl
  · refine nthD_modAt_proj _ _ (fun x : Thread => Sp.get AReg.zero x.a 0) ?_ _ _ _
    intro x; rfl
  · rename_i h
    refine nthD_modAt_proj _ _ (fun x : Thread => Sp.get AReg.zero x.a 0) (fun x => ?_) _ _ _
    rw [Sp.get_set, if_neg h]

/-- s0 is not written (01 R4). -/
theorem Group.put_s0 (g : Group) (d : Dst) : (g.put d).sreg 0 = g.sreg 0 := by
  unfold Group.sreg
  cases d <;> simp only [Group.put] <;> split <;> try rfl
  rename_i h
  rw [Sp.get_set, if_neg h]

namespace State

/-- The state once a thread's results have landed. -/
theorem groupOf_landAll (s : State) (t : Tid) (h : s.Has t.team t.grp) :
    (s.landAll t).groupOf t = { (s.groupOf t).putAll ((s.groupOf t).pend.filter fun e => e.own.contains t.thr && !e.landed) with
      pend := (s.groupOf t).pend.filterMap (Pend.without t.thr) } := by
  unfold landAll groupOf
  rw [group_modGroup_self _ _ h]
  rfl

theorem thread_landAll (s : State) (t : Tid) (h : s.Has t.team t.grp) :
    (s.landAll t).thread t = nthD Thread.none
      ((s.groupOf t).putAll ((s.groupOf t).pend.filter fun e => e.own.contains t.thr && !e.landed)).threads t.thr := by
  have := groupOf_landAll s t h
  unfold groupOf at this
  unfold State.thread
  rw [this]
  rfl

/-- The result under way last in order. -/
theorem pend_last (s : State) (t : Tid) (h : s.Has t.team t.grp) (l : List Pend) (e : Pend)
    (hp : (s.groupOf t).pend = l ++ [e]) (he : e.own.contains t.thr = true) (hl : e.landed = false) :
    (s.landAll t).thread t = nthD Thread.none (((s.groupOf t).putAll
      (l.filter fun e => e.own.contains t.thr && !e.landed)).put e.dst).threads t.thr ∧
    ((s.landAll t).groupOf t).s = (((s.groupOf t).putAll (l.filter fun e => e.own.contains t.thr && !e.landed)).put e.dst).s ∧
    ((s.landAll t).groupOf t).k = (((s.groupOf t).putAll (l.filter fun e => e.own.contains t.thr && !e.landed)).put e.dst).k := by
  have f : ((s.groupOf t).pend.filter fun e => e.own.contains t.thr && !e.landed) =
      (l.filter fun e => e.own.contains t.thr && !e.landed) ++ [e] := by
    rw [hp, List.filter_append]; simp only [List.filter_cons, he, hl, Bool.not_false, Bool.and_self, if_true, List.filter_nil]
  refine ⟨?_, ?_, ?_⟩
  · rw [thread_landAll s t h, f, Group.putAll_concat]
  · rw [groupOf_landAll s t h, f, Group.putAll_concat]
  · rw [groupOf_landAll s t h, f, Group.putAll_concat]

/-- A vector result that is last in order lands. -/
theorem vreg_landAll (s : State) (t : Tid) (h : s.Here t) (l : List Pend) (e : Pend) (d : Nat) (x : Word)
    (hp : (s.groupOf t).pend = l ++ [e]) (he : e.own.contains t.thr = true) (hl : e.landed = false)
    (hd : e.dst = .v t.thr (physOf (s.thread t).base d) x) :
    ((s.landAll t).thread t).vreg d = if physOf (s.thread t).base d = 0 then (s.thread t).vreg d else x := by
  obtain ⟨h1, -, -⟩ := pend_last s t h.1 l e hp he hl
  have hb : ((s.landAll t).thread t).base = (s.thread t).base := by
    rw [h1, Group.put_thread (fun x => x.base) (fun _ _ => rfl) (fun _ _ => rfl),
      Group.putAll_proj (fun g => (nthD Thread.none g.threads t.thr).base)
        (fun g d => Group.put_thread (fun x => x.base) (fun _ _ => rfl) (fun _ _ => rfl) g d _)]
    rfl
  unfold Thread.vreg
  rw [hb]
  split
  · rename_i h0
    rw [h0, h1, Group.put_v0, Group.putAll_proj (fun g => Sp.get (0 : Word) (nthD Thread.none g.threads t.thr).v 0)
      fun g d => Group.put_v0 g d _]
    rfl
  · rename_i h0
    rw [h1, hd]
    simp only [Group.put, if_neg h0]
    rw [nthD_modAt_self]
    · simp
    · rw [Group.putAll_proj (fun g => g.threads.length) Group.put_length]; exact h.2

/-- An address result that is last in order lands. -/
theorem areg_landAll (s : State) (t : Tid) (h : s.Here t) (l : List Pend) (e : Pend) (d : Nat) (x : AReg)
    (hp : (s.groupOf t).pend = l ++ [e]) (he : e.own.contains t.thr = true) (hl : e.landed = false)
    (hd : e.dst = .a t.thr d x) :
    ((s.landAll t).thread t).areg d = if d = 0 then (s.thread t).areg d else x := by
  obtain ⟨h1, -, -⟩ := pend_last s t h.1 l e hp he hl
  unfold Thread.areg
  split
  · rename_i h0
    rw [h0, h1, Group.put_a0, Group.putAll_proj (fun g => Sp.get AReg.zero (nthD Thread.none g.threads t.thr).a 0)
      fun g d => Group.put_a0 g d _]
    rfl
  · rename_i h0
    rw [h1, hd]
    simp only [Group.put, if_neg h0]
    rw [nthD_modAt_self]
    · simp
    · rw [Group.putAll_proj (fun g => g.threads.length) Group.put_length]; exact h.2

/-- A uniform result that is last in order lands. -/
theorem sreg_landAll (s : State) (t : Tid) (h : s.Has t.team t.grp) (l : List Pend) (e : Pend) (d : Nat) (x : Word)
    (hp : (s.groupOf t).pend = l ++ [e]) (he : e.own.contains t.thr = true) (hl : e.landed = false)
    (hd : e.dst = .s d x) :
    ((s.landAll t).groupOf t).sreg d = if d = 0 then (s.groupOf t).sreg d else x := by
  obtain ⟨-, h1, -⟩ := pend_last s t h l e hp he hl
  unfold Group.sreg
  split
  · rename_i h0
    rw [h1, h0]
    have := Group.put_s0 ((s.groupOf t).putAll (l.filter fun e => e.own.contains t.thr && !e.landed)) e.dst
    unfold Group.sreg at this
    rw [this]
    exact Group.putAll_proj (fun g => Sp.get (0 : Word) g.s 0) Group.put_s0 _ _
  · rename_i h0
    rw [h1, hd]
    simp only [Group.put, if_neg h0, Sp.get_set, if_true]

end State

/-! ### Issue groups -/


namespace State

theorem here_of_governed (s : State) (t : Tid) (i : Instr) (h : s.governed t i = true) :
    s.Here t ∧ t.thr < 64 ∧ (s.thread t).present = true := by
  unfold governed at h
  have hp : ((s.groupOf t).present).getLsbD t.thr = true := by
    unfold Group.mask at h
    split at h
    · exact h
    · rw [BitVec.getLsbD_and, Bool.and_eq_true] at h; exact h.2
  have hlt : t.thr < 64 := BitVec.lt_of_getLsbD hp
  obtain ⟨_, h2, h3⟩ := presentFrom_bit 0 _ _ hp
  have hhas : s.Has t.team t.grp := by
    refine Classical.byContradiction fun hn => ?_
    have : (s.groupOf t).threads = [] := by unfold groupOf; rw [group_of_not_has s hn]; rfl
    rw [this] at h2
    simp at h2
  refine ⟨⟨hhas, by simpa [groupOf] using h2⟩, hlt, ?_⟩
  simpa [groupOf, State.thread] using h3

/-- A per-thread bundle of an issue group of one thread that takes part. -/
theorem share_takesPart (s : State) (i : Instr) (ends : Bool) (body : State → Tid → Res) (t : Tid)
    (h1 : s.decodeTrap t i = none) (h2 : s.governed t i = true) (h3 : s.pendingReg t i = none) :
    share i ends body s t = settle t i ends (body s t) := by
  unfold share
  simp [h1, h2, h3]

theorem perThread_one (s : State) (i : Instr) (body : State → Tid → Res) (t : Tid) (h : s.cur.threads = [t])
    (h1 : s.decodeTrap t i = none) (h2 : s.governed t i = true) (h3 : s.pendingReg t i = none) :
    s.perThread i body = settle t i false (body s t) := by
  unfold perThread
  rw [h, List.foldl_cons, List.foldl_nil, share_takesPart s i false body t h1 h2 h3]

theorem control_one (s : State) (i : Instr) (body : State → Tid → Res) (t : Tid) (h : s.cur.threads = [t])
    (h1 : s.decodeTrap t i = none) (h2 : s.governed t i = true) (h3 : s.pendingReg t i = none) :
    s.control i body = settle t i true (body s t) := by
  unfold control
  rw [h, List.foldl_cons, List.foldl_nil, share_takesPart s i true body t h1 h2 h3]

/-- Threads of one group that all complete a bundle. -/
theorem Kept.retireAll (ts us : List Tid) (hu : ∀ u ∈ us, u ∈ ts) (s : State) (pc : DWord) (ends : Bool) :
    Kept s (us.foldl (fun s t => s.retire t pc ends) s) ts := by
  induction us generalizing s with
  | nil => exact Kept.refl s ts
  | cons u us ih =>
    exact (Kept.retire s u ts (hu u (List.mem_cons_self ..)) pc ends).trans
      (ih (fun v hv => hu v (List.mem_cons_of_mem _ hv)) _)

end State

end Sys2Proof.Machine
end

