-- ==== Sys2Proof/Tests/Slice0.lean ====
section
/-! SUPPORT. Tests: ill-formed instructions refused, words of the spec's examples decoded, single steps compared with the
spec's worked examples, and for every statement with hypotheses a state that meets them. -/

namespace Sys2Proof.Tests

set_option Elab.async false

open Sys2Proof.Machine Sys2Proof.Claims

/-! ### States -/

/-- No prefix words. -/
def np : Pfx := ⟨none, none⟩
/-- An X word's fields: k, z, rm, c, sat. -/
def xp (k : BitVec 3) (z : Bool) (rm : BitVec 3) (c : Field) (sat : Bool) : Pfx := ⟨some ⟨k, z, rm, c, sat, false, false, 0⟩, none⟩
def t0 : Tid := ⟨0, 0, 0⟩
def t1 : Tid := ⟨0, 0, 1⟩
/-- A reading that does not wait. -/
def holdsNot : MemRes → Bool
  | .hold _ _ => false
  | _ => true
theorem no_hold {r : MemRes} (h : holdsNot r = true) (u : State) (w : Wait) : r ≠ .hold u w := by
  rintro rfl; cases h

/-- A loaded program: team 0 of width 8 with thread 0, which issues. -/
def w0 : State := { State.reset.programLoaded with cur := ⟨0, [t0], 0x10000, 0x10000, 0x10004⟩ }
/-- The state with registers of thread 0: v1, v2, v3. -/
def regs (s : State) (a b d : Word) : State := s.modThread t0 fun x => { x with v := [(1, a), (2, b), (3, d)] }
/-- Threads 0 and 1 issue together. -/
def w2 : State :=
  let s := w0.modThread t1 fun _ => { w0.thread t0 with v := [(1, 7), (2, 1)] }
  { regs s 5 3 0 with cur := ⟨0, [t0, t1], 0x10000, 0x10000, 0x10004⟩ }


/-! ### Witnesses: registers (each is a state and operands that meet the hypotheses of the statement it names) -/

theorem witness_VectorResultsLand : ∃ val, vectorResult (.add ⟨np, 3, 1, 2, false⟩) = some (3, 4, val) ∧
    alone (regs w0 5 3 0) (.add ⟨np, 3, 1, 2, false⟩) t0 := by
  refine ⟨_, rfl, ?_⟩; unfold alone takesPart; decide +kernel

theorem witness_wordsResult : ∃ val, wordsResult (.addw ⟨np, 4, 2, 2, false⟩) = some (4, 4, val) ∧
    Instr.WellFormed (.addw ⟨np, 4, 2, 2, false⟩) ∧ alone (regs w0 5 3 0) (.addw ⟨np, 4, 2, 2, false⟩) t0 := by
  refine ⟨_, rfl, ?_⟩; unfold alone takesPart; decide +kernel

theorem witness_wordsResult_getsr : ∃ val, wordsResult (.getsr ⟨np, 4, 0x4000⟩) = some (4, 4, val) ∧
    Instr.WellFormed (.getsr ⟨np, 4, 0x4000⟩) ∧ alone w0 (.getsr ⟨np, 4, 0x4000⟩) t0 := by
  refine ⟨_, rfl, ?_⟩; unfold alone takesPart; decide +kernel

theorem witness_bitResult : ∃ val, bitResult (.cmp ⟨np, 3, 2, 1, 2, false⟩) = some (3, val) ∧
    Instr.WellFormed (.cmp ⟨np, 3, 2, 1, 2, false⟩) ∧ alone (regs w0 5 3 0) (.cmp ⟨np, 3, 2, 1, 2, false⟩) t0 := by
  refine ⟨_, rfl, ?_⟩; unfold alone takesPart; decide +kernel

theorem witness_pointerResult : ∃ val, pointerResult (.mova ⟨np, 3, 2, 0, false⟩) = some (3, val) ∧
    alone w0 (.mova ⟨np, 3, 2, 0, false⟩) t0 := by
  refine ⟨_, rfl, ?_⟩; unfold alone takesPart; decide +kernel

theorem witness_UniformResultsLandOnce : ∃ val, uniformResult (.sadd ⟨np, 3, 1, 2, false⟩) = some (3, 4, val) ∧
    together w2 (.sadd ⟨np, 3, 1, 2, false⟩) 0 0 [t0, t1] := by
  refine ⟨_, rfl, ?_⟩; unfold together takesPart; decide +kernel

theorem witness_MaskResults : ∃ val, maskResult (.kand ⟨np, 1, 0, 2, 3, false⟩) = some (1, val) ∧
    Instr.WellFormed (.kand ⟨np, 1, 0, 2, 3, false⟩) ∧ together w2 (.kand ⟨np, 1, 0, 2, 3, false⟩) 0 0 [t0, t1] := by
  refine ⟨_, rfl, ?_⟩; unfold together takesPart; decide +kernel

theorem witness_CrossLaneResultsLand : ∃ val, crossResult (.shfli ⟨np, 3, 1, 2, false⟩) = some (3, val) ∧
    together w2 (.shfli ⟨np, 3, 1, 2, false⟩) 0 0 [t0, t1] ∧ ∀ t ∈ [t0, t1], (B w2 t ⟨np, 3, 1, 2, false⟩).toNat < (w2.team 0).width := by
  refine ⟨_, rfl, ?_⟩; unfold together takesPart; decide +kernel

/-- Threads 0 and 1 of a team of width 16, for blocks of 16. -/
def w16 : State := w2.modTeam 0 fun m => { m with width := 16, groups := m.groups.map fun g => { g with threads := g.threads ++ List.replicate 8 Thread.none } }

theorem witness_rdl : together w2 (.rdl ⟨np, 3, 1, 2, false⟩) 0 0 [t0, t1] ∧ ((w2.group 0 0).sreg 2).toNat < (w2.team 0).width ∧
    ∀ r, w2.pendingReg ⟨0, 0, ((w2.group 0 0).sreg 2).toNat⟩ (.rdl ⟨np, 3, 1, 2, false⟩) ≠ some r := by
  have h : w2.pendingReg ⟨0, 0, ((w2.group 0 0).sreg 2).toNat⟩ (.rdl ⟨np, 3, 1, 2, false⟩) = none := by decide +kernel
  refine ⟨by unfold together takesPart; decide +kernel, by decide +kernel, fun r => ?_⟩
  rw [h]; exact nofun
theorem witness_ballot : Instr.WellFormed (.ballot ⟨np, 4, 1, 0, false⟩) ∧ together w2 (.ballot ⟨np, 4, 1, 0, false⟩) 0 0 [t0, t1] := by
  unfold together takesPart; decide +kernel
theorem witness_age : Instr.WellFormed (.age ⟨np, 4, 0, 0, false⟩) ∧ together w2 (.age ⟨np, 4, 0, 0, false⟩) 0 0 [t0, t1] := by
  unfold together takesPart; decide +kernel
theorem witness_match : Instr.WellFormed (.matchOp ⟨np, 4, 1, 0, false⟩) ∧ together w2 (.matchOp ⟨np, 4, 1, 0, false⟩) 0 0 [t0, t1] := by
  unfold together takesPart; decide +kernel
theorem witness_qenc : Instr.WellFormed (.qenc ⟨np, 3, 4, 0x40⟩) ∧ together w16 (.qenc ⟨np, 3, 4, 0x40⟩) 0 0 [t0, t1] ∧
    blockLength ⟨np, 3, 4, 0x40⟩ ≤ (w16.team 0).width ∧ (∃ k, k ≤ 6 ∧ (w16.team 0).width = 2 ^ k) ∧ ∀ u ∈ [t0, t1], u.thr < (w16.team 0).width :=
  ⟨by decide +kernel, by unfold together takesPart; decide +kernel, by decide +kernel, ⟨4, by decide +kernel⟩, by decide +kernel⟩
theorem witness_qdec : Instr.WellFormed (.qdec ⟨np, 3, 4, 0x40⟩) ∧ together w16 (.qdec ⟨np, 3, 4, 0x40⟩) 0 0 [t0, t1] ∧
    blockLength ⟨np, 3, 4, 0x40⟩ ≤ (w16.team 0).width := by
  unfold together takesPart; decide +kernel

/-- The context has a handler at 0x8000. -/
def handler (s : State) : State := s.modCtx 1 fun k => { k with hbase := 0x8000 }

theorem witness_convergence_block : ((w2.team 0).width < blockLength ⟨np, 3, 4, 0x40⟩) ∧
    together (handler w2) (.qenc ⟨np, 3, 4, 0x40⟩) 0 0 [t0, t1] ∧ ∀ t ∈ [t0, t1], handled (handler w2) t := by
  unfold together takesPart handled; decide +kernel
/-- Each thread's v2 holds 8, the first index above the width. -/
def w2far : State := handler ((w2.modThread t0 fun x => { x with v := [(2, 8)] }).modThread t1 fun x => { x with v := [(2, 8)] })
theorem witness_convergence_shfli : (B w2far t0 ⟨np, 3, 1, 2, false⟩).toNat = 8 ∧ (w2far.team 0).width ≤ 8 ∧
    (∀ u ∈ [t0, t1], (w2far.team 0).width ≤ (B w2far u ⟨np, 3, 1, 2, false⟩).toNat → (B w2far u ⟨np, 3, 1, 2, false⟩).toNat = 8) ∧
    together w2far (.shfli ⟨np, 3, 1, 2, false⟩) 0 0 [t0, t1] ∧ ∀ t ∈ [t0, t1], handled w2far t := by
  unfold together takesPart handled; decide +kernel
/-- s2 holds 8. -/
def w2s : State := handler (w2.modGroup 0 0 fun g => { g with s := [(2, 8)] })
theorem witness_convergence_rdl : ((w2s.group 0 0).sreg 2).toNat = 8 ∧ (w2s.team 0).width ≤ 8 ∧
    (∀ r, w2s.pendingReg ⟨0, 0, 8⟩ (.rdl ⟨np, 3, 1, 2, false⟩) ≠ some r) ∧
    together w2s (.rdl ⟨np, 3, 1, 2, false⟩) 0 0 [t0, t1] ∧ ∀ t ∈ [t0, t1], handled w2s t := by
  have h : w2s.pendingReg ⟨0, 0, 8⟩ (.rdl ⟨np, 3, 1, 2, false⟩) = none := by decide +kernel
  refine ⟨by decide +kernel, by decide +kernel, fun r => ?_, by unfold together takesPart; decide +kernel, by unfold handled; decide +kernel⟩
  rw [h]; exact nofun

/-! ### Witnesses: who executes, control, traps -/

/-- Ordinary instructions, by their constructors. -/
theorem ordinary_add (f : TF) : ordinary (.add f) := ⟨by cases f; rfl, nofun, nofun, nofun⟩

/-- k1 is all zeros and governs. -/
theorem witness_MaskedOffThreadsPass : let i : Instr := .add ⟨xp 1 true 0 0 false, 3, 1, 2, false⟩
    ordinary i ∧ i.WellFormed ∧ w0.cur.threads = [t0] ∧ w0.decodeTrap t0 i = none ∧ (w0.thread t0).present = true ∧ w0.governed t0 i = false :=
  ⟨ordinary_add _, by decide +kernel⟩

theorem witness_IssueGroups : (vectorResult (.add ⟨np, 3, 1, 2, false⟩)).isSome = true ∧ w2.cur.threads = [t0, t1] := by decide +kernel

theorem witness_Branches : ∃ target, goesTo (.ret ⟨np, 0, 0, 0, false⟩) = some (false, true, target) ∧
    alone w0 (.ret ⟨np, 0, 0, 0, false⟩) t0 ∧ aligned4 (target w0 t0) := by
  refine ⟨_, rfl, ?_⟩; unfold alone takesPart aligned4; decide +kernel

theorem witness_exit : alone (regs w2 0 0 0 |> fun s => { s with cur := { s.cur with threads := [t0] } }) (.exit ⟨np, 0, 0, 0, false⟩) t0 ∧ t1 ≠ t0 ∧
    t1 ∈ w2.tids 0 ∧ ∃ v ∈ w2.tids 0, v ≠ t0 ∧ (w2.thread v).wait ≠ .taskEnd :=
  ⟨by unfold alone takesPart; decide +kernel, by decide, by decide +kernel, t1, by decide +kernel⟩
/-- The task has ended. -/
def w0ended : State := w0.modTeam 0 fun m => { m with taskEnded := true }
theorem witness_exit_last : alone w0ended (.exit ⟨np, 0, 0, 0, false⟩) t0 ∧ w0ended.tids 0 = [t0] ∧ (w0ended.team 0).taskEnded = true ∧
    (w0ended.team 0).status = .resident ∧ w0ended.workLeft 0 = false ∧ (w0ended.team 0).request = none := by
  unfold alone takesPart; decide +kernel
theorem witness_sleep : ((⟨np, 0, 0, 255⟩ : IF).imm ≠ 0) ∧ (w0.team 0).request = none ∧ alone w0 (.sleep ⟨np, 0, 0, 255⟩) t0 := by
  unfold alone takesPart; decide +kernel
theorem witness_yield : (w0.team 0).request = none ∧ alone w0 (.yield ⟨np, 0, 0, 0, false⟩) t0 := by
  unfold alone takesPart; decide +kernel
def w0asleep : State := { (w0.modThread t0 fun x => { x with wait := .sleep 16 }) with arg := { t0.arg with len := 16 } }
theorem witness_sleepExpiry : w0asleep.arg = { t0.arg with len := 16 } ∧ (w0asleep.thread t0).present = true ∧ (w0asleep.thread t0).wait = .sleep 16 := by
  decide +kernel
def w0yields : State := { (w0.modThread t0 fun x => { x with wait := .yield 8 }) with arg := { t0.arg with len := 8 } }
theorem witness_yieldExpiry : w0yields.arg = { t0.arg with len := 8 } ∧ (w0yields.thread t0).present = true ∧ (w0yields.thread t0).wait = .yield 8 := by
  decide +kernel
def w0asked : State := w0.modTeam 0 fun m => { m with request := some 0 }
theorem witness_phint : alone w0asked (.phint ⟨np, 0, 255⟩) t0 ∧ (w0asked.team 0).request = some 0 ∧
    ∀ u w, w0asked.readRecord t0 ((w0asked.team 0).entry - 64 * 256) 16 ≠ .hold u w :=
  ⟨by unfold alone takesPart; decide +kernel, by decide +kernel, no_hold (by decide +kernel)⟩
/-- The record lies on the page below the entry's, whose walk is malformed. -/
theorem witness_phint_fault : ∃ u r, w0asked.readRecord t0 ((w0asked.team 0).entry - 64 * 256) 16 = .fault u r ∧ r.cause = .accessViolation := by
  have h : (match w0asked.readRecord t0 ((w0asked.team 0).entry - 64 * 256) 16 with
    | .fault _ r => decide (r.cause = .accessViolation)
    | _ => false) = true := by decide +kernel
  split at h
  · exact ⟨_, _, by assumption, of_decide_eq_true h⟩
  · cases h

theorem witness_atOnce : (∃ x, atOnce w0 t0 (.wbase ⟨np, 0, 0, 1⟩) = some x) ∧ alone w0 (.wbase ⟨np, 0, 0, 1⟩) t0 := by
  refine ⟨⟨_, rfl⟩, ?_⟩; unfold alone takesPart; decide +kernel
theorem witness_pace : w0.cur.threads = [t0] ∧ (w0.thread t0).present = true := by decide +kernel

theorem witness_trap : alone (handler w0) (.trap ⟨np, 0, 0x7FFF⟩) t0 ∧ handled (handler w0) t0 := by
  unfold alone takesPart handled; decide +kernel
theorem witness_ebrk : alone (handler w0) (.ebrk ⟨np, 0, 0, 0, false⟩) t0 ∧ handled (handler w0) t0 := by
  unfold alone takesPart handled; decide +kernel
def w0sys : State := w0.modThread t0 fun x => { x with sys := true }
theorem witness_rte : alone w0sys (.rte ⟨np, 0, 0, 0, false⟩) t0 ∧ aligned4 (w0sys.thread t0).trapRgn := by
  unfold alone takesPart aligned4; decide +kernel

theorem witness_privilege : (handler w0).cur.threads = [t0] ∧ ((handler w0).thread t0).present = true ∧ handled (handler w0) t0 := by
  unfold handled; decide +kernel
/-- v1 lands at cycle 4, and CHKSB is set. -/
def w0early : State := handler ((w0.modGroup 0 0 fun g => { g with pend := [{ dst := .v 0 1 7, due := some 4, id := 0, own := [0], landed := false }] }).modCtx 1 fun k => { k with chksb := true })
theorem witness_undersized : let i : Instr := .add ⟨np, 3, 1, 2, false⟩
    ordinary i ∧ w0early.cur.threads = [t0] ∧ (w0early.thread t0).present = true ∧ handled w0early t0 ∧ w0early.privileged t0 i = none ∧
    w0early.undersized t0 i = some (.v 1) :=
  ⟨ordinary_add _, by decide +kernel, by decide +kernel, by unfold handled; decide +kernel, by decide +kernel⟩
/-- v1 is bound to token 0. -/
def w0token : State := handler (w0.modThread t0 fun x => { x with tokens := [⟨0, 1, false⟩] })
theorem witness_pendingRead : let i : Instr := .add ⟨np, 3, 1, 2, false⟩
    ordinary i ∧ w0token.cur.threads = [t0] ∧ w0token.decodeTrap t0 i = none ∧ w0token.governed t0 i = true ∧
    w0token.pendingReg t0 i = some (.v 1) ∧ handled w0token t0 :=
  ⟨ordinary_add _, by decide +kernel, by decide +kernel, by decide +kernel, by decide +kernel, by unfold handled; decide +kernel⟩
/-- a3 holds an odd address. -/
def w0odd : State := handler (w0.modThread t0 fun x => { x with a := [(3, ⟨0x10002, Tether.clear⟩)] })
theorem witness_operandTrap : operandTrap w0odd t0 (.jmpa ⟨np, 0, 3, 0, false⟩) = some (.misaligned, 0x10002) ∧
    alone w0odd (.jmpa ⟨np, 0, 3, 0, false⟩) t0 ∧ handled w0odd t0 := by
  unfold alone takesPart handled; decide +kernel
/-- The decode table sends opcode 0x380 to ADD and 0x381 to the handler. -/
def w0map : State := handler (w0.modTeam 0 fun m => { m with dtab := [0x4001, 0x8000] ++ List.replicate 110 0 })
theorem witness_mapped_target : mappedBy (w0map.tableEntry 0 (0xE0018102)) np 0xE0018102 = .target (.ok (.add ⟨np, 3, 1, 1, false⟩)) ∧
    ordinary (.add ⟨np, 3, 1, 1, false⟩) ∧ w0map.cur.threads = [t0] ∧ (w0map.thread t0).present = true :=
  ⟨by decide +kernel, ordinary_add _, by decide +kernel⟩
theorem witness_mapped_emulate : mappedBy (w0map.tableEntry 0 (0xE0400000)) np 0xE0400000 = .emulate ∧ handled w0map t0 := by
  unfold handled; decide +kernel
theorem witness_mapped_illegal : mappedBy (w0map.tableEntry 0 (0xE0800000)) np 0xE0800000 = .illegal ∧ handled w0map t0 := by
  unfold handled; decide +kernel

theorem witness_SpecialFunctions : (∃ val, specialFunction (.sfrcp ⟨np, 3, 1, 7⟩) = some (⟨np, 3, 1, 7⟩, val)) ∧
    alone w0 (.sfrcp ⟨np, 3, 1, 7⟩) t0 ∧ (∀ k ∈ (w0.thread t0).tokens, k.num ≠ 7) ∧
    ((w0.core (w0.coreNum t0)).sfq.filter fun e => e.q = 0).length < 16 := by
  refine ⟨⟨_, rfl⟩, ?_⟩; unfold alone takesPart; decide +kernel

/-! ### Witnesses: reports and page requests -/

def w0ring : State := { w0 with mgmt := { w0.mgmt with srRing := 0x100000 } }
theorem witness_report : Cause.software.isPage = false ∧ (w0ring.ctxOf t0).hbase = 0 ∧ (w0ring.thread t0).present = true ∧
    (w0ring.core (w0ring.coreNum t0)).permits ≠ 0 ∧
    ∀ j, j < 64 → w0ring.partAt (w0ring.mgmt.srRing.toNat + 64 * (w0ring.mgmt.srN.toNat % 1024) + j) = none := by
  decide +kernel
theorem witness_pageRequest : (Request.of .translation 0).cause.isPage = true ∧ (w0.thread t0).present = true := by decide +kernel

/-! ### Witnesses: memory -/

theorem of_hold {r : Option MemRes} (P : State → Wait → Prop) [∀ s w, Decidable (P s w)]
    (h : (match r with
      | some (.hold s w) => decide (P s w)
      | _ => false) = true) : ∃ s w, r = some (.hold s w) ∧ P s w := by
  split at h
  · exact ⟨_, _, rfl, of_decide_eq_true h⟩
  · cases h
theorem of_fault {r : Option MemRes} (P : State → Request → Prop) [∀ s w, Decidable (P s w)]
    (h : (match r with
      | some (.fault s w) => decide (P s w)
      | _ => false) = true) : ∃ s w, r = some (.fault s w) ∧ P s w := by
  split at h
  · exact ⟨_, _, rfl, of_decide_eq_true h⟩
  · cases h
theorem of_ok {r : Option MemRes} (P : State → List Byte → Prop) [∀ s w, Decidable (P s w)]
    (h : (match r with
      | some (.ok s w) => decide (P s w)
      | _ => false) = true) : ∃ s w, r = some (.ok s w) ∧ P s w := by
  split at h
  · exact ⟨_, _, rfl, of_decide_eq_true h⟩
  · cases h

/-- The checks of `reaches` as a Bool. -/
def reachesB (s : State) (t : Tid) (reg : Nat) (a : DWord) (n : Nat) (need : Need) (poison : Bool) (p : Phys) : Bool :=
  !((s.thread t).areg reg).sh.v &&
  (match (s.locate t reg a n need).2 with
    | .mem q leaf b => q = p && b = a && (match leaf with
      | some e => !pteCow e.pte
      | none => true)
    | _ => false) &&
  decide (p.tgt ≤ 1 ∧ p.key % n = 0 ∧ n ∣ 128) && decide ((s.team t.team).folds = []) && decide ((s.thread t).wait = .none) &&
  decide (s.lateFault p a poison = none) && decide (s.home.shadows = [])
theorem reaches_of {s : State} {t : Tid} {reg : Nat} {a : DWord} {n : Nat} {need : Need} {poison : Bool} {p : Phys}
    (h : reachesB s t reg a n need poison p = true) : reaches s t reg a n need poison p := by
  simp only [reachesB, Bool.and_eq_true, Bool.not_eq_true', decide_eq_true_eq] at h
  obtain ⟨⟨⟨⟨⟨⟨h1, h2⟩, h3⟩, h4⟩, h5⟩, h6⟩, h7⟩ := h
  refine ⟨.inl h1, ?_, h3.1, h3.2.1, h3.2.2, h4, fun x hx => ?_, fun k hk => ?_, h6⟩
  · split at h2
    · rename_i q leaf b hl
      simp only [Bool.and_eq_true, decide_eq_true_eq] at h2
      obtain ⟨⟨rfl, rfl⟩, h2⟩ := h2
      refine ⟨leaf, hl, fun e he => ?_⟩
      subst he; simpa using h2
    · cases h2
  · rw [h7] at hx; cases hx
  · rw [h5] at hk; cases hk

/-- Pages at 0x10000 and 0x20000 that may be read, written and executed; a3 points to 0x20000, a4 to the last 16 bytes of
the team's scratchpad of 4,096 bytes. -/
def m0 : State :=
  let s := w0.modCore 0 fun c => { c with tlb := [⟨1, 0x10000, 0, 0x10079, 0⟩, ⟨1, 0x20000, 0, 0x20079, 0⟩] }
  let s := s.modTeam 0 fun m => { m with scratchSize := 0x1000 }
  regs (s.modThread t0 fun x => { x with a := [(3, ⟨0x20000, Tether.clear⟩), (4, ⟨BitVec.ofNat 64 (windowBase + 0xFF0), Tether.clear⟩)] }) 5 3 0
/-- The physical location of 0x20000. -/
def p2 : Phys := ⟨0, 0, 0x20000, false⟩

theorem witness_access_fault : alone (handler (m0.modThread t0 fun x => { x with a := [(3, ⟨0x20001, Tether.clear⟩)] })) (.ldB32 ⟨np, 3, 3, 0⟩) t0 ∧
    ∃ s1 r, access (handler (m0.modThread t0 fun x => { x with a := [(3, ⟨0x20001, Tether.clear⟩)] })) t0 (.ldB32 ⟨np, 3, 3, 0⟩) = some (.fault s1 r) ∧
    (r.cause.isPage = false ∧ r.cause ≠ .watchdog ∧ ((s1.thread t0).sys = false ∧ (s1.ctxOf t0).hbase ≠ 0) ∧ (s1.thread t0).present = true) :=
  ⟨by unfold alone takesPart; decide +kernel, of_fault _ (by decide +kernel)⟩
/-- Team 7 is committing to the granule at 0x20000. -/
def m0committing : State := { m0 with home := { m0.home with claims := [⟨granOf p2.key, 7, true⟩] } }
theorem witness_access_hold : alone m0committing (.ldB32 ⟨np, 3, 3, 0⟩) t0 ∧
    ∃ s1 w, access m0committing t0 (.ldB32 ⟨np, 3, 3, 0⟩) = some (.hold s1 w) ∧ ((s1.team 0).request = none ∧ (s1.thread t0).present = true) :=
  ⟨by unfold alone takesPart; decide +kernel, of_hold _ (by decide +kernel)⟩

/-- The last 16 bytes, and the bytes just below the end, of the scratchpad. -/
theorem witness_scratchpad : (16 ∣ 16) ∧ inScratchpad m0 t0 (BitVec.ofNat 64 (windowBase + 0xFF0)) 16 ∧
    inScratchpad m0 t0 (BitVec.ofNat 64 (windowBase + 0xFFF)) 1 ∧ m0.answered t0 = none := by
  unfold inScratchpad; decide +kernel
/-- Slot 0 lends the scratchpad's last 16 bytes to a job's operand. -/
def m0lent : State := m0.modTeam 0 fun m => { m with slots := [(0, ⟨BitVec.ofNat 256 (0xFF0 + 16 * 2 ^ 32), 0, false, false, []⟩)] }
theorem witness_scratchpad_lent : m0lent.isLent 0 0xFF0 16 = true ∧ m0lent.isLent 0 0xFE0 16 = false := by decide +kernel
theorem witness_scratchOffset_store : let i : Instr := .stsB128 ⟨np, 4, 20, 0⟩
    let s := m0.modThread t0 fun x => { x with v := [(20, 0xFF0)] }
    (∃ off, scratchAccesses i = some (16, off) ∧ 0 ≤ off s t0 ∧ (off s t0).toNat % 16 = 0 ∧ off s t0 + 16 ≤ ((s.team 0).scratchSize : Int)) ∧
    i.WellFormed ∧ alone s i t0 ∧ (s.team 0).scratchSize ≤ 0x200000 ∧ (storedBytes i).isSome = true := by
  refine ⟨⟨_, rfl, ?_⟩, ?_⟩
  · decide +kernel
  · unfold alone takesPart; decide +kernel
theorem witness_scratchOffset_load : let i : Instr := .ldsB32 ⟨np, 4, 20, 0⟩
    let s := m0.modThread t0 fun x => { x with v := [(20, 0xFFC)] }
    (∃ off, scratchAccesses i = some (4, off) ∧ 0 ≤ off s t0 ∧ (off s t0).toNat % 4 = 0 ∧ off s t0 + 4 ≤ ((s.team 0).scratchSize : Int)) ∧
    i.WellFormed ∧ alone s i t0 ∧ (s.team 0).scratchSize ≤ 0x200000 ∧ storedBytes i = none := by
  refine ⟨⟨_, rfl, ?_⟩, by decide +kernel, ?_, by decide +kernel, rfl⟩
  · decide +kernel
  · unfold alone takesPart; decide +kernel

theorem witness_load_memory : reaches m0 t0 3 0x20000 16 Need.load true p2 ∧ m0.answered t0 = none ∧
    ∀ c, m0.claimOf (granOf p2.key) = some c → c.committing = true → c.team = t0.team := by
  have h : m0.claimOf (granOf p2.key) = none := by decide +kernel
  refine ⟨reaches_of (by decide +kernel), by decide +kernel, fun c hc => ?_⟩
  rw [h] at hc; cases hc
theorem witness_store_memory : reaches m0 t0 3 0x20000 16 Need.store false p2 ∧ m0.claimOf (granOf p2.key) = none ∧
    (m0.core (m0.coreNum t0)).sb.length < 16 ∧ ∀ e ∈ (m0.core (m0.coreNum t0)).sb, e.line = lineOf p2.key → e.bytes.length + 16 < 128 :=
  ⟨reaches_of (by decide +kernel), by decide +kernel⟩

theorem witness_loads : let i : Instr := .ldS8 ⟨np, 3, 3, 0⟩
    loads i = some (3, true, np) ∧ i.WellFormed ∧ alone m0 i t0 ∧
    ∃ s1 b, access m0 t0 i = some (.ok s1 b) ∧ (s1.thread t0).present = true :=
  ⟨rfl, by decide +kernel, by unfold alone takesPart; decide +kernel, of_ok _ (by decide +kernel)⟩
theorem witness_stores : let i : Instr := .stB128 ⟨np, 4, 3, 0⟩
    (storedBytes i).isSome = true ∧ (accesses i).isSome = true ∧ alone m0 i t0 ∧
    ∃ s1 b, access m0 t0 i = some (.ok s1 b) ∧ (s1.thread t0).present = true :=
  ⟨rfl, rfl, by unfold alone takesPart; decide +kernel, of_ok _ (by decide +kernel)⟩
/-- s2 names core 0 as the destination. -/
def m0code : State := m0.modGroup 0 0 fun g => { g with s := [(2, 0x8000)] }
theorem witness_deliveries : let i : Instr := .stdlB32 ⟨np, 4, 3, 2, true⟩
    deliveries i = some (⟨np, 4, 3, 2, true⟩, 4) ∧ alone m0code i t0 ∧
    ∃ s1 b, access m0code t0 i = some (.ok s1 b) ∧ (s1.thread t0).present = true :=
  ⟨rfl, by unfold alone takesPart; decide +kernel, of_ok _ (by decide +kernel)⟩

/-- s2 and s3 hold 0x20000. -/
def m2 : State :=
  let s := m0.modThread t1 fun _ => m0.thread t0
  let s := s.modGroup 0 0 fun g => { g with s := [(2, 0x20000)] }
  { s with cur := { s.cur with threads := [t0, t1] } }
theorem of_load {r : MemRes} (P : State → List Byte → Prop) [∀ s w, Decidable (P s w)]
    (h : (match r with
      | .ok s w => decide (P s w)
      | _ => false) = true) : ∃ s w, r = .ok s w ∧ P s w := by
  split at h
  · exact ⟨_, _, rfl, of_decide_eq_true h⟩
  · cases h
theorem witness_ldu : together m2 (.ldu ⟨np, 3, 2, 0⟩) 0 0 [t0, t1] ∧
    ∃ s1 b, m2.load t0 [t0, t1] 0 ((m2.group 0 0).spair 2 + BitVec.ofInt 64 (immI np 0 * 4)) 4 (readOnly np) (nonTemporal np) = .ok s1 b ∧
      (∀ u ∈ [t0, t1], (s1.thread u).present = true) :=
  ⟨by unfold together takesPart; decide +kernel, of_load _ (by decide +kernel)⟩
theorem witness_ldp_plain : alone m0 (.ldp ⟨np, 3, 3, 0⟩) t0 ∧
    ∃ s1 b, m0.load t0 [t0] 3 (m0.addrA t0 ⟨np, 3, 3, 0⟩ 16) 16 (readOnly np) (nonTemporal np) = .ok s1 b ∧
      ((s1.thread t0).present = true ∧ (BitVec.ofNat 128 (leNat b)).getLsbD 127 = false) :=
  ⟨by unfold alone takesPart; decide +kernel, of_load _ (by decide +kernel)⟩
/-- A brand of identity 1 stands at 0x20000; its object is resident, by the entry in its first slot of the commons. -/
def m0brand (resident : Bool) : State :=
  let s := { handler m0 with mgmt := { m0.mgmt with commonsBase := 0x10000000 } }
  let s := { s with mem := s.mem.putAll (bytesAt 0x20000 (leBytes 16 (2 ^ 127 + 2 ^ 64))) }
  let e : CEntry := ⟨1, 0, 0, 1, 2, 1, 0xFFF, 0x40000100, 0, 0x200000, 0, true⟩
  if resident then { s with mem := s.mem.putAll (bytesAt (0x10000000 + 64 * commonsSlot 1 1) e.bytes) } else s
theorem witness_ldp_ready : alone (m0brand true) (.ldp ⟨np, 3, 3, 0⟩) t0 ∧
    ∃ s1 b, (m0brand true).load t0 [t0] 3 ((m0brand true).addrA t0 ⟨np, 3, 3, 0⟩ 16) 16 (readOnly np) (nonTemporal np) = .ok s1 b ∧
      ((s1.thread t0).present = true ∧ (BitVec.ofNat 128 (leNat b)).getLsbD 127 = true ∧ s1.fetchFailed t0 = none ∧
        (s1.obtainObject (s1.team 0).ctx ((BitVec.ofNat 128 (leNat b)).extractLsb' 64 63)).2 = .ready (commonsSlot 1 1)) :=
  ⟨by unfold alone takesPart; decide +kernel, of_load _ (by decide +kernel)⟩
theorem witness_ldp_unknown : alone (m0brand false) (.ldp ⟨np, 3, 3, 0⟩) t0 ∧
    ∃ s1 b, (m0brand false).load t0 [t0] 3 ((m0brand false).addrA t0 ⟨np, 3, 3, 0⟩ 16) 16 (readOnly np) (nonTemporal np) = .ok s1 b ∧
      ((s1.thread t0).present = true ∧ (BitVec.ofNat 128 (leNat b)).getLsbD 127 = true ∧ s1.fetchFailed t0 = none ∧
        (s1.obtainObject (s1.team 0).ctx ((BitVec.ofNat 128 (leNat b)).extractLsb' 64 63)).2 = .unknown ∧
        ((s1.thread t0).sys = false ∧ (s1.ctxOf t0).hbase ≠ 0)) :=
  ⟨by unfold alone takesPart; decide +kernel, of_load _ (by decide +kernel)⟩
/-- The checks of `quietLine` as a Bool. -/
def quietB (s : State) (writer : Option Nat) (line : Nat) : Bool :=
  s.home.txns.all (fun x => x.line != line) && s.home.refused.all (fun r => r.line != line) &&
  match s.region? (line * 128) with
  | some r => r.given.all fun c => some c == writer
  | none => true
theorem quiet_of {s : State} {writer : Option Nat} {line : Nat} (h : quietB s writer line = true) : quietLine s writer line := by
  simp only [quietB, Bool.and_eq_true, List.all_eq_true, bne_iff_ne] at h
  refine ⟨h.1.1, h.1.2, fun r hr c hc => ?_⟩
  have h := h.2
  rw [hr] at h
  exact eq_of_beq (List.all_eq_true.mp h c hc)
/-- Core 0 itself is recorded with a given copy of the line at 0x20000. -/
def m0given : State := { m0 with home := { m0.home with dir := [⟨m0.homeSlice p2.key, p2.key, 128, [0], [], 0⟩] } }
theorem witness_deliverStore : reaches m0 t0 3 ((m0.thread t0).areg 3).val 16 Need.store false p2 ∧
    m0.destinations 0 0x85FF = some [1535] ∧ m0.claimOf (granOf p2.key) = none ∧ quietLine m0 (some (m0.coreNum t0)) (lineOf p2.key) ∧
    noOwnStores m0 t0 (lineOf p2.key) ∧ (∀ k ∈ m0.clusters, ∀ q ∈ k.privs, q.line ≠ lineOf p2.key) ∧
    ∀ j, j < 16 → m0.partAt (p2.key + j) = none :=
  ⟨reaches_of (by decide +kernel), by decide +kernel, by decide +kernel, quiet_of (by decide +kernel),
    by unfold noOwnStores; decide +kernel, by decide +kernel⟩

theorem witness_atomic_lands : let i : Instr := .aadd ⟨np, 3, 3, 2, false⟩
    (∃ fn form, atomics i = some (⟨np, 3, 3, 2, false⟩, false, fn, form)) ∧ i.WellFormed ∧ alone m0 i t0 ∧
    ∃ s1 old, access m0 t0 i = some (.ok s1 old) ∧ (s1.thread t0).present = true :=
  ⟨⟨_, _, rfl⟩, by decide +kernel, by unfold alone takesPart; decide +kernel, of_ok _ (by decide +kernel)⟩
/-- An atomic of a width at an address through a3 or a4, of a scope. -/
def atomAt (n reg : Nat) (a : DWord) (scope : Nat) : Atom :=
  { (m0.atomOf t0 ⟨np, 3, 3, 2, false⟩ false (fun o b _ => o + b) .add 0x180) with n := n, reg := reg, a := a, scope := scope }
theorem witness_atomic_scratchpad : let x := atomAt 8 4 (BitVec.ofNat 64 (windowBase + 0xFF8)) 4
    x.n = 8 ∧ m0.answered t0 = none ∧ inScratchpad m0 t0 x.a x.n ∧ m0.isLent 0 (x.a.toNat - windowBase) x.n = false ∧ t0.team < m0.teams.length := by
  unfold inScratchpad; decide +kernel
theorem witness_atomic_cluster : let x := atomAt 4 3 0x20000 3
    reaches m0 t0 x.reg x.a x.n Need.atomic true p2 ∧ m0.claimOf (granOf p2.key) = none ∧
    noOwnStores m0 t0 (lineOf p2.key) ∧ x.scope ≤ 3 ∧ quietLine m0 none (lineOf p2.key) ∧ (m0.team 0).cluster < m0.clusters.length :=
  ⟨reaches_of (by decide +kernel), by decide +kernel, by unfold noOwnStores; decide +kernel, by decide +kernel,
    quiet_of (by decide +kernel), by decide +kernel⟩
theorem witness_atomic_home : let x := atomAt 8 3 0x20000 5
    reaches m0 t0 x.reg x.a x.n Need.atomic true p2 ∧ m0.claimOf (granOf p2.key) = none ∧
    noOwnStores m0 t0 (lineOf p2.key) ∧ (x.scope = 5 ∧ (m0.core (m0.coreNum t0)).out = []) ∧
    quietLine m0given (some (m0.coreNum t0)) (lineOf p2.key) ∧ quietLine m0 (some (m0.coreNum t0)) (lineOf p2.key) ∧ ∀ j, j < 8 → m0.partAt (p2.key + j) = none :=
  ⟨reaches_of (by decide +kernel), by decide +kernel, by unfold noOwnStores; decide +kernel, by decide +kernel,
    quiet_of (by decide +kernel), quiet_of (by decide +kernel), by decide +kernel⟩

/-! ### Witnesses: ordering -/

theorem of_done {r : State.Released} (P : State → Prop) [∀ s, Decidable (P s)]
    (h : (match r with
      | .done s => decide (P s)
      | _ => false) = true) : ∃ s, r = .done s ∧ P s := by
  split at h
  · exact ⟨_, rfl, of_decide_eq_true h⟩
  · cases h
theorem of_wait {r : State.Released} (P : State → Prop) [∀ s, Decidable (P s)]
    (h : (match r with
      | .wait s _ => decide (P s)
      | _ => false) = true) : ∃ s w, r = .wait s w ∧ P s := by
  split at h
  · exact ⟨_, _, rfl, of_decide_eq_true h⟩
  · cases h
theorem witness_rel : alone m0 (.rel ⟨np, 0, 0, 0, false⟩) t0 ∧ scopeName np = 4 ∧ ∃ s1, m0.release t0 4 = .done s1 ∧ (s1.thread t0).present = true :=
  ⟨by unfold alone takesPart; decide +kernel, rfl, of_done _ (by decide +kernel)⟩
theorem witness_fence : alone m0 (.fence ⟨np, 0, 0, 0, false⟩) t0 ∧ (m0.thread t0).present = true ∧ nothingAwaited m0 t0 4 ∧ nothingAwaited m0 t0 5 := by
  unfold alone takesPart nothingAwaited; decide +kernel
theorem witness_fence_done : ∃ s1, m0.release t0 5 = .done s1 ∧ (s1.thread t0).present = true := of_done _ (by decide +kernel)
/-- A write of thread 0 is not acknowledged. -/
def m0pending : State := m0.modCore 0 fun c => { c with unacked := [{ id := 0, line := 0, owners := [t0] }] }
theorem witness_rel_wait : alone m0pending (.rel ⟨np, 0, 0, 0, false⟩) t0 ∧
    ∃ s1 w, m0pending.release t0 4 = .wait s1 w ∧ ((s1.team 0).request = none ∧ (s1.thread t0).present = true) :=
  ⟨by unfold alone takesPart; decide +kernel, of_wait _ (by decide +kernel)⟩
theorem witness_release_lost : ((m0.modTeam 0 fun m => { m with lost := true }).team t0.team).lost = true := by decide +kernel

theorem witness_pref : alone m0 (.pref ⟨np, 0, 3, 0⟩) t0 ∧ m0.prefetchAt t0 3 (m0.addrA t0 ⟨np, 0, 3, 0⟩ 128) = some p2 ∧ p2.tgt ≤ 1 ∧
    m0.lateFault p2 (m0.addrA t0 ⟨np, 0, 3, 0⟩ 128) true = none ∧ m0.holds 0 (granOf p2.key) = false := by
  unfold alone takesPart; decide +kernel
theorem witness_acq : alone m0 (.acq ⟨np, 0, 0, 0, false⟩) t0 := by unfold alone takesPart; decide +kernel
theorem witness_acqr_ask : alone m0 (.acqr ⟨np, 0, 0, 2, false⟩) t0 ∧ (B m0 t0 ⟨np, 0, 0, 2, false⟩).toNat < 1536 ∧
    (m0.thread t0).reply ≠ .done ∧ (m0.team 0).request = none := by
  unfold alone takesPart; decide +kernel
theorem witness_acqr_done : let s := m0.modThread t0 fun x => { x with reply := .done }
    alone s (.acqr ⟨np, 0, 0, 2, false⟩) t0 ∧ (s.thread t0).reply = .done := by
  unfold alone takesPart; decide +kernel
theorem witness_acqrRequest : let s := { (m0.modThread t0 fun x => { x with wait := .acqr 1535 }) with arg := { t0.arg with core := 1535 } }
    s.arg = { t0.arg with core := 1535 } ∧ (s.thread t0).wait = .acqr 1535 ∧ (∀ k ∈ s.clusters, ∀ p ∈ k.privs, p.dirty = false) ∧
    (s.thread t0).present = true := by
  decide +kernel
/-- Cluster 0 has a dirty copy of the line at 0x20000, and thread 0 asks its own core for it. -/
def priv0 : PrivCopy := ⟨lineOf 0x20000, 0x20000, 9, true⟩
def m0dirty : State :=
  { ((m0.modThread t0 fun x => { x with wait := .acqr 0 }).modCluster 0 fun k => { k with privs := [priv0] }) with arg := { t0.arg with core := 0 } }
theorem witness_acqrRequest_dirty : m0dirty.arg = { t0.arg with core := 0 } ∧ (m0dirty.thread t0).wait = .acqr 0 ∧ (m0dirty.thread t0).present = true ∧
    m0dirty.priv? 0 priv0.line = some priv0 ∧ priv0.dirty = true ∧
    (∀ k p, p ∈ (m0dirty.cluster k).privs → p.dirty = true → k = 0 ∧ p = priv0) ∧
    (∃ n ∈ m0dirty.residents 0, (m0dirty.team n).ctx = (m0dirty.team t0.team).ctx) ∧
    (∃ n ∈ (m0dirty.cluster 0).teams, (m0dirty.team n).ctx = (m0dirty.team t0.team).ctx ∧ (m0dirty.team n).core = 0) ∧
    m0dirty.backBlocked 0 priv0 = false ∧ m0dirty.backCopies 0 priv0 = false ∧ ∀ j, j < 128 → m0dirty.partAt (priv0.line * 128 + j) = none := by
  refine ⟨by decide +kernel, by decide +kernel, by decide +kernel, by decide +kernel, rfl, fun k p hp hd => ?_, ⟨0, by decide +kernel⟩,
    ⟨0, by decide +kernel⟩, by decide +kernel, by decide +kernel, by decide +kernel⟩
  cases k with
  | zero => exact ⟨rfl, List.mem_singleton.mp hp⟩
  | succ k => cases hp
theorem of_line {r : State × State.LineAt} (P : State → Prop) [∀ s, Decidable (P s)] (p : Phys)
    (h : (match r with
      | (s, .at_ q) => decide (q = p) && decide (P s)
      | _ => false) = true) : ∃ s, r = (s, .at_ p) ∧ P s := by
  split at h
  · simp only [Bool.and_eq_true, decide_eq_true_eq] at h
    exact ⟨_, by rw [h.1], h.2⟩
  · cases h
theorem witness_cctl : alone m0 (.cctl ⟨np, 0, 3, 3⟩) t0 ∧
    ∃ s1, m0.controlLine t0 3 ⟨true, true, false, .store⟩ = (s1, .at_ p2) ∧ (p2.tgt ≤ 1 ∧ (s1.thread t0).present = true) :=
  ⟨by unfold alone takesPart; decide +kernel, of_line _ _ (by decide +kernel)⟩
theorem witness_cctl_drop : alone m0 (.cctl ⟨np, 0, 3, 1⟩) t0 ∧
    ∃ s1, m0.controlLine t0 3 Need.load = (s1, .at_ p2) ∧ (p2.tgt ≤ 1 ∧ (s1.thread t0).present = true) :=
  ⟨by unfold alone takesPart; decide +kernel, of_line _ _ (by decide +kernel)⟩
theorem witness_cctl_writeBack : alone m0 (.cctl ⟨np, 0, 3, 0⟩) t0 ∧
    ∃ s1, m0.controlLine t0 3 Need.load = (s1, .at_ p2) ∧ (p2.tgt ≤ 1 ∧ (s1.thread t0).present = true ∧
      (s1.writeBackAll (fun cl q => cl = (m0.team 0).cluster && q.line = lineOf p2.key) true).2 = .ok ∧
      ((s1.writeBackAll (fun cl q => cl = (m0.team 0).cluster && q.line = lineOf p2.key) true).1.thread t0).present = true) :=
  ⟨by unfold alone takesPart; decide +kernel, of_line _ _ (by decide +kernel)⟩
theorem witness_cctl_zero : alone m0 (.cctl ⟨np, 0, 4, 2⟩) t0 ∧ inScratchpad m0 t0 ((m0.thread t0).areg 4).val 1 ∧
    0xF80 + 128 ≤ (m0.team 0).scratchSize ∧ m0.isLent 0 0xF80 128 = false := by
  unfold alone takesPart inScratchpad; decide +kernel

theorem of_nowhere {r : State × State.LineAt} (P : State → Prop) [∀ s, Decidable (P s)]
    (h : (match r with
      | (s, .nowhere) => decide (P s)
      | _ => false) = true) : ∃ s, r = (s, .nowhere) ∧ P s := by
  split at h
  · exact ⟨_, rfl, of_decide_eq_true h⟩
  · cases h
theorem witness_cctl_nowhere : alone m0 (.cctl ⟨np, 0, 4, 0⟩) t0 ∧
    ∃ s1, m0.controlLine t0 4 Need.load = (s1, .nowhere) ∧ (s1.thread t0).present = true :=
  ⟨by unfold alone takesPart; decide +kernel, of_nowhere _ (by decide +kernel)⟩
/-- The page at 0x20000 lies in a host window. -/
def m0host : State := m0.modCore 0 fun c => { c with tlb := [⟨1, 0x10000, 0, 0x10079, 0⟩, ⟨1, 0x20000, 0, 0x8000000000020079, 0⟩] }
theorem witness_cctl_far : alone m0host (.cctl ⟨np, 0, 3, 1⟩) t0 ∧
    ∃ s1, m0host.controlLine t0 3 Need.load = (s1, .at_ ⟨2, 0, 0x20000, false⟩) ∧ (s1.thread t0).present = true :=
  ⟨by unfold alone takesPart; decide +kernel, of_line _ _ (by decide +kernel)⟩
theorem witness_cctl_zeroLine : alone m0 (.cctl ⟨np, 0, 3, 2⟩) t0 ∧ p2.tgt = 0 ∧ (m0.thread t0).present = true ∧
    reaches m0 t0 3 ((m0.thread t0).areg 3).val 1 Need.store false p2 ∧ m0.claimOf (granOf p2.key) = none ∧
    quietLine m0 (some (m0.coreNum t0)) (lineOf p2.key) ∧ noOwnStores m0 t0 (lineOf p2.key) ∧
    ∀ j, j < 128 → m0.partAt (lineOf p2.key * 128 + j) = none :=
  ⟨by unfold alone takesPart; decide +kernel, by decide +kernel, by decide +kernel, reaches_of (by decide +kernel), by decide +kernel,
    quiet_of (by decide +kernel), by unfold noOwnStores; decide +kernel, by decide +kernel⟩

/-! ### Witnesses: folds and tasks -/

/-- A state with bytes placed where memory lists nothing. -/
def place (s : State) (a : Nat) (b : List Byte) : State := { s with mem := s.mem.putAll ((bytesAt a b).filter fun c => c.2 != 0) }
/-- A fold descriptor of one range of 256 bytes stands at 0x20000; the team's task has not ended. -/
def f0 : State := place (m0.modTeam 0 fun m => { m with taskEnded := false }) 0x20000 (leBytes 16 1 ++ leBytes 8 0x20100 ++ leBytes 8 256)
/-- The descriptor of slot 7, declared and not touched. -/
def slot7 : FoldSlot := ⟨0x20000, [⟨0x20100, 256⟩], .untouched, []⟩
def f0has : State := f0.modTeam 0 fun m => { m with folds := [(7, slot7)] }
theorem of_pieces {r : MemRes} (Q : State → List Byte → Bool) (h : (match r with
      | .ok s w => Q s w
      | _ => false) = true) : ∃ s w, r = .ok s w ∧ Q s w = true := by
  split at h
  · exact ⟨_, _, rfl, h⟩
  · cases h
/-- What the statement on FOLD asks after the header. -/
def foldReady (s1 : State) (t : Tid) (n : Nat) (h : List Byte) (known : Bool) : Bool :=
  decide (leNat (h.take 1) = n ∧ leNat (h.drop 1) = 0) && match s1.readPieces t 3 16 n with
    | .ok s2 b => (pieces n b).all (fun x => !badRange x) && (foldRanges n b).all (fun r => !FoldRange.scratch r) && (s2.thread t).present &&
      (match assoc (s2.team t.team).folds 7 with
        | some x => known && x.desc == ((s2.thread t).areg 3).val
        | none => !known && match s2.foldGrans (s2.team t.team).core (s2.team t.team).ctx (foldRanges n b) with
          | (s3, .ok gs) => decide ((distinct (sortBy id (distinct gs) ++ (s2.team t.team).folds.flatMap fun x => x.2.grans)).length ≤ 65536) &&
            (s3.thread t).present
          | _ => false)
    | _ => false
theorem witness_fold : alone f0 (.fold ⟨np, 0, 3, 7⟩) t0 ∧ ((f0.thread t0).areg 3).val.extractLsb' 0 4 = 0 ∧ (f0.team 0).taskEnded = false ∧
    ∃ s1 h, f0.readPieces t0 3 0 1 = .ok s1 h ∧ foldReady s1 t0 1 h false = true :=
  ⟨by unfold alone takesPart; decide +kernel, by decide +kernel, by decide +kernel, of_pieces _ (by decide +kernel)⟩
theorem witness_fold_again : alone f0has (.fold ⟨np, 0, 3, 7⟩) t0 ∧ (f0has.team 0).taskEnded = false ∧
    ∃ s1 h, f0has.readPieces t0 3 0 1 = .ok s1 h ∧ foldReady s1 t0 1 h true = true :=
  ⟨by unfold alone takesPart; decide +kernel, by decide +kernel, of_pieces _ (by decide +kernel)⟩
theorem witness_unfold : alone f0has (.unfold ⟨np, 0, 0, 7⟩) t0 ∧ ∀ x, assoc (f0has.team t0.team).folds 7 = some x → x.st = .untouched := by
  have h : assoc (f0has.team t0.team).folds 7 = some slot7 := by decide +kernel
  refine ⟨by unfold alone takesPart; decide +kernel, fun x hx => ?_⟩
  rw [h] at hx; cases hx; rfl
theorem witness_unfold_held : let s := handler (f0.modTeam 0 fun m => { m with folds := [(7, { slot7 with st := .held })] })
    alone s (.unfold ⟨np, 0, 0, 7⟩) t0 ∧ handled s t0 ∧ assoc (s.team t0.team).folds 7 = some { slot7 with st := .held } ∧
    ({ slot7 with st := .held } : FoldSlot).st ≠ .untouched := by
  unfold alone takesPart handled; decide +kernel

theorem witness_taskend_ended : let s := m0.modTeam 0 fun m => { m with taskEnded := true }
    alone s (.taskend ⟨np, 0, 0, 0, false⟩) t0 ∧ (s.team t0.team).taskEnded = true := by
  unfold alone takesPart; decide +kernel
/-- Thread 1 is present and has not arrived. -/
def f0two : State := f0.modThread t1 fun _ => f0.thread t0
theorem witness_taskend_waits : alone f0two (.taskend ⟨np, 0, 0, 0, false⟩) t0 ∧ (f0two.team t0.team).taskEnded = false ∧
    ∃ s1, f0two.release t0 6 = .done s1 ∧ ((s1.thread t0).present = true ∧ s1.othersArrived t0 = false ∧ (s1.team t0.team).request = none) :=
  ⟨by unfold alone takesPart; decide +kernel, by decide +kernel, of_done _ (by decide +kernel)⟩
theorem of_ended {r : State × State.Ended} (Q : State → Bool) (h : (match r with
      | (s, .ok) => Q s
      | _ => false) = true) : ∃ s, r = (s, .ok) ∧ Q s = true := by
  split at h
  · exact ⟨_, rfl, h⟩
  · cases h
/-- The last arrival ends the task here. -/
def endsHere (s : State) : Bool := match s.endTask 0 with
  | (u, .ok) => (u.team 0).taskEnded && (u.thread t0).present
  | _ => false
theorem witness_taskend_commits : alone f0 (.taskend ⟨np, 0, 0, 0, false⟩) t0 ∧ (f0.team t0.team).taskEnded = false ∧
    ∃ s1, f0.release t0 6 = .done s1 ∧ ((s1.thread t0).present = true ∧ s1.othersArrived t0 = true ∧ endsHere s1 = true) :=
  ⟨by unfold alone takesPart; decide +kernel, by decide +kernel, of_done _ (by decide +kernel)⟩
theorem witness_endTask : 0 < f0.teams.length ∧ (∀ g ∈ f0.heldGrans 0, remoteGran g = false) ∧
    ∃ s2, f0.endTask 0 = (s2, .ok) ∧ (s2.team 0).taskEnded = true :=
  ⟨by decide +kernel, by decide +kernel, of_ended (fun u => (u.team 0).taskEnded) (by decide +kernel)⟩
/-- Team 0 has written byte 127 of the line at 0x20000. -/
def f0shadow : State := { f0 with home := { f0.home with shadows := [⟨0, lineOf 0x20000, 0, 1 <<< 127, false, 0⟩] } }
theorem witness_applyShadows : (∀ x ∈ f0shadow.home.shadows, x.team = 0 → keyTgt (x.line * 128) ≤ 1) ∧
    (∀ x ∈ f0shadow.home.shadows, ∀ y ∈ f0shadow.home.shadows, x.team = 0 → y.team = 0 → x.line = y.line → x = y) ∧
    ∀ x ∈ f0shadow.home.shadows, x.team = 0 → ∀ j, j < 128 → f0shadow.partAt (x.line * 128 + j) = none := by
  decide +kernel
/-- A graph of one node with records of 16 bytes and batches of up to `coal`; v2 names the node. -/
def f0graph (ended : Bool) (coal : Nat) : State :=
  let s := (handler f0).modTeam 0 fun m => { m with taskEnded := ended }
  let s := s.modCtx 1 fun k => { k with graph := some ⟨0, 0, [⟨BitVec.ofNat 1024 (16 * 2 ^ 160 + coal * 2 ^ 176), 0, 0, [], 0, none, false⟩], []⟩ }
  regs s 5 0 0
theorem witness_emit_held : alone (f0graph false 1) (.emit ⟨np, 0, 3, 2, false⟩) t0 ∧
    (∃ k, (f0graph false 1).node? ((f0graph false 1).team 0).ctx (B (f0graph false 1) t0 ⟨np, 0, 3, 2, false⟩).toNat = some k ∧
      State.nodeRsize k.desc / 16 = 1 ∧ State.binRoom k = true) ∧ ((f0graph false 1).team 0).emits.length < 1024 ∧
    ∃ s1 b, (f0graph false 1).readPieces t0 3 0 1 = .ok s1 b ∧ (s1.thread t0).present = true :=
  ⟨by unfold alone takesPart; decide +kernel, ⟨_, rfl, by decide +kernel⟩, by decide +kernel, of_load _ (by decide +kernel)⟩
theorem witness_emit_enters : alone (f0graph true 1) (.emit ⟨np, 0, 3, 2, false⟩) t0 ∧ ((f0graph true 1).team 0).taskEnded = true := by
  unfold alone takesPart; decide +kernel
theorem witness_emit_full : alone (f0graph true 0) (.emit ⟨np, 0, 3, 2, false⟩) t0 ∧
    (∃ k, (f0graph true 0).node? ((f0graph true 0).team 0).ctx (B (f0graph true 0) t0 ⟨np, 0, 3, 2, false⟩).toNat = some k ∧
      State.nodeRsize k.desc / 16 = 1 ∧ State.binRoom k = false) ∧
    ∃ s1 b, (f0graph true 0).readPieces t0 3 0 1 = .ok s1 b ∧ ((s1.thread t0).sys = false ∧ (s1.ctxOf t0).hbase ≠ 0) :=
  ⟨by unfold alone takesPart; decide +kernel, ⟨_, rfl, by decide +kernel⟩, of_load _ (by decide +kernel)⟩

/-! ### Witnesses: barriers and gates -/

theorem witness_bara : alone m0 (.bara ⟨np, 0, 0, 15⟩) t0 ∧
    ∃ s1, m0.release t0 2 = .done s1 ∧ ((s1.thread t0).present = true ∧ (s1.team 0).barriers[15]? = some ⟨false, 0, 8, 0⟩) :=
  ⟨by unfold alone takesPart; decide +kernel, of_done _ (by decide +kernel)⟩
theorem witness_barw_waits : alone m0 (.barw ⟨np, 0, 0, 0⟩) t0 ∧ (∀ n ph, (m0.thread t0).wait ≠ .barrier n ph) ∧
    ∃ s1, m0.release t0 2 = .done s1 ∧ ((s1.thread t0).present = true ∧ (s1.team 0).barriers[0]? = some ⟨false, 0, 8, 0⟩ ∧ (s1.team 0).request = none) := by
  have h : (m0.thread t0).wait = .none := by decide +kernel
  refine ⟨by unfold alone takesPart; decide +kernel, fun n ph => ?_, of_done _ (by decide +kernel)⟩
  rw [h]; exact nofun
/-- Barrier 0 expects one more arrival. -/
def m0last : State := m0.modTeam 0 fun m => { m with barriers := [⟨false, 0, 8, 7⟩] }
theorem witness_barw_last : (m0last.team 0).barriers[0]? = some ⟨false, 0, 8, 7⟩ ∧ (7#12 + 1 = 8) := by decide +kernel
/-- Thread 0 has waited for a phase that is complete. -/
def m0over : State := (m0.modThread t0 fun x => { x with wait := .barrier 0 1 })
theorem witness_barw_over : alone m0over (.barw ⟨np, 0, 0, 0⟩) t0 ∧ (m0over.thread t0).wait = .barrier 0 1 ∧
    (m0over.team 0).barriers[0]? = some ⟨false, 0, 8, 0⟩ ∧ (0 ≠ 1) := by
  unfold alone takesPart; decide +kernel
/-- s2 holds 2048. -/
def m2count : State := m2.modGroup 0 0 fun g => { g with s := [(2, 2048)] }
theorem witness_bars : together m2count (.bars ⟨np, 0, 2, 15⟩) 0 0 [t0, t1] ∧ (m2count.team 0).barriers[15]? = some ⟨false, 0, 8, 0⟩ ∧
    1 ≤ ((m2count.group 0 0).sreg 2).toNat ∧ ((m2count.group 0 0).sreg 2).toNat ≤ 2048 := by
  unfold together takesPart; decide +kernel

/-- The gate at the scratchpad's last 16 bytes is named by v1; v2 holds 1, or 0. -/
def g0 (b : Word) : State := handler (regs m0 0xFF0 b 0)
theorem witness_gateUpdate : (2 ^ 44 - 1 < 2 ^ 44) ∧ (2 ^ 32 - 1 < 2 ^ 32) ∧ gateAarr 0 + 1 < 2 ^ 19 := by decide
theorem witness_ginit : alone (g0 1) (.ginit ⟨np, 0, 1, 2, false⟩) t0 ∧ gateValid (g0 1) t0 ⟨np, 0, 1, 2, false⟩ ∧
    (g0 1).isLent 0 (gateAt (g0 1) t0 ⟨np, 0, 1, 2, false⟩) 16 = false ∧ 1 ≤ (B (g0 1) t0 ⟨np, 0, 1, 2, false⟩).toNat ∧
    (B (g0 1) t0 ⟨np, 0, 1, 2, false⟩).toNat < 2 ^ 19 := by
  unfold alone takesPart gateValid; decide +kernel
theorem witness_gexp : alone (g0 1) (.gexp ⟨np, 0, 1, 2, false⟩) t0 := by unfold alone takesPart; decide +kernel
theorem witness_garr : alone (g0 1) (.garr ⟨np, 0, 1, 2, false⟩) t0 ∧ ∃ s1, (g0 1).release t0 2 = .done s1 ∧
    ((s1.thread t0).present = true ∧ s1.thread t0 = (g0 1).thread t0 ∧ s1.groupOf t0 = (g0 1).groupOf t0) :=
  ⟨by unfold alone takesPart; decide +kernel, of_done _ (by decide +kernel)⟩
theorem witness_gwait_over : alone (g0 1) (.gwait ⟨np, 0, 1, 2, false⟩) t0 ∧ alone (g0 1) (.gtest ⟨np, 4, 1, 2, false⟩) t0 ∧
    gatePhase ((g0 1).gateWord 0 0xFF0) ≠ (B (g0 1) t0 ⟨np, 0, 1, 2, false⟩).getLsbD 0 := by
  unfold alone takesPart; decide +kernel
theorem witness_gwait_waits : alone (g0 0) (.gwait ⟨np, 0, 1, 2, false⟩) t0 ∧ alone (g0 0) (.gtest ⟨np, 4, 1, 2, false⟩) t0 ∧
    gatePhase ((g0 0).gateWord 0 0xFF0) = (B (g0 0) t0 ⟨np, 0, 1, 2, false⟩).getLsbD 0 ∧ gateBrk ((g0 0).gateWord 0 0xFF0) = false ∧
    ((g0 0).team 0).request = none := by
  unfold alone takesPart; decide +kernel
/-- The gate is broken. -/
def g0broken : State := (g0 0).modTeam 0 fun m => { m with scratch := m.scratch.put 0xFFF 0x40 }
theorem witness_gate_broken : alone g0broken (.gwait ⟨np, 0, 1, 2, false⟩) t0 ∧ handled g0broken t0 ∧
    gatePhase (g0broken.gateWord 0 0xFF0) = false ∧ gateBrk (g0broken.gateWord 0 0xFF0) = true := by
  unfold alone takesPart handled; decide +kernel

/-! ### Witnesses: copies, reservations, jobs -/

/-- A copy of `n` bytes from 0x20200 to 0x20300 stands at 0x20000. -/
def c0 (n : Nat) : State :=
  regs (place m0 0x20000 (leBytes 8 0x20200 ++ leBytes 8 0x20300 ++ leBytes 8 0 ++ leBytes 8 (1 + 1 * 16) ++
    leBytes 8 n ++ leBytes 8 1 ++ leBytes 8 1)) 5 0xFF0 0
/-- What the statement on copies asks after the header. -/
def copyReady (s1 : State) (t : Tid) (hb : List Byte) (n : Nat) : Bool :=
  let h : BitVec 256 := BitVec.ofNat 256 (leNat hb)
  !badHead h && match s1.readDimBytes t 3 (headNdim h) with
    | .ok s2 db => let dims := readDims (headNdim h) db
      (s2.thread t).present && dims.all (fun d => d.extractLsb' 32 32 == 0) && !badConvert .plain h dims && !overlaps h dims &&
      decide (elements dims = n) && match s2.release t 2 with
        | .done s3 => (s3.thread t).present && decide (t.team < s3.teams.length)
        | _ => false
    | _ => false
theorem witness_copy (n : Nat) (hn : n = 0 ∨ n = 1) : copies (.cpy ⟨np, 0, 3, 2, false⟩) = some (⟨np, 0, 3, 2, false⟩, .plain) ∧
    alone (c0 n) (.cpy ⟨np, 0, 3, 2, false⟩) t0 ∧ ((c0 n).thread t0 |>.areg 3).val.extractLsb' 0 4 = 0 ∧
    (c0 n).badGate 0 (B (c0 n) t0 ⟨np, 0, 3, 2, false⟩) = none ∧ ((c0 n).core ((c0 n).coreNum t0)).copyQ.length < 32 ∧
    ∃ s1 hb, (c0 n).readPieces t0 3 0 2 = .ok s1 hb ∧ copyReady s1 t0 hb n = true := by
  rcases hn with rfl | rfl <;>
  exact ⟨rfl, by unfold alone takesPart; decide +kernel, by decide +kernel, by decide +kernel, by decide +kernel, of_pieces _ (by decide +kernel)⟩

/-- A role-C record of one tile. -/
def recordC : Nat := 0x10000 * 2 ^ 96 + 16384 * 2 ^ 128 + 2 * 2 ^ 148 + 0 * 2 ^ 150 + 2 * 2 ^ 155 + 1 * 2 ^ 176 + 2 * 2 ^ 179
def r0 : State := place m0 0x20000 (leBytes 32 recordC)
def recordReady (s1 : State) (t : Tid) (b : List Byte) : Bool :=
  let r : BitVec 256 := BitVec.ofNat 256 (leNat b)
  (s1.thread t).present && !State.badRecord r && decide (State.recordBeyond (s1.team t.team).scratchSize r = none) && !s1.badTrough (s1.coreNum t) r
theorem witness_tres : alone r0 (.tres ⟨np, 0, 3, 15⟩) t0 ∧ r0.slotNamed 0 15 = false ∧ ((r0.thread t0).areg 3).val.extractLsb' 0 5 = 0 ∧
    ∃ s1 b, (r0.freeSlot 0 15).readPieces t0 3 0 2 = .ok s1 b ∧ recordReady s1 t0 b = true :=
  ⟨by unfold alone takesPart; decide +kernel, by decide +kernel, by decide +kernel, of_pieces _ (by decide +kernel)⟩
/-- Slots 0 to 2 hold records of roles A, B and C. -/
def recordAB (role : Nat) : BitVec 256 := BitVec.ofNat 256 (32 * 2 ^ 32 + role * 0x8000 * 2 ^ 96 + 0x8000 * 2 ^ 128 + role * 2 ^ 148 + 1 * 2 ^ 150 + 8 * 2 ^ 155 + 1 * 2 ^ 176 + role * 2 ^ 179)
def slots0 : List (Nat × Slot) := [(0, ⟨recordAB 0, 0, false, false, []⟩), (1, ⟨recordAB 1, 0, false, false, []⟩), (2, ⟨BitVec.ofNat 256 recordC, 0, false, false, []⟩)]
def j0 : State := handler (m0.modTeam 0 fun m => { m with slots := slots0 })
theorem witness_trel : alone j0 (.trel ⟨np, 0, 0, 2⟩) t0 ∧ j0.slotNamed 0 2 = false := by unfold alone takesPart; decide +kernel
theorem witness_tqset : alone j0 (.tqset ⟨np, 0, 2, 2⟩) t0 ∧ ∃ x, j0.slot? 0 2 = some x :=
  ⟨by unfold alone takesPart; decide +kernel, _, rfl⟩
theorem witness_jdecl : let s := regs m0 5 2048 0
    alone s (.jdecl ⟨np, 7, 3, 2, false⟩) t0 ∧ ((s.thread t0).areg 3).sh.v = false ∧
    ((s.thread t0).areg 3).val.extractLsb' 0 7 = 0 ∧ 1 ≤ (B s t0 ⟨np, 7, 3, 2, false⟩).toNat ∧ (B s t0 ⟨np, 7, 3, 2, false⟩).toNat ≤ 2048 ∧
    7 < (s.team 0).jregs.length ∧ (s.jreg 0 7).st = .free := by
  unfold alone takesPart; decide +kernel
/-- The card of a job of one step, at 0x20000; register 7 is bound to it with `n` signers. -/
def card0 : Nat := fields [(0, 64), (32, 64), (64, 32), (96, 0), (100, 1), (104, 2), (108, 1), (160, 0xFFFFFFFF), (192, 1)]
def j0bound (n : BitVec 12) : State :=
  place (j0.modTeam 0 fun m => { m with jregs := List.replicate 7 JReg.free ++ [⟨0x20000, n, 0, .bound⟩] }) 0x20000 (leBytes 128 card0)
theorem witness_sign : alone (j0bound 2) (.sign ⟨np, 0, 0, 7⟩) t0 ∧ ((j0bound 2).jreg 0 7).st = .bound ∧
    ∃ s1, (j0bound 2).release t0 2 = .done s1 ∧ (7 < (s1.team 0).jregs.length ∧ (s1.thread t0).present = true ∧ s1.jreg 0 7 = (j0bound 2).jreg 0 7) :=
  ⟨by unfold alone takesPart; decide +kernel, by decide +kernel, of_done _ (by decide +kernel)⟩
def jobReady (s1 : State) : Bool := match s1.readPlain t0 0x20000 8 with
  | .ok s2 b => (s2.jobOf 0 7 (BitVec.ofNat 1024 (leNat b))).isSome && (s2.thread t0).present && decide (7 < (s2.team 0).jregs.length)
  | _ => false
theorem witness_sign_last : alone (j0bound 1) (.sign ⟨np, 0, 0, 7⟩) t0 ∧ ((j0bound 1).core ((j0bound 1).coreNum t0)).jobs.length < 8 ∧
    ∃ s1, (j0bound 1).release t0 2 = .done s1 ∧ jobReady s1 = true :=
  ⟨by unfold alone takesPart; decide +kernel, by decide +kernel, of_done _ (by decide +kernel)⟩
theorem witness_jwait : alone (j0bound 1) (.jwait ⟨np, 0, 0, 7⟩) t0 ∧ ((j0bound 1).jreg 0 7).st = .bound ∧ ((j0bound 1).team 0).request = none ∧
    alone (j0bound 1) (.jwait ⟨np, 0, 0, 0⟩) t0 ∧ ((j0bound 1).jreg 0 0).st = .free := by
  unfold alone takesPart; decide +kernel
/-- v1 names the last element of slot 2, or the first beyond it. -/
theorem witness_accumulators : let s := regs j0 4095 3 0
    s.slot? 0 2 = some ⟨BitVec.ofNat 256 recordC, 0, false, false, []⟩ ∧ recRole (BitVec.ofNat 256 recordC) = 2 ∧
    (∀ j ∈ (s.core (s.coreNum t0)).jobs, j.team = 0 → cardC j.card ≠ 2) ∧ ((s.thread t0).vreg 1).toNat < recTlen (BitVec.ofNat 256 recordC) / 4 ∧
    alone s (.accrd ⟨np, 4, 1, 2⟩) t0 ∧ alone s (.accwr ⟨np, 3, 1, 2⟩) t0 ∧ alone s (.accz ⟨np, 0, 0, 2⟩) t0 := by
  unfold alone takesPart; decide +kernel
theorem witness_trough_range : let s := regs j0 4096 3 0
    recTlen (BitVec.ofNat 256 recordC) / 4 ≤ ((s.thread t0).vreg 1).toNat ∧ alone s (.accrd ⟨np, 4, 1, 2⟩) t0 ∧ alone s (.accwr ⟨np, 3, 1, 2⟩) t0 ∧ handled s t0 := by
  unfold alone takesPart handled; decide +kernel

/-! ### Witnesses: results, homes, wounds -/

/-- A result of thread 0 for v5 is under way, due at cycle 6 or when its delay is over. -/
def pendOf (due : Option Nat) : Pend := { dst := .v 0 5 9, due := due, id := 3, own := [0], landed := false }
def e0 (due : Option Nat) : State :=
  { (w0.modGroup 0 0 fun g => { g with pend := [pendOf due] }) with arg := { team := 0, grp := 0, len := 6, id := 3 } }
theorem witness_fixedResult : (e0 (some 6)).arg.team = 0 ∧ (e0 (some 6)).arg.grp = 0 ∧ (e0 (some 6)).arg.len = 6 ∧
    ((e0 (some 6)).group 0 0).pend = [pendOf (some 6)] ∧ (pendOf (some 6)).due = some 6 ∧ (pendOf (some 6)).landed = false ∧
    0 < (e0 (some 6)).teams.length ∧ 0 < ((e0 (some 6)).team 0).groups.length := by
  decide +kernel
theorem witness_variableResult : (e0 none).arg.id = 3 ∧ ((e0 none).group 0 0).pend = [pendOf none] ∧ (pendOf none).due = none ∧
    (pendOf none).id = 3 ∧ 0 < (e0 none).teams.length ∧ 0 < ((e0 none).team 0).groups.length := by
  decide +kernel
/-- The result of token 1 for v5 is in the queue. -/
def sf0 : State := { (w0.modCore 0 fun k => { k with sfq := [⟨3, 0, t0, 1, 5, 9⟩] }) with arg := { core := 0, id := 3 } }
theorem witness_sfResult : (sf0.core sf0.arg.core).sfq = [⟨3, 0, t0, 1, 5, 9⟩] ∧ sf0.arg.id = 3 ∧ (sf0.thread t0).present = true := by
  decide +kernel
/-- Byte 127 of the line at 0x20000 has stood in the buffer for 64 cycles; the team's cluster has a copy of the line, or
has none. -/
def sbEntry : SbEntry := ⟨lineOf 0x20000, 0, false, false, [⟨127, 9, t0, none⟩]⟩
def b0 (near : Bool) : State :=
  { (m0.modCore 0 fun k => { k with sb := [sbEntry] }).modCluster 0 fun k => { k with privs := if near then [⟨lineOf 0x20000, 0x20000, 0, false⟩] else [] } with
    cycle := 64, arg := { core := 0, addr := lineOf 0x20000 } }
theorem witness_drain (near : Bool) : (b0 near).arg.core = 0 ∧ (b0 near).arg.addr = sbEntry.line ∧ ((b0 near).core 0).sb = [sbEntry] ∧
    sbEntry.bytes ≠ [] ∧ sbEntry.since + 64 ≤ (b0 near).cycle ∧ keyTgt (sbEntry.line * 128) ≤ 1 ∧
    (∀ b ∈ sbEntry.bytes, b.off < 128 ∧ b.cow = none) ∧ (b0 near).claimOf (granOf (sbEntry.line * 128)) = none ∧
    quietLine (b0 near) (some 0) sbEntry.line ∧ (∀ j, j < 128 → (b0 near).partAt (sbEntry.line * 128 + j) = none) ∧
    ∀ b ∈ sbEntry.bytes, ((b0 near).priv? ((b0 near).team b.by_.team).cluster sbEntry.line).isSome = near := by
  cases near <;> and_intros <;> decide +kernel
theorem witness_homeRetry : let s := { (m0.modThread t0 fun x => { x with wait := .refused 0x400 }) with arg := { t0.arg with addr := 0x400, ok := false } }
    s.arg.nums = [] ∧ s.arg.ok = false ∧ (s.thread s.arg.tid).wait = .refused s.arg.addr ∧ (s.thread s.arg.tid).present = true := by
  decide +kernel
def wcEntry : WcEntry := ⟨lineOf 0x20000, 0x20000, 0, [⟨0, 9, t0, none⟩], [t0]⟩
theorem witness_wcDrain : let s := { (m0.modCore 0 fun k => { k with wc := [wcEntry] }) with cycle := 6000, arg := { core := 0, addr := lineOf 0x20000 } }
    s.arg.core = 0 ∧ s.arg.addr = wcEntry.line ∧ (s.core 0).wc = [wcEntry] ∧ wcEntry.since + 6000 ≤ s.cycle ∧
    (s.core 0).out.length < 256 ∧ ∀ x ∈ (s.core 0).out, x.line ≠ wcEntry.line := by
  decide +kernel
/-- A delivered line is on its way to core 0, or to core 1, which holds no team of the context. -/
def flightTo (c : Nat) : Flight := { id := 3, core := c, ctx := 1, line := lineOf 0x20000, data := 0, t := t0, since := 0, stale := false }
def fl0 (c : Nat) : State := { m0 with home := { m0.home with flights := [flightTo c] }, arg := { id := 3 } }
theorem witness_givenFill : (fl0 0).home.flights = [flightTo 0] ∧ (flightTo 0).id = (fl0 0).arg.id ∧ (fl0 0).refusesGiven 0 1 = false ∧
    (fl0 1).home.flights = [flightTo 1] ∧ (fl0 1).refusesGiven 1 1 = true ∧ (flightTo 1).t.team < (fl0 1).teams.length := by
  decide +kernel
def region0 : Region := ⟨m0.homeSlice 0x20000, 0x20000, 128, [0], [], 0⟩
def d0 : State := { m0 with home := { m0.home with dir := [region0] }, arg := { core := 0, addr := lineOf 0x20000 } }
theorem witness_invalidation : ∀ x ∈ d0.home.txns, x.id ≠ d0.arg.id := by decide +kernel
/-- A write of the line waits for core 0. -/
def txn0 : HomeTxn := ⟨5, lineOf 0x20000, .engine 1 2, [0], false⟩
def d0waits : State := { d0 with home := { d0.home with txns := [txn0] }, arg := { d0.arg with id := 5 } }
theorem witness_invalidation_awaited : d0waits.arg.core = 0 ∧ d0waits.home.txns = [txn0] ∧ txn0.id = d0waits.arg.id ∧ txn0.waits = [0] ∧
    ∀ k, txn0.who ≠ .buffer k :=
  ⟨by decide +kernel, by decide +kernel, by decide +kernel, by decide +kernel, nofun⟩
theorem witness_dropNotice : d0.region? (d0.arg.addr * 128) = some region0 ∧ (∀ x ∈ (d0.core d0.arg.core).l1, x.given = false) ∧ d0.home.flights = [] := by
  decide +kernel
theorem witness_regionMerge : let x : Region := ⟨5, 0x20000, 32768, [0], [], 0⟩
    let y : Region := ⟨5, 0x28000, 32768, [1], [], 0⟩
    let s := { m0 with home := { m0.home with dir := [x, y] }, arg := { id := 5, len := 32768, addr := 0x28000 }, cycle := 2 ^ 20 }
    s.arg.len = 32768 ∧ 0 < 32768 ∧ 32768 < 65536 ∧ 0x20000 % (2 * 32768) = 0 ∧ (s.arg.addr = 0x20000 ∨ s.arg.addr = 0x20000 + 32768) ∧
    s.home.dir = [x, y] ∧ x.slice = s.arg.id ∧ y.slice = s.arg.id ∧ x.addr = 0x20000 ∧ y.addr = 0x20000 + 32768 ∧
    x.quiet + 2 ^ 20 ≤ s.cycle ∧ y.quiet + 2 ^ 20 ≤ s.cycle := by
  decide +kernel

theorem witness_wound : f0.arg.team = 0 ∧ 0 < f0.teams.length ∧ f0.woundable 0 = true ∧ (f0.team 0).status = .resident ∧ f0.allStopped 0 = false := by
  decide +kernel

/-! ### Witnesses: requests and commands -/

theorem witness_permitBackoff : let s := { (w0.modThread t0 fun x => { x with wait := .backoff 256 }) with arg := { t0.arg with len := 256 } }
    s.arg = { t0.arg with len := 256 } ∧ (s.thread t0).present = true ∧ (s.thread t0).wait = .backoff 256 := by
  decide +kernel
def req0 : Request := ⟨.translation, 0x30000, .load, 0, 0⟩
theorem witness_pageArrival : let s := { (w0.modThread t0 fun x => { x with wait := .request req0 }) with arg := { t0.arg with core := 0 } }
    s.arg = { t0.arg with core := 0 } ∧ (s.thread t0).wait = .request req0 := by
  decide +kernel
theorem witness_pageServed : let a : PrqArrival := ⟨1, req0, some t0, (0, 0)⟩
    let s := { ((w0.modThread t0 fun x => { x with wait := .request req0 }).modCore 0 fun k => { k with permits := 3 }) with
      prqIn := [a], arg := { ok := true } }
    s.arg.ok = true ∧ s.prqIn = [a] ∧ a.thr = some t0 ∧ (s.thread t0).present = true ∧ (s.thread t0).wait = .request a.req ∧
    s.prq = [] ∧ (s.core a.eng.1).permits < 4 := by
  decide +kernel
/-- A copy of the first engine of core 1 has met a page fault. -/
def copy9 : Copy := { kind := .plain, t := t0, head := 0, dims := [], gate := 0, fpcr := 0, rm := 0, pos := 0, index := none, got := [], ask := none, bad := none, outs := [], walked := false, fault := none, tag := none }
theorem witness_engineServed : let a : PrqArrival := ⟨1, req0, none, (1, 0)⟩
    let s := { (w0.modCore 1 fun k => { k with eng0 := some copy9 }) with prqIn := [a], arg := { ok := true } }
    s.arg.ok = true ∧ s.prqIn = [a] ∧ a.thr = none ∧ a.eng.2 < 2 ∧ s.prq = [] ∧ s.engine a.eng.1 a.eng.2 = some copy9 := by
  decide +kernel
/-- Thread 0 waits behind entry 511 of the page-request queue. -/
def q0 : State :=
  { handler (w0.modThread t0 fun x => { x with wait := .queued 511 req0 }) with
    prq := [⟨511, 1, 0, false, req0, [t0], []⟩], arg := { ctx := 1, arg := 511 } }
theorem witness_requestDone : (q0.ctx q0.arg.ctx).en = true ∧ q0.prq = [⟨511, 1, 0, false, req0, [t0], []⟩] ∧ (1 = q0.arg.ctx) ∧
    511 = (q0.arg.arg.extractLsb' 0 9).toNat ∧ req0.cause = .translation ∧ (q0.thread t0).wait = .queued 511 req0 ∧
    (q0.thread t0).present = true ∧ handled q0 t0 := by
  unfold handled; decide +kernel
theorem witness_commandErrors : (w0.ctx { w0 with arg := { ctx := 2 } }.arg.ctx).en = false ∧ w0.prq = [] := by decide +kernel

/-- A record that can be enabled, for context 2, under partition 0, with a ring of 16 entries. -/
def k0 (en : Bool) (reserved : Nat) : State :=
  place (place { (w0.modCtx 2 fun k => { k with en := en }) with mgmt := { w0.mgmt with ctxTable := 0x100000 }, arg := { ctx := 2 } }
    10 [0x10]) (0x100000 + 512) (leBytes 256 (16 * 2 ^ 352 + reserved * 2 ^ 3))
theorem witness_enable : ((k0 false 0).ctx (k0 false 0).arg.ctx).en = false ∧
    (k0 false 0).contextOk 2 ((k0 false 0).contextRecord 2) = true := by
  decide +kernel
theorem witness_enable_refused : (k0 false 1).contextOk 2 ((k0 false 1).contextRecord 2) = false ∧ ((k0 true 0).ctx 2).en = true := by decide +kernel
/-- Context 1 is the subject of a command; its team is halted. -/
def h0 : State := { (w0.modTeam 0 fun m => { m with halted := true }) with arg := { ctx := 1, len := 2 } }
theorem witness_commands : (h0.ctx h0.arg.ctx).en = true ∧ 2 ≤ h0.arg.len ∧ h0.oldAccesses 1 h0.arg.id = false ∧ h0.oldCommits 1 h0.arg.addr = false ∧ h0.haltedTeam = some 0 ∧
    0 < h0.teams.length ∧ { h0.arg with len := 0 }.len = 0 := by
  decide +kernel
/-- Context 3 is enabled and nothing of it is under way. -/
def h3 : State := { (w0.modCtx 3 fun k => { k with en := true }) with arg := { ctx := 3 } }
theorem witness_disabled : (h3.ctx h3.arg.ctx).en = true ∧ nothingOf h3 3 := by
  have hc : ∀ k ∈ h3.cores, k.2.sb = [] ∧ k.2.wc = [] ∧ k.2.unacked = [] ∧ k.2.out = [] ∧ k.2.eng0 = none ∧ k.2.eng1 = none := by
    decide +kernel
  refine ⟨by decide +kernel, by decide +kernel, fun k hk => ?_, by decide +kernel⟩
  obtain ⟨a, b, c, d, e, f⟩ := hc k hk
  rw [a, b, c, d, e, f]
  and_intros <;> intro x h <;> cases h <;> rename_i h <;> cases h
theorem witness_watchdog : let s := { (w0.modCtx 1 fun k => { k with wdlim := 1, wdCount := 1000 }) with arg := { ctx := 1 } }
    (s.ctx s.arg.ctx).en = true ∧ (s.ctx s.arg.ctx).wdlim ≠ 0 ∧ (s.ctx s.arg.ctx).wdlim.toNat * 1000 ≤ (s.ctx s.arg.ctx).wdCount ∧
    (s.team 0).ctx = 1 ∧ (s.team 0).status = .resident ∧ t0 ∈ s.tids 0 := by
  decide +kernel

/-! ### Witnesses: engines and jobs -/

/-- A copy of one byte from 0x20200 to an address, with a gate. -/
def copyTo (dst : Nat) (gate : Word) : Copy :=
  { kind := .plain, t := t0, head := BitVec.ofNat 256 (0x20200 + dst * 2 ^ 64 + 17 * 2 ^ 192), dims := [BitVec.ofNat 192 (1 + 2 ^ 64 + 2 ^ 128)]
    gate := gate, fpcr := 1, rm := 0, pos := 0, index := none, got := [], ask := none, bad := none, outs := [], walked := false
    fault := none, tag := none }
/-- The copy has been walked. -/
def walkedCopy (gate : Word) (fault : Option (Request × Bool)) : Copy := { copyTo 0x20300 gate with pos := 1, walked := true, fault := fault }
def eng (k : Copy) : State := { (m0.modCore 0 fun x => { x with eng0 := some k }) with arg := { core := 0, id := 0 } }
theorem witness_copyStart : let s := { (m0.modCore 0 fun x => { x with copyQ := [copyTo 0x20300 0xFF0] }) with arg := { core := 0 } }
    s.arg.core = 0 ∧ (s.core 0).copyQ = [copyTo 0x20300 0xFF0] ∧ (s.core 0).eng0 = none := by decide +kernel
theorem of_engine {r : EngRes} (Q : State → List Byte → Bool) (h : (match r with
      | .ok s w => Q s w
      | _ => false) = true) : ∃ s w, r = .ok s w ∧ Q s w = true := by
  split at h
  · exact ⟨_, _, rfl, h⟩
  · cases h
/-- The place that the engine writes is in memory and in no partition entry, or in the scratchpad. -/
def placeReady (k : Copy) (dst : Nat) (s1 : State) : Bool := match s1.enginePlace 0 0 k dst 1 Need.engineWrite with
  | .at_ _ (.scratch _) => true
  | .at_ s2 (.mem p _) => decide (p.tgt ≤ 1) && (List.range 1).all fun j => s2.partAt (p.key + j) == none
  | _ => false
theorem witness_copyStep (dst : Nat) (h : dst = 0x20300 ∨ dst = windowBase + 0xFFF) : let k := copyTo dst 0xFF0
    (eng k).engine 0 0 = some k ∧ (eng k).engineArrived 0 0 = false ∧ k.tag = none ∧ k.ask = none ∧ k.walked = false ∧ k.kind = .plain ∧ badHead k.head = false ∧
    headCvt k.head = false ∧ k.pos + 1 = elements k.dims ∧
    wrap64 (elementAt (headSrc k.head) dimSrc k.dims (counters k.pos k.dims) none) = 0x20200 ∧
    wrap64 (elementAt (headDst k.head) dimDst k.dims (counters k.pos k.dims) none) = dst ∧ headEsize k.head = 1 ∧ dst % 128 + 1 ≤ 128 ∧
    ∃ s1 b, (eng k).engineRead 0 0 (linePieces 0x20200 1) = .ok s1 b ∧ placeReady k dst s1 = true := by
  rcases h with rfl | rfl <;>
  and_intros <;> first | decide +kernel | exact of_engine _ (by decide +kernel)
theorem witness_engineRead_scratch : placeOf (windowBase + 0xFF0) = .scratch ∧ windowBase + 0xFF0 - windowBase + 16 ≤ 0x200000 ∧
    windowBase + 0xFF0 - windowBase + 16 ≤ ((eng (copyTo 0x20300 0)).team 0).scratchSize := by decide +kernel
theorem witness_engineRead_memory : (match (eng (copyTo 0x20300 0)).engineLocate 0 0x20200 16 Need.engineRead with
    | (s1, .mem p _) => decide (p.tgt ≤ 1) && (s1.claimOf (granOf p.key)).isNone
    | _ => false) = true := by decide +kernel
theorem witness_copyEnds (gate : Word) (fault : Option (Request × Bool))
    (h : gate = 0xFF0 ∧ fault = none ∨ gate = 0xFFFFFFFF ∧ fault = some (Request.of .accessViolation 0x30000, true)) :
    let k := walkedCopy gate fault
    (eng k).arg.core = 0 ∧ (eng k).engine 0 0 = some k ∧ (eng k).engineArrived 0 0 = false ∧ k.tag = none ∧ k.ask = none ∧ k.walked = true ∧ k.outs = [] ∧
    ((eng k).team 0).status = .resident ∧ (eng k).tids 0 ≠ [] ∧ (k.fault = none ∨ ∃ r, k.fault = some (r, true)) := by
  rcases h with ⟨rfl, rfl⟩ | ⟨rfl, rfl⟩
  · exact ⟨rfl, rfl, rfl, rfl, rfl, rfl, rfl, by decide +kernel, by decide +kernel, .inl rfl⟩
  · exact ⟨rfl, rfl, rfl, rfl, rfl, rfl, rfl, by decide +kernel, by decide +kernel, .inr ⟨_, rfl⟩⟩
/-- The context's fault log lies at 0x40000. -/
def engLogged : State := (eng (walkedCopy 0xFFFFFFFF (some (Request.of .accessViolation 0x30000, false)))).modCtx 1 fun k => { k with flog := 0x40000, flogN := 255 }
theorem witness_copyFault : engLogged.engine 0 0 = some (walkedCopy 0xFFFFFFFF (some (Request.of .accessViolation 0x30000, false))) ∧
    engLogged.engineArrived 0 0 = false ∧ (engLogged.team 0).status = .resident ∧ engLogged.tids 0 ≠ [] ∧ (engLogged.team 0).ctx = 1 ∧ (engLogged.ctx 1).flogN.toNat % 256 = 255 ∧
    freeOfParts engLogged (0x40000 + 16 * 255) 16 := by
  unfold freeOfParts; decide +kernel

/-- The job of `card0` on core 0, in some state of its run. -/
def job (started live busy : Bool) : Job :=
  { id := 5, team := 0, j := 7, card := BitVec.ofNat 1024 card0, slotA := ⟨recordAB 0, 0, false, false, []⟩, slotB := ⟨recordAB 1, 0, false, false, []⟩
    slotC := ⟨BitVec.ofNat 256 recordC, 0, false, false, []⟩, pos := 0, started := started, live := live, busy := busy, tilesA := 0, tilesB := 0
    again := false, stopped := false, set_ := [] }
def jobs (x : Job) (ok : Bool) : State := { (j0.modCore 0 fun k => { k with jobs := [x] }) with arg := { core := 0, id := 5, ok := ok } }
theorem witness_jobStart : let x := job false false false
    ((jobs x false).core 0).jobs = [x] ∧ cardBcast x.card = false ∧ ((jobs x false).team x.team).scratch.wf = true := by decide +kernel
theorem witness_troughEntry : let x := job true true false
    let size := fun (r : BitVec 256) => blockBytes (recBl r) (recM r)
    (jobs x false).arg.id = x.id ∧ ((jobs x false).core 0).jobs = [x] ∧ x.live = true ∧ cardBcast x.card = false ∧
    State.nextA x = some 0 ∧ State.nextB x = some 0 ∧ x.again = false ∧ State.nextA { x with again := true } = some 0 ∧
    (if cardLimb x.card then 2 else 1) * (recBlocks x.slotA.record * size x.slotA.record) ≤ recTlen x.slotA.record ∧
    recBlocks x.slotB.record * size x.slotB.record ≤ recTlen x.slotB.record ∧
    recToff x.slotA.record + recTlen x.slotA.record ≤ recToff x.slotB.record := by decide +kernel
theorem witness_kstep : let x := job true true true
    (jobs x false).arg.id = x.id ∧ ((jobs x false).core 0).jobs = [x] ∧ x.busy = true ∧ x.set_ = [] ∧ cardBcast x.card = false := by decide +kernel
theorem witness_jobEnds : let x := job true true false
    (jobs x false).arg.ok = false ∧ ((jobs x false).core 0).jobs = [x] ∧ ((jobs x false).team x.team).status = .resident ∧
    (jobs x false).tids x.team ≠ [] ∧ x.j < ((jobs x false).team x.team).jregs.length ∧ cardGate x.card = 0xFFFFFFFF := by decide +kernel
/-- The job names the gate at the scratchpad's end. -/
def jobGate : Job := { job true true false with card := BitVec.ofNat 1024 (card0 - 0xFFFFFFFF * 2 ^ 160 + 0xFF0 * 2 ^ 160) }
theorem witness_jobFails : (jobs jobGate true).arg.ok = true ∧ ((jobs jobGate true).core 0).jobs = [jobGate] ∧
    ((jobs jobGate true).team jobGate.team).status = .resident ∧ (jobs jobGate true).tids jobGate.team ≠ [] ∧
    cardGate jobGate.card ≠ 0xFFFFFFFF := by decide +kernel

/-! ### Witnesses: the dispatcher -/

/-- Team 1, of cluster 1, waits on a module whose partition 0 has the first island. Team 0 is resident. The context has one
save block, at 0x1000000, which holds a saved team's image: the scratchpad's last byte is 7. -/
def wait1 (status : TeamStatus) : State :=
  let s := place (place (place w0 0 [1]) 0x60000 (leBytes 12 (0x1000000 + 2 ^ 64))) (0x1000000 + 0x400000 + 63) [7]
  let s := s.modCtx 1 fun k => { k with save := 0x60000 }
  { s with
    teams := s.teams ++ [{ s.team 0 with status := status, cluster := 1, age := 128, scratchSize := 64, block := if status = .saved then some 0 else none }]
    clusters := s.clusters ++ [{ Cluster.none with ctx := 1, teams := [1], split := (32, 8, 8) }]
    arg := { id := 1 } }
theorem witness_firstFitting : (wait1 .waiting).firstFitting = some (1, [(1, 1, 0)]) ∧ (∀ k ∈ (wait1 .waiting).clusters, k.grid < 2 ^ 64) ∧ (wait1 .waiting).hasSaved 1 = false ∧
    ([(1, 1, 0)] : List (Nat × Nat × Nat)).map Prod.fst = [1] ∧ ((wait1 .waiting).team 1).status = .waiting := by decide +kernel
theorem witness_hasSaved : (wait1 .saved).firstFitting = some (1, [(1, 1, 0)]) ∧ (wait1 .saved).hasSaved 1 = true := by decide +kernel
theorem witness_teamResume : (wait1 .saved).arg.id = 1 ∧ (wait1 .saved).waiting.contains 1 = true ∧
    (wait1 .saved).clusterFits 1 [] = some [(1, 1, 0)] ∧ ((wait1 .saved).team 1).status = .saved ∧ ((wait1 .saved).team 1).expired = false ∧
    ((wait1 .saved).team 1).block = some 0 ∧ (wait1 .saved).saveHeader ((wait1 .saved).team 1).ctx = some (1, 0x1000000) ∧
    (let bit := ((wait1 .saved).ctx 1).save.toNat + 64 + 0 / 8
     (bit < 0x60000 ∨ 0x60000 + 64 ≤ bit) ∧ ∀ a, a < 64 → bit < 0x1000000 + 0x400000 + a ∨ 0x1000000 + 0x400000 + a + 1 ≤ bit) ∧
    keptByte ((wait1 .saved).team 1) ((wait1 .saved).team 1).lent 63 = true ∧ (wait1 .saved).mem.get (0x1000000 + 0x400000 + 63) = 7 := by
  decide +kernel

/-- The island of partition 0 has one present core, core 0, which hosts team 0; cluster 1 has waited since cycle 0, and its
split is not the core's. -/
def drain0 : State :=
  let s := (wait1 .waiting).modCore 0 fun k => { k with split := some (64, 8, 8) }
  { s with repair := { s.repair with absent := (List.range 1536).filter fun c => islandOf c = 0 && c != 0 }, cycle := 10 ^ 8 }
theorem witness_drainDecision_early : (wait1 .waiting).waiting = [1] ∧
    (wait1 .waiting).cycle < ((wait1 .waiting).cluster 1).since + (wait1 .waiting).quantum ((wait1 .waiting).cluster 1).ctx := by decide +kernel
theorem witness_drainDecision : drain0.waiting = [1] ∧ (drain0.cluster 1).draining = [] ∧
    (drain0.cluster 1).since + drain0.quantum (drain0.cluster 1).ctx ≤ drain0.cycle ∧ drain0.clusterFits 1 [] = none ∧ 1 < drain0.clusters.length ∧
    ((rectangles (drain0.cluster 1).rows (drain0.cluster 1).cols).find? fun cs => (drain0.rectFits 1 (drain0.onCores cs) cs).isSome &&
      drain0.allSaveable (drain0.onCores cs)) = some [0] := by
  decide +kernel
theorem witness_quantumExpiry : distinct (drain0.waiting.map drain0.partOf) = [0] ∧ drain0.stuck 0 = some 1 ∧
    (∀ j ∈ drain0.residentClusters 0, ∀ m ∈ drain0.liveTeams j, (drain0.team m).request = none) ∧
    ((drain0.residentClusters 0).find? fun j => drain0.pastQuantum j && (drain0.clusterFits 1 (drain0.liveTeams j)).isSome) = some 0 ∧
    drain0.liveTeams 0 = [0] ∧ drain0.freeBlock? (drain0.team 0).ctx = some 0 := by
  decide +kernel
theorem witness_fullStop : let s := { (w0.modTeam 0 fun m => { m with request := some 7 }) with arg := { team := 0, len := 7 } }
    s.arg.team = 0 ∧ (s.team 0).status = .resident ∧ (s.team 0).request = some s.arg.len ∧ t0 ∈ s.tids 0 := by decide +kernel
theorem of_pair {α : Type} {p : α × Bool} (h : p.2 = true) : p = (p.1, true) := by rw [← h]
/-- Team 0 has stopped; its image goes to block 0; its slot 2 has a role-C record with a tile in the trough's first KiB. -/
def stopped (w : Stop) : State :=
  { ((drain0.modTeam 0 fun m => { m with request := some 7, block := some 0, imageAt := 0x1000000, scratchSize := 64, slots := [(2, ⟨BitVec.ofNat 256 recordC, 0, false, false, []⟩)] }).modThread t0 fun x => { x with stop := some w }) with arg := { team := 0 } }
theorem witness_teamSave (w : Stop) (h : w = .full ∨ w = .phint 2) : (stopped w).arg.team = 0 ∧ ((stopped w).team 0).status = .resident ∧
    (stopped w).allStopped 0 = true ∧ (stopped w).committing 0 = false ∧
    ∃ s1 s2, ((stopped w).landTeam 0).releaseTeam 0 = (s1, true) ∧ s1.copiesLeft 0 = false ∧ s1.stopJobs 0 = (s2, true) ∧
      (s2.team 0).block.isSome = true ∧ (s2.team 0).imageAt = 0x1000000 ∧ (s2.team 0).scratchSize ≤ 0x200000 ∧
      ((s2.team 0).slots.any fun p => recRole p.2.record = 2 && decide (0 < recTlen p.2.record)) = true ∧
      t0 ∈ s2.tids 0 ∧ (s2.thread t0).stop = some w := by
  rcases h with rfl | rfl <;>
  exact ⟨rfl, by decide +kernel, by decide +kernel, by decide +kernel, _, _, of_pair (by decide +kernel), by decide +kernel,
    of_pair (by decide +kernel), by decide +kernel, by decide +kernel, by decide +kernel, by decide +kernel, by decide +kernel, by decide +kernel⟩

/-! ### Witnesses: submission -/

theorem of_read {α : Type} {p : State × Option α} (Q : State → α → Bool) (h : (match p with
      | (s, some b) => Q s b
      | _ => false) = true) : ∃ s b, p = (s, some b) ∧ Q s b = true := by
  split at h
  · exact ⟨_, _, rfl, h⟩
  · cases h
theorem of_none {α : Type} {p : State × Option α} (h : p.2.isNone = true) : p = (p.1, none) := by
  obtain ⟨s, _ | a⟩ := p
  · rfl
  · cases h
/-- A read that leads to device or pool memory needs no answer. -/
theorem awaits_near {s : State} {user ctx : Nat} {parts : List (Nat × Nat)} (h : parts.all (fun p => (s.moduleFar ctx p.1).isNone) = true) :
    s.awaits user ctx parts = (s, false) := by
  unfold State.awaits
  induction parts with
  | nil => rfl
  | cons p ps ih =>
    rw [List.all_cons, Bool.and_eq_true, Option.isNone_iff_eq_none] at h
    rw [List.foldl_cons]; simp only [h.1]; exact ih h.2
/-- An object of 4,096 bytes of context 1 stands at 0x400001000000; its bytes, at 0x200000, begin with `b`. A ring entry stands at
0x70000, and the step to come takes it. -/
def l0 (entry : Nat) (b : List Byte) : State :=
  let s := { w0 with mgmt := { w0.mgmt with commonsBase := 0x10000000 }, arg := { ctx := 1, addr := 0x70000 } }
  let e : CEntry := ⟨1, 0, 0, 1, 2, 1, 0xFFF, 0x40000100, 0, 0x200000, 0, true⟩
  place (place (place (place s 0 [1]) (0x10000000 + 64 * commonsSlot 1 1) e.bytes) 0x70000 (leBytes 16 entry)) 0x200000 b
/-- The object's address. -/
def va0 : Nat := 0x400001000000
/-- A launch record of one team of 8 threads, with a number of teams. -/
def launch0 (teams : Nat) : Nat := fields [(128, 8), (136, 1), (144, teams), (176, 1), (180, 1), (184, 8), (192, 32 * 4096 + 8 * 64 + 8), (256, 77)]
theorem witness_ring (n : Nat) (h : n = 2 ∨ n = 17) : let s := place (w0.modCtx 1 fun k => { k with ring := 0x70000, ringsz := 16, take := 0 }) (256 + 48) (leBytes 4 n)
    ({ s with arg := { ctx := 1 } }.ctx 1).en = true ∧ s.dev (s.ctxRecord 1 + 48) 4 = n ∧ (s.ctx 1).ringsz = 16 ∧ (s.ctx 1).take = 0 := by
  rcases h with rfl | rfl <;> decide +kernel
theorem witness_launch_bad (entry : Nat) (h : entry = 2 ^ 80 ∨ entry = va0 + 32) : (l0 entry []).partAt (0x70000 + 9) = none ∧
    (State.badEntry ((l0 entry []).ringEntryAt 0x70000) = true ∨
      State.badEntry ((l0 entry []).ringEntryAt 0x70000) = false ∧ (((l0 entry []).ringEntryAt 0x70000).extractLsb' 0 64).toNat % 64 ≠ 0) := by
  rcases h with rfl | rfl <;> decide +kernel
/-- The entry of the context's ring before this one, whose index was the last below 2^32, waits for host memory until cycle 70. -/
def ringWaits : State := { l0 0x20000 [] with agenda := [⟨70, .launchEntry, { ctx := 1, id := 2 ^ 32 - 1 }⟩] }
theorem witness_launch_behind : ringWaits.arg.ctx = 1 ∧ ringWaits.ringBehind 1 = some 70 := by decide +kernel
theorem witness_launch_turn : (l0 0x20000 []).ringBehind 1 = none ∧
    (l0 0x20000 []).awaits 2 1 (State.pieces64 0x20000 2) = (l0 0x20000 [], false) ∧
    (l0 va0 (leBytes 128 (launch0 1))).ringBehind 1 = none ∧ (l0 va0 (leBytes 128 (launch0 0))).ringBehind 1 = none ∧
    (l0 va0 (leBytes 128 (launch0 0))).awaits 2 1 (State.pieces64 va0 2) = (l0 va0 (leBytes 128 (launch0 0)), false) ∧
    (l0 va0 (leBytes 128 (launch0 1))).awaits 2 1 (State.pieces64 va0 2) = (l0 va0 (leBytes 128 (launch0 1)), false) :=
  ⟨by decide +kernel, awaits_near (by decide +kernel), by decide +kernel, by decide +kernel, awaits_near (by decide +kernel),
    awaits_near (by decide +kernel)⟩
theorem witness_launch_unread : State.badEntry ((l0 0x20000 []).ringEntryAt 0x70000) = false ∧
    ∃ s1, (l0 0x20000 []).modulePieces 1 0x20000 2 = (s1, none) := ⟨by decide +kernel, _, of_none (by decide +kernel)⟩
theorem witness_launch_status : State.badEntry ((l0 va0 (leBytes 128 (launch0 0))).ringEntryAt 0x70000) = false ∧ va0 % 64 = 0 ∧
    ∃ s1 b, (l0 va0 (leBytes 128 (launch0 0))).modulePieces 1 va0 2 = (s1, some b) ∧
      (s1.launchStatus 1 (BitVec.ofNat 1024 (leNat b)) == some 0x16) = true :=
  ⟨by decide +kernel, by decide +kernel, of_read _ (by decide +kernel)⟩
theorem witness_launch : State.badEntry ((l0 va0 (leBytes 128 (launch0 1))).ringEntryAt 0x70000) = false ∧ va0 % 64 = 0 ∧
    ∃ s1 b, (l0 va0 (leBytes 128 (launch0 1))).modulePieces 1 va0 2 = (s1, some b) ∧
      decide (s1.launchStatus 1 (BitVec.ofNat 1024 (leNat b)) = none ∧ s1.dev (s1.persEntry 1 + 51) 1 = 0 ∧ 0x70000 + 9 ≠ s1.persEntry 1 + 51) = true :=
  ⟨by decide +kernel, by decide +kernel, of_read _ (by decide +kernel)⟩

/-- A node descriptor with successors: records of 16 bytes, batches of one, a weight of 5. -/
def node0 (succs : List Nat) : Nat :=
  fields [(64, 8), (72, 1), (80, 8), (88, 32 * 4096 + 8 * 64 + 8), (160, 16), (176, 1), (192, 1), (208, 5), (224, succs.length), (256, leNat (succs.map fun n => BitVec.ofNat 8 n))]
/-- A header of `n` nodes, whose table follows it, and two descriptors. -/
def graph0 (n d1 d2 : Nat) : List Byte := leBytes 128 (fields [(0, va0 + 128), (64, va0), (128, va0), (192, n - 1)]) ++ leBytes 128 d1 ++ leBytes 128 d2
/-- The state with a graph load in the ring. -/
def gl (b : List Byte) : State := l0 (va0 + 1 * 2 ^ 64) b
/-- What the statement on a graph load asks of the header's bytes, and of the descriptors. -/
def graphRead (s1 : State) (b : List Byte) (Q : State → Nat → List (BitVec 1024) → Bool) : Bool :=
  let h := BitVec.ofNat 512 (leNat b)
  let table := (h.extractLsb' 0 64).toNat
  let n := (h.extractLsb' 192 8).toNat + 1
  decide (h.extractLsb' 200 312 = 0 ∧ h.extractLsb' 128 16 = 0 ∧ h.extractLsb' 64 16 = 0 ∧ table % 128 = 0) && match s1.readNodes 1 table n with
    | (s2, some ds) => Q s2 n ds
    | _ => false
def graphGood (s2 : State) (n : Nat) (ds : List (BitVec 1024)) : Bool := (ds.all (nodeOk n)) && s2.shapeFits 1 1 1
/-- The reads of a graph load that `b` makes lead to device memory. -/
theorem witness_graph_turn (b : List Byte) (h : b = leBytes 64 0x20000 ∨ b = graph0 2 (node0 [2]) (node0 []) ∨ b = graph0 2 (node0 [1]) (node0 [0]) ∨
    b = graph0 2 (node0 [1]) (node0 []) ∨ b = (graph0 1 0 0).set 17 1) : (gl b).partAt (0x70000 + 9) = none ∧ (gl b).ringBehind 1 = none ∧
    (gl b).awaits 2 1 ((gl b).headerParts 0x70000 ++ (gl b).nodeParts 1 0x70000) = (gl b, false) := by
  rcases h with rfl | rfl | rfl | rfl | rfl <;> exact ⟨by decide +kernel, by decide +kernel, awaits_near (by decide +kernel)⟩
theorem witness_graph_odd : ∃ s1 b, (gl (graph0 1 0 0 |>.set 17 1)).moduleRead 1 va0 64 = (s1, some b) ∧
    decide ((BitVec.ofNat 512 (leNat b)).extractLsb' 128 16 ≠ 0) = true := of_read _ (by decide +kernel)
theorem witness_graph_unread : ∃ s1 b, (gl (leBytes 64 0x20000)).moduleRead 1 va0 64 = (s1, some b) ∧ (s1.readNodes 1 0x20000 1).2.isNone = true :=
  of_read (fun s1 _ => (s1.readNodes 1 0x20000 1).2.isNone) (by decide +kernel)
theorem witness_graph_refused : ∃ s1 b, (gl (graph0 2 (node0 [2]) (node0 []))).moduleRead 1 va0 64 = (s1, some b) ∧
    graphRead s1 b (fun s2 n ds => !graphGood s2 n ds) = true := of_read _ (by decide +kernel)
theorem witness_graph_cycle : ∃ s1 b, (gl (graph0 2 (node0 [1]) (node0 [0]))).moduleRead 1 va0 64 = (s1, some b) ∧
    graphRead s1 b (fun s2 n ds => graphGood s2 n ds && (pathValues ds n).contains none) = true := of_read _ (by decide +kernel)
theorem witness_graph_load : ∃ s1 b, (gl (graph0 2 (node0 [1]) (node0 []))).moduleRead 1 va0 64 = (s1, some b) ∧
    graphRead s1 b (fun s2 n ds => graphGood s2 n ds && decide (pathValues ds n = [some 10, some 5] ∧ (s2.ctx 1).graph = none ∧
      s2.dev (s2.persEntry 1 + 51) 1 = 0 ∧ 0x70000 + 9 ≠ s2.persEntry 1 + 51)) = true := of_read _ (by decide +kernel)
theorem witness_pathValues : let ds := [BitVec.ofNat 1024 (node0 [1]), BitVec.ofNat 1024 (node0 [])]
    ds[0]? = some (BitVec.ofNat 1024 (node0 [1])) ∧ (pathValues ds 2)[0]? = some (some 10) ∧ (pathValues ds 1)[1]? = some (some 5) := by decide +kernel
def node1 (bin : List BinRec) : Node := ⟨BitVec.ofNat 1024 (node0 []), BitVec.ofNat 64 (va0 + 128), 5, bin, 0, some 3, false⟩
def graph1 (bin : List BinRec) : Graph := ⟨0, BitVec.ofNat 64 va0, [node1 bin], []⟩
/-- The context has a graph of one node, with records. -/
def withGraph (s : State) (bin : List BinRec) : State := s.modCtx 1 fun k => { k with graph := some (graph1 bin) }
theorem witness_graph_second : ∃ s1 b, (withGraph (gl (graph0 1 (node0 []) 0)) []).moduleRead 1 va0 64 = (s1, some b) ∧
    graphRead s1 b (fun s2 n ds => graphGood s2 n ds && !(pathValues ds n).contains none && (s2.ctx 1).graph.isSome) = true := of_read _ (by decide +kernel)
theorem witness_graph_unload (bin : List BinRec) (h : bin = [] ∨ bin = [⟨[], 0, 0⟩]) : let s := withGraph (l0 (2 * 2 ^ 64) []) bin
    s.partAt (s.arg.addr + 9) = none ∧ s.ringBehind 1 = none ∧ State.badEntry (s.ringEntryAt s.arg.addr) = false ∧ s.nodeTeams 1 = false ∧
    (s.ctx 1).graph = some (graph1 bin) ∧ logOff s 1 s.arg.addr := by
  unfold logOff
  rcases h with rfl | rfl <;> decide +kernel
/-- One record has entered the bin before this cycle. -/
def nodeReady : State := { withGraph (gl (graph0 1 (node0 []) 0)) [⟨leBytes 16 9, 0, 0⟩] with cycle := 5, arg := { ctx := 1, id := 0, len := 3 } }
theorem witness_nodeTimer : nodeReady.node? nodeReady.arg.ctx nodeReady.arg.id = some (node1 [⟨leBytes 16 9, 0, 0⟩]) ∧
    (node1 [⟨leBytes 16 9, 0, 0⟩]).timer = some nodeReady.arg.len ∧ (node1 [⟨leBytes 16 9, 0, 0⟩]).bin ≠ [] := by decide +kernel
theorem of_some {α : Type} {o : Option α} (h : o.isSome = true) : ∃ a, o = some a := by
  cases o with
  | none => cases h
  | some a => exact ⟨a, rfl⟩
theorem witness_nodeDispatch : (nodeReady.ctx nodeReady.arg.ctx).graph = some (graph1 [⟨leBytes 16 9, 0, 0⟩]) ∧
    State.ranked (graph1 [⟨leBytes 16 9, 0, 0⟩]) = [(0, node1 [⟨leBytes 16 9, 0, 0⟩])] ∧
    nodeReady.olderFits (nodeReady.ctx nodeReady.arg.ctx).part = false ∧ nodeReady.awaits 2 1 (nodeReady.entryParts 1) = (nodeReady, false) ∧
    ∃ s1, nodeReady.tryNode nodeReady.arg.ctx (graph1 [⟨leBytes 16 9, 0, 0⟩]).batchArea 0 (node1 [⟨leBytes 16 9, 0, 0⟩]) = some s1 :=
  ⟨by decide +kernel, by decide +kernel, by decide +kernel, awaits_near (by decide +kernel), of_some (by decide +kernel)⟩
theorem witness_nodeDispatch_older : let s := { wait1 .waiting with arg := { ctx := 1 } }
    s.olderFits (s.ctx s.arg.ctx).part = true := by decide +kernel
theorem witness_nodeDispatch_none : let s := { withGraph w0 [] with arg := { ctx := 1 } }
    (s.ctx s.arg.ctx).graph = some (graph1 []) ∧ s.olderFits (s.ctx s.arg.ctx).part = false ∧ s.awaits 2 1 (s.entryParts 1) = (s, false) ∧
    ∀ k ∈ State.ranked (graph1 []), s.tryNode s.arg.ctx (graph1 []).batchArea k.1 k.2 = none :=
  ⟨by decide +kernel, by decide +kernel, awaits_near (by decide +kernel), by decide +kernel⟩

/-! ### Witnesses: objects, the host port, the pool, the fabric -/

theorem free_above {s : State} {a n : Nat} (h : s.mgmt.partTab.toNat + 768 ≤ a) : freeOfParts s a n := by
  intro j _
  have : ¬ (s.mgmt.partTab.toNat ≤ a + j ∧ a + j < s.mgmt.partTab.toNat + 768) := by omega
  simp [State.partAt, this]
/-- Slot 3 of the commons, at 0x10000000, holds a pool object of 100 bytes with its page at 0x200000. -/
def pooled (st : Nat) : CEntry := ⟨1, 0, 0, 1, st, 1, 199, 0x40000100, 0x5000, 0x200000, 0, true⟩
/-- Its run; its fetch is number 7. -/
def run0 : ObjRun := ⟨3, 0x200000, 1, [lineOf 0x200000], 7⟩
def obj0 (st : Nat) : State :=
  let s := { w0 with mgmt := { w0.mgmt with commonsBase := 0x10000000 }, arg := { addr := 3, id := 7, ok := true, nums := [] } }
  let s := place s (0x10000000 + 192) (pooled st).bytes
  { s with home := { s.home with runs := [run0] } }
theorem witness_objectArrives : (obj0 1).cEntry 3 = pooled 1 ∧ (pooled 1).st = 1 ∧ (pooled 1).home = 1 ∧
    ((obj0 1).run? 3).any (fun r => r.fetch = (obj0 1).arg.id) = true ∧ (obj0 1).poolLost (State.poolKey (pooled 1).haddr) (pooled 1).size = none ∧ (obj0 1).mem.wf = true ∧ (obj0 1).poison = [] ∧
    freeOfParts (obj0 1) 0x100000C0 64 ∧ 0x200000 + pagesOf (pooled 1).size * 65536 ≤ 0x100000C0 := by
  refine ⟨by decide +kernel, rfl, rfl, by decide +kernel, by decide +kernel, by decide +kernel, rfl, free_above (by decide +kernel), by decide +kernel⟩
theorem witness_objectLeaves : (obj0 3).home.runs = [run0] ∧ (obj0 3).cEntry 3 = pooled 3 ∧
    0x200000 ≤ lineOf 0x200000 * 128 ∧ lineOf 0x200000 * 128 - 0x200000 + 128 ≤ (pooled 3).size ∧ (∀ c ∈ (obj0 3).cores, c.2.sb = []) ∧
    (∀ k ∈ (obj0 3).clusters, k.privs = []) ∧ freeOfParts (obj0 3) 0x100000C0 64 ∧ freeOfParts (obj0 3) (2 ^ 48) (2 ^ 48) ∧
    ∀ i n, i + n ≤ 128 → 0 < n → (obj0 3).poolLost (State.poolKey ((pooled 3).haddr + (lineOf 0x200000 * 128 - 0x200000) + i)) n = none := by
  refine ⟨rfl, by decide +kernel, by decide +kernel, by decide +kernel, by decide +kernel, by decide +kernel, free_above (by decide +kernel), free_above (by decide +kernel), fun i n h _ => ?_⟩
  have h : ∀ i, i < 129 → ∀ n, n < 129 → (obj0 3).poolLost (State.poolKey ((pooled 3).haddr + (lineOf 0x200000 * 128 - 0x200000) + i)) n = none := by
    decide +kernel
  exact h i (by omega) n (by omega)

/-- A request to the host, of thread 0 or of no thread, and its answer. -/
def hreq (ts : List Tid) (op : Option HostOp) (fetch : Bool) : HostReq := ⟨9, ts, 0x1000, 8, op, 1, 2, fetch, 0⟩
def hs (q : HostReq) : State :=
  { (m0.modThread t0 fun x => { x with wait := .answer 9 [] true }) with host := { m0.host with reqs := [q] }, arg := { id := 9, result := .success 7 } }
theorem witness_hostCompletion (op : Option HostOp) (h : op = none ∨ op = some .fetchAdd) (fetch : Bool) :
    (hs (hreq [t0] op fetch)).host.reqs = [hreq [t0] op fetch] ∧ (hreq [t0] op fetch).id = (hs (hreq [t0] op fetch)).arg.id ∧
    awaits (hs (hreq [t0] op fetch)) 9 [t0] t0 ∧ (hs (hreq [t0] op fetch)).arg.result = .success 7 := by
  rcases h with rfl | rfl <;> cases fetch <;> exact ⟨rfl, rfl, ⟨rfl, [], true, by decide +kernel⟩, rfl⟩
/-- The module itself, for context 1, waits for the host's bytes. -/
def hfar : State := { m0 with mgmt := { m0.mgmt with far := [⟨2, 9, .read, 2 * 2 ^ 48 + 0x1000, 8, .none⟩] }, host := { m0.host with reqs := [hreq [] none false] }, arg := { id := 9, result := .success 7 } }
theorem witness_hostCompletion_module : hfar.host.reqs = [hreq [] none false] ∧ (hreq [] none false).waiters = [] ∧
    hfar.mgmt.far.map (fun f => (f.id, f.reply)) = [(9, .none)] := by decide +kernel
/-- An engine of core 0 waits for the host's bytes. -/
def heng : State := { eng { copyTo 0x20300 0 with ask := some (9, 2 * 2 ^ 48 + 0x1000, 8) } with host := { m0.host with reqs := [hreq [] none false] }, arg := { id := 9, result := .success 7 } }
theorem witness_hostCompletion_engine : heng.host.reqs = [hreq [] none false] ∧ heng.cores.map Prod.fst = [0] ∧
    (heng.engine 0 0).map (fun k => k.ask) = some (some (9, 2 * 2 ^ 48 + 0x1000, 8)) := by decide +kernel
/-- A claim on the granule at 0x20000, committing or not. -/
def heldBy (committing : Bool) : State := { m0 with home := { m0.home with claims := [⟨granOf 0x20000, 7, committing⟩] } }
def bar2 (s : State) (a n : Nat) (b : List Byte) : State := { s with arg := { addr := a, len := n, bytes := b } }
theorem witness_bar2Read : (bar2 m0 0x20000 16 []).rangeCommitting 0x20000 16 = false ∧ (bar2 (heldBy true) 0x20000 16 []).rangeCommitting 0x20000 16 = true ∧
    (bar2 (heldBy true) 0x1FFF8 8 []).rangeCommitting 0x1FFF8 8 = false := by decide +kernel
/-- An engine's write of the line at 0x20000 is in progress; the host port has been refused it, in the cycle before, or not. -/
def writing (refused : Bool) : State :=
  { m0 with home := { m0.home with txns := [⟨5, lineOf 0x20000, .engine 1 0, [1], false⟩],
                                   refused := if refused then [⟨.port 0, lineOf 0x20000, 1, 0, 0, false⟩] else [] }, cycle := 1 }
theorem unlogged_at : ∀ i, i < 64 → ∀ j, j < 64 → m0.dev (m0.persEntry (64 * i + j) + 51) 1 = 0 := by decide +kernel
theorem unlogged (c : Nat) (h : c < 4096) : m0.dev (m0.persEntry c + 51) 1 = 0 := by
  have := unlogged_at (c / 64) (by omega) (c % 64) (by omega)
  rwa [Nat.div_add_mod] at this
theorem witness_bar2Write : let s := bar2 m0 0x80000 0 [1, 2]
    s.host.inbound = [] ∧ s.rangeHeld 0x80000 2 = false ∧ s.portHeld 0 (State.linesAt 0x80000 2) = false ∧ freeOfParts s 0x80000 2 ∧ notLogged s 0x80000 2 ∧
    (bar2 (heldBy false) 0x20000 0 [1]).rangeHeld 0x20000 1 = true ∧ (bar2 (writing false) 0x1FFFF 0 [1, 2]).portHeld 0 (State.linesAt 0x1FFFF 2) = true := by
  refine ⟨rfl, by decide +kernel, by decide +kernel, free_above (by decide +kernel), ⟨fun c h => .inl (unlogged c h), .inr (by decide +kernel)⟩, by decide +kernel, by decide +kernel⟩
theorem witness_hostAtomicop (n : Nat) (h : n = 4 ∨ n = 8) : (bar2 m0 0x20000 n []).rangeHeld 0x20000 n = false ∧
    (bar2 m0 0x20000 n []).portHeld 0 [lineOf 0x20000] = false ∧ (bar2 (writing true) 0x20000 n []).backingOff (.port 0) (lineOf 0x20000) = true ∧
    (bar2 (writing false) 0x20000 n []).rangeHeld 0x20000 n = false ∧ (bar2 (writing false) 0x20000 n []).backingOff (.port 0) (lineOf 0x20000) = false ∧
    (bar2 (writing false) 0x20000 n []).lineTaken (.port 0) (lineOf 0x20000) = true ∧ (bar2 m0 0x20000 n []).poisoned (lineOf 0x20000) = false ∧ freeOfParts (bar2 m0 0x20000 n []) 0x20000 n ∧
    (bar2 (heldBy false) 0x20000 n []).rangeHeld 0x20000 n = true ∧
    ({ bar2 m0 0x20000 n [] with poison := [lineOf 0x20000] }).poisoned (lineOf 0x20000) = true := by
  rcases h with rfl | rfl <;> and_intros <;> first | decide +kernel | exact free_above (by decide +kernel)
/-- The log of context 1 has 2^8 entries at 0x90000. -/
def logging : State := place { m0 with mgmt := { m0.mgmt with persTab := 0x80000 } } 0x80040 (leBytes 64 (8 * 2 ^ 408 + 257 * 2 ^ 416 + 0x90000 * 2 ^ 448))
theorem witness_commandLog : logging.persEntry 1 = 0x80040 ∧ logging.dev (0x80040 + 51) 1 = 8 ∧ logging.dev (0x80040 + 52) 4 = 257 ∧
    logging.dev (0x80040 + 56) 8 + 256 * (257 % 2 ^ 8) = 0x90100 ∧ freeOfParts logging 0x90100 256 ∧ freeOfParts logging (0x80040 + 52) 4 := by
  refine ⟨by decide +kernel, by decide +kernel, by decide +kernel, by decide +kernel, free_above (by decide +kernel), free_above (by decide +kernel)⟩

/-- The cluster has a private copy of the line at 0x20000, in a place that no page table maps. -/
def priv1 : PrivCopy := ⟨lineOf 0x20000, windowBase, 5, true⟩
def snooped : State := { (m0.modCluster 0 fun k => { k with privs := [priv1] }) with arg := { addr := lineOf 0x20000, bytes := [] } }
theorem witness_backInvalidate_taken : let s := { writing false with arg := { addr := lineOf 0x20000 } }
    s.lineTaken (.port 0) s.arg.addr = true ∧ s.backingOff (.port 0) s.arg.addr = false := by decide +kernel
theorem witness_backInvalidate : (∀ x ∈ m0.home.txns, x.line ≠ lineOf 0x20000) ∧ (∀ r ∈ m0.home.refused, r.line ≠ lineOf 0x20000) ∧
    (∀ x ∈ snooped.home.txns, x.line ≠ lineOf 0x20000) ∧ (∀ r ∈ snooped.home.refused, r.line ≠ lineOf 0x20000) ∧ (∀ k ∈ m0.clusters, ∀ p ∈ k.privs, p.line ≠ lineOf 0x20000) ∧ snooped.clusters.map (fun k => k.privs) = [[priv1]] ∧
    priv1.line = snooped.arg.addr ∧ priv1.dirty = true ∧ placeOf priv1.va ≠ .mapped ∧ freeOfParts snooped (snooped.arg.addr * 128) 128 := by
  and_intros <;> first | decide +kernel | exact free_above (by decide +kernel)
theorem witness_poolTimeout : let s := { w0 with arg := { id := 7 } }
    s.arg.ok = false ∧ (2 ^ 48 - 1) / 2 ^ 45 % 8 = s.arg.id ∧ s.poisoned (lineOf (2 ^ 48 + (2 ^ 48 - 1))) = false ∧ s.extentOf (2 ^ 48 - 1) = none := by decide +kernel

/-- A flit of partition 5 arrives at port 2, which expects 4095. -/
def flit (seq : Nat) (nums : List Nat) (image : List (Nat × Byte)) (kept : List RxFlit) : State :=
  { m0 with
    fab := { m0.fab with ports := [(2, { Port.reset with expect := 4095, reseq := kept })] }
    arg := { id := 2, len := seq, team := 5, nums := nums, addr := 0x20000, image := image, ok := false } }
/-- The error log lies at 0x90000. -/
def logs (s : State) : State := { s with mgmt := { s.mgmt with errLog := 0x90000 } }
/-- A flit is kept in a slot of partition 5, or in a shared one. -/
def kept (seq : Nat) (shared : Bool) : RxFlit := ⟨seq, .other, 5, shared⟩
theorem witness_flit_twice : 512 ≤ State.seqAhead 4094 ((flit 4094 [] [] []).port 2).expect ∧
    (∃ f ∈ ((flit 510 [] [] [kept 510 false]).port 2).reseq, f.seq = 510) := by decide +kernel
theorem witness_flit_early : let s := flit 510 [] [] [kept 0 false]
    State.seqAhead 510 (s.port 2).expect < 512 ∧ 510 ≠ (s.port 2).expect ∧ (∀ f ∈ (s.port 2).reseq, f.seq ≠ 510 ∧ f.seq ≠ 4095) ∧
    reservedUsed s 2 5 < s.fbuf 5 := by decide +kernel
/-- The 16 slots of the partition are in use, and no shared one. -/
theorem witness_flit_shared : let s := flit 510 [] [] (List.replicate 16 (kept 0 false))
    s.fbuf 5 = 16 ∧ ¬ reservedUsed s 2 5 < s.fbuf 5 ∧ sharedUsed s 2 < s.sharedSlots := by decide +kernel
theorem witness_flit_full : let s := flit 510 [] [] (List.replicate 16 (kept 0 false) ++ List.replicate 3328 (kept 0 true))
    (∀ f ∈ (s.port 2).reseq, f.seq ≠ 510 ∧ f.seq ≠ 4095) ∧ ¬ reservedUsed s 2 5 < s.fbuf 5 ∧ ¬ sharedUsed s 2 < s.sharedSlots := by decide +kernel
theorem witness_flit_expected : ((flit 4095 [] [] []).port 2).expect = 4095 ∧ ((flit 4095 [] [] []).port 2).reseq = [] ∧
    reservedUsed (flit 4095 [] [] []) 2 5 < (flit 4095 [] [] []).fbuf 5 ∧
    (flit 4095 [1, 6] [] []).rangeCommitting 0x20000 4095 = false ∧
    (∀ j, j < 2 → (flit 4095 [2, 6] (bytesAt 0x20000 [1, 2]) []).rangeHeld (0x20000 + j) 1 = false) ∧
    (∀ j, j < 2 → (flit 4095 [2, 6] (bytesAt 0x20000 [1, 2]) []).partAt (0x20000 + j) = none) ∧
    (flit 4095 [3, 6, 0, 8, 1, 2] [] []).rangeHeld 0x20000 8 = false ∧ (flit 4095 [3, 6, 0, 8, 1, 2] [] []).poisoned (lineOf 0x20000) = false ∧
    ∀ j, j < 32 → (flit 4095 [3, 6, 0, 8, 1, 2] [] []).partAt (0x20000 + j) = none := by decide +kernel
/-- An addition of two bytes, a merge of the high nibble, a comparison with version 0, and a mark of poison arrive. -/
theorem witness_flit_others : let s := { flit 4095 [4, 6, 1, 1] [] [] with arg := { (flit 4095 [4, 6, 1, 1] [] []).arg with bytes := [0, 0x3C] } }
    s.arg.nums = [4, 6, 1, 1] ∧ s.rangeHeld 0x20000 s.arg.bytes.length = false ∧ (flit 4095 [5] [] []).arg.nums.headD 0 = 5 ∧
    (flit 4095 [6, 6, 1, 9] [] []).rangeHeld 0x20000 1 = false ∧ (flit 4095 [7, 6, 0, 0x9000] [] []).rangeHeld 0x20000 32 = false ∧
    (flit 4095 [7, 6, 0, 0x9000] [] []).mem.le (0x20000 + 28) 4 = 0 ∧ (flit 4095 [7, 6, 1, 0x9000] [] []).mem.le (0x20000 + 28) 4 ≠ 1 := by decide +kernel
/-- What comes acts now: a read, a write, and a mark of poison, whose record can be logged. -/
theorem witness_flit_acts : actsNow (flit 4095 [1, 6] [] []) 2 (payloadOf (flit 4095 [1, 6] [] []).arg) ∧
    actsNow (flit 4095 [2, 6] (bytesAt 0x20000 [1, 2]) []) 2 (payloadOf (flit 4095 [2, 6] (bytesAt 0x20000 [1, 2]) []).arg) ∧
    actsNow (flit 4095 [5] [] []) 2 (payloadOf (flit 4095 [5] [] []).arg) ∧ canLog (logs (flit 4095 [5] [] [])) := by
  refine ⟨?_, ?_, ?_, free_above (by decide +kernel), by decide +kernel⟩ <;> unfold actsNow <;> decide +kernel
/-- Another task holds the granule that a peer writes. -/
theorem witness_flit_waits : let s := { flit 4095 [2, 6] (bytesAt 0x20000 [1, 2]) [] with home := (heldBy false).home }
    s.payloadWaits (payloadOf s.arg) = true := by decide +kernel
/-- An engine's write of the line that a peer writes is in progress; a flit that has come before waits for its granule. -/
theorem witness_flit_refused : let s := { flit 4095 [2, 6] (bytesAt 0x20000 [1, 2]) [] with home := (writing false).home }
    ¬ actsNow s 2 (payloadOf s.arg) := by unfold actsNow; decide +kernel
theorem witness_flit_behind : let s := (flit 4095 [1, 6] [] []).modFab fun x => { x with waits := [(1, ⟨7, .poison (lineOf 0x20080), 5, false⟩)] }
    ¬ actsNow s 2 (payloadOf s.arg) := by unfold actsNow; decide +kernel
/-- Port 2 holds flits for replay. -/
def sending (x : Port) (arg : EvArg) : State := { m0 with fab := { m0.fab with ports := [(2, x)] }, arg := arg }
theorem witness_linkAck : (sending { Port.reset with replay := [(4095, 0), (0, 7), (1, 2)], nextSeq := 2 } { id := 2, len := 0, x := 2 }).port 2 =
      { Port.reset with replay := [(4095, 0), (0, 7), (1, 2)], nextSeq := 2 } ∧ Port.reset.backlog = [] ∧ State.seqAhead 4095 0 = 4095 := by decide +kernel
/-- Both flits held are acknowledged; one waits for a credit. -/
theorem witness_linkAck_credit : let s := sending { Port.reset with replay := [(4094, 0), (4095, 7)], nextSeq := 0, backlog := [5] } { id := 2, len := 0 }
    (s.port 2).up = true ∧ (s.port 2).training = false ∧ (s.port 2).backlog = [5] ∧ ∀ h ∈ (s.port 2).replay, 2048 ≤ State.seqAhead h.1 (s.arg.len % 4096) := by
  decide +kernel
theorem witness_replayTimeout (n : Nat) (h : n = 6 ∨ n = 7) : let s := sending { Port.reset with replay := [(4095, n), (0, 7)], nextSeq := 1, timer := 11 } { id := 2, len := 11 }
    (s.port 2).timer = s.arg.len ∧ idlePort (s.port 2) ∧ (s.port 2).replay = [(4095, n), (0, 7)] ∧
    (∀ h ∈ [(0, 7)], h.1 ≠ 4095) ∧ ∀ h ∈ [((0 : Nat), 7)], h.2 < 8 := by
  unfold idlePort; rcases h with rfl | rfl <;> decide +kernel
theorem witness_retrain : let s := sending { Port.reset with replay := [(4095, 8)], training := true } { id := 2 }
    (s.port 2).backlog = [] ∧ (s.port 2).training = true := by decide +kernel

/-- A transaction of core 0 to a peer, of thread 0 or of a posted write. -/
def txn (ts os : List Tid) (multi : Bool) : Txn := ⟨9, os.map (fun t => t.team), lineOf (3 * 2 ^ 48), ts, os, 0x30000, false, multi, 100, none⟩
def fs (x : Txn) (wait : Wait) (cycle : Nat) : State :=
  { ((handler (m0.modThread t0 fun y => { y with wait := wait })).modCore 0 fun k => { k with out := [x] }) with
    arg := { core := 0, id := 9, result := .success 7 }, cycle := cycle }
theorem witness_fabricResponse : let s := fs (txn [t0] [] false) (.answer 9 [] true) 200
    (s.core 0).out = [txn [t0] [] false] ∧ (s.core 0).wc = [] ∧ awaits s 9 [t0] t0 ∧ ((fs (txn [] [t0] false) .none 200).core 0).out = [txn [] [t0] false] :=
  ⟨by decide +kernel, by decide +kernel, ⟨rfl, [], true, by decide +kernel⟩, by decide +kernel⟩
/-- An entry with a byte in every place of its line. -/
def fullEntry : WcEntry := ⟨lineOf (3 * 2 ^ 48 + 128), 0x30080, 0, (List.range 128).map fun i => ⟨i, 9, t0, none⟩, [t0]⟩
theorem witness_fabricResponse_full : let s := (fs (txn [] [t0] false) .none 200).modCore 0 fun k => { k with wc := [fullEntry] }
    (s.core 0).out = [txn [] [t0] false] ∧ (s.core 0).wc = [fullEntry] ∧ maskFull fullEntry :=
  ⟨by decide +kernel, by decide +kernel, fun i h => ⟨⟨i, 9, t0, none⟩, List.mem_map.mpr ⟨i, List.mem_range.mpr h, rfl⟩, Nat.mod_eq_of_lt h⟩⟩
theorem witness_expiry_commit : let s := fs (txn [] [t0] false) (.release 6) (100 + 100 * usCycles)
    (s.core 0).wc = [] ∧ t0 ∈ (txn [] [t0] false).owners ∧ (s.thread t0).wait = .release 6 := by decide +kernel
theorem witness_transactionExpiry (multi : Bool) : let limit := if multi then 20 * msCycles else 100 * usCycles
    let s := fs (txn [] [t0] multi) (.release 5) (100 + limit)
    (s.core 0).out = [txn [] [t0] multi] ∧ (txn [] [t0] multi).since + limit ≤ s.cycle ∧ (txn [] [t0] multi).teams = [0] ∧ s.engineTxn 0 9 = false ∧ 0 < s.teams.length ∧
    s.coreTids 0 = [t0] ∧ (s.thread t0).wait = .release 5 ∧ handled s t0 ∧
    (∀ t ∈ (fs (txn [] [t0] multi) .none (100 + limit)).coreTids 0, (fs (txn [] [t0] multi) .none (100 + limit)).releaseAwaits (txn [] [t0] multi) t = false) ∧
    (fs (txn [] [t0] multi) .none (99 + limit)).cycle < (txn [] [t0] multi).since + limit ∧
    (fs (txn [] [t0] multi) .none (99 + limit)).mgmt.far = [] := by
  unfold handled; cases multi <;> decide +kernel
theorem witness_expiry_awaited : awaits (fs (txn [t0] [] false) (.answer 9 [] true) (100 + 100 * usCycles)) 9 [t0] t0 :=
  ⟨rfl, [], true, by decide +kernel⟩

/-! ### Witnesses: leases, commits, extents -/

/-- Team 0 can be wounded. -/
def wd0 : State := { f0 with time := { f0.time with sync := true } }
theorem witness_woundableHere : woundableHere wd0 0 := by unfold woundableHere; decide +kernel
/-- A granule of peer 6, which is number 0x200 there. -/
def far : Nat := granOf (6 * 2 ^ 50 + 3 * 2 ^ 48 + 0x20000)
theorem witness_far : remoteGran far = true ∧ keyPeer (far * 256) = 6 ∧ keyPa (far * 256) / 256 = 0x200 ∧ remoteGran 0x200 = false := by decide +kernel
theorem witness_syncTimeout (n : Nat) (h : n = 0 ∨ n = 5) : let s := { wd0 with time := { wd0.time with last := n }, fab := { wd0.fab with held := [⟨0, far, 6, 9⟩] }, arg := { len := n } }
    s.time.last = s.arg.len ∧ s.time.sync = true ∧ s.fab.held = [⟨0, far, 6, 9⟩] ∧ woundableHere s 0 ∧ ({ s with arg := { len := 6 } }).time.last ≠ 6 := by
  unfold woundableHere; rcases h with rfl | rfl <;> decide +kernel
/-- Context 1 has a watchdog that has counted `n` µs; its grandmaster is 250 ns ahead, at the end of a µs. -/
def watched (n : Nat) : State :=
  { w0 with ctxs := [(1, { w0.ctx 1 with wdlim := 1, wdCount := n })], time := { w0.time with sixths := 6 * 750 }, arg := { len := 1000 } }
theorem witness_watchdogStep (n : Nat) (h : n = 999 ∨ n = 1000) : let s := watched n
    let k : Ctx := { w0.ctx 1 with wdlim := 1, wdCount := n }
    s.ctxs = [(1, k)] ∧ k.en = true ∧ k.halt = false ∧ (∃ m ∈ s.teams, m.ctx = 1 ∧ m.status = .resident) ∧ s.gtime < s.arg.len ∧
    s.arg.len ≤ s.gtime + 250 ∧ 0 < s.arg.len / 1000 - s.gtime / 1000 := by
  rcases h with rfl | rfl <;> decide +kernel
/-- Teams wait for a granule. -/
def wanted (ws : List Want) (arg : EvArg) : State := { wd0 with home := { wd0.home with wants := ws }, arg := arg, teams := wd0.teams ++ [{ wd0.team 0 with age := 1 }] }
/-- Slot 7 of team 0, which is claiming its only granule. -/
def claiming : FoldSlot := ⟨0x20000, [⟨0x20000, 256⟩], .claiming, [0x200]⟩
theorem of_claiming {s : State} {n k g : Nat} (h : (match assoc (s.team n).folds k with
      | some f => f.st == .claiming && f.grans == [g]
      | none => false) = true) : ∃ f, assoc (s.team n).folds k = some f ∧ f.st = .claiming ∧ f.grans = [g] := by
  split at h
  · next f hf => simp only [Bool.and_eq_true, beq_iff_eq] at h; exact ⟨f, hf, h.1, h.2⟩
  · cases h
theorem quietGranule_of {s : State} {g : Nat} (h1 : ∀ k ∈ s.clusters, k.privs = []) (h2 : ∀ c ∈ s.cores, c.2.sb = [])
    (h3 : s.home.txns = []) (h4 : s.home.refused = []) : quietGranule s g := by
  refine ⟨fun k hk p hp => ?_, fun c e he => ?_, by rw [h3]; exact nofun, by rw [h4]; exact nofun⟩
  · rw [h1 k hk] at hp; cases hp
  have : (s.core c).sb = [] := by
    unfold State.core
    generalize s.cores = m at h2
    induction m with
    | nil => rfl
    | cons p m ih =>
      rw [Sp.get]
      split
      · exact h2 p (List.mem_cons_self ..)
      · exact ih fun c hc => h2 c (List.mem_cons_of_mem _ hc)
  rw [this] at he; cases he
theorem witness_claimGrant (ws : List Want) (h : ws = [⟨0x200, 0, 7⟩] ∨ ws = [⟨0x200, 1, 7⟩, ⟨0x200, 0, 7⟩] ∨ ws = [⟨0x200, 0, 7⟩, ⟨0x200, 1, 7⟩]) :
    let s := (wanted ws { addr := 0x200 }).modTeam 0 fun m => { m with folds := [(7, claiming)] }
    s.arg.nums = [] ∧ remoteGran 0x200 = false ∧ s.claimOf 0x200 = none ∧ s.fab.asked = [] ∧ quietGranule s 0x200 ∧
    (∃ f, assoc (s.team 0).folds 7 = some f ∧ f.st = .claiming ∧ f.grans = [0x200]) ∧ s.home.wants = ws ∧
    older (s.team 0).age (s.team 1).age = true ∧ older (s.team 1).age (s.team 0).age = false := by
  rcases h with rfl | rfl | rfl <;> exact ⟨rfl, by decide +kernel, by decide +kernel, by decide +kernel,
    quietGranule_of (by decide +kernel) (by decide +kernel) (by decide +kernel) (by decide +kernel), of_claiming (by decide +kernel), by decide +kernel, by decide +kernel, by decide +kernel⟩
theorem witness_claimGrant_peer (k : Nat) (h : k = 0 ∨ k = 1) : let s := { wanted [] { addr := 0x200, nums := [k, 6], x := 3 } with fab := { wd0.fab with given := if k = 0 then [] else [⟨0x200, 6, 3, 9, false, []⟩] } }
    s.arg.nums = [k, 6] ∧ s.claimOf s.arg.addr = none ∧ noOneWaits s ∧ s.time.sync = true ∧ quietGranule s s.arg.addr ∧
    (k = 1 → ∃ l ∈ s.fab.given, l.gran = s.arg.addr ∧ l.holder = 6 ∧ l.age = s.arg.x) := by
  unfold noOneWaits; rcases h with rfl | rfl <;> exact ⟨rfl, by decide +kernel, ⟨rfl, by decide +kernel⟩, by decide +kernel,
    quietGranule_of (by decide +kernel) (by decide +kernel) (by decide +kernel) (by decide +kernel), by decide +kernel⟩
/-- The lease is another task's of the same peer. -/
theorem witness_lateRelease : let s := { wanted [] { addr := 0x200, nums := [1, 6], x := 3 } with fab := { wd0.fab with given := [⟨0x200, 6, 4, 9, false, []⟩] } }
    s.arg.nums = [1, 6] ∧ ∀ l ∈ s.fab.given, l.gran = s.arg.addr → l.holder = 6 → l.age ≠ s.arg.x := by decide +kernel
theorem witness_claimGrant_remote (ws : List Want) (h : ws = [] ∨ ws = [⟨far, 0, 7⟩]) : let s := wanted ws { team := 0, addr := far, len := 99 }
    s.arg.nums = [] ∧ remoteGran s.arg.addr = true ∧ s.home.wants = ws ∧ s.time.sync = true := by
  rcases h with rfl | rfl <;> decide +kernel
/-- Team 0 holds a lease that expires at a time. -/
def leased (expiry : Nat) (arg : EvArg) : State := { wd0 with fab := { wd0.fab with held := [⟨0, far, 6, expiry⟩] }, arg := arg }
theorem witness_leases (ok : Bool) (nums : List Nat) (e : Nat) (h : e = wd0.gtime + 250 ∨ e = wd0.gtime + 251) :
    let s := leased e { team := 0, addr := far, ok := ok, nums := nums }
    s.fab.held = [⟨0, far, 6, e⟩] ∧ s.arg.team = 0 ∧ s.arg.addr = far ∧ s.gtime = wd0.gtime ∧ woundableHere s 0 := by
  have := witness_woundableHere
  rcases h with rfl | rfl <;> exact ⟨rfl, rfl, rfl, rfl, this⟩
theorem witness_claim_unanswered : let s := wanted [⟨far, 0, 7⟩] { team := 0, addr := far, ok := true }
    s.arg.ok = true ∧ s.home.wants = [⟨far, 0, 7⟩] ∧ woundableHere s 0 := by unfold woundableHere; decide +kernel
/-- This home has given its granule to peer 6. -/
def given (expiry : Nat) (committing : Bool) (bytes : List (Nat × Byte)) (arg : EvArg) : State :=
  { wd0 with fab := { wd0.fab with given := [⟨0x200, 6, 0, expiry, committing, bytes⟩] }, home := { wd0.home with claims := [⟨0x200, State.remoteTeam 6, committing⟩] }, arg := arg }
theorem witness_given (committing : Bool) (id : Nat) (h : id = 6 ∨ id = 7) : let s := given 100 committing (bytesAt 0x20000 [1, 2]) { id := id, addr := 0x200, len := 200 }
    s.fab.given = [⟨0x200, 6, 0, 100, committing, bytesAt 0x20000 [1, 2]⟩] ∧ s.arg.addr = 0x200 ∧ s.time.sync = true ∧ noOneWaits s ∧
    s.gtime < 100 + 250 ∧ 0x200 * 256 ≤ 0x20000 ∧ 0x20000 + 2 ≤ 0x200 * 256 + 256 ∧ freeOfParts s 0x20000 2 := by
  unfold noOneWaits
  rcases h with rfl | rfl <;> exact ⟨rfl, rfl, rfl, ⟨rfl, rfl⟩, by show wd0.gtime < 350; decide +kernel, by decide, by decide, free_above (by show wd0.mgmt.partTab.toNat + 768 ≤ _; decide +kernel)⟩
theorem witness_homeLeaseExpiry : let s := { given 100 false [] { addr := 0x200 } with time := { wd0.time with sixths := 2100 } }
    s.fab.given = [⟨0x200, 6, 0, 100, false, []⟩] ∧ 100 + 250 ≤ s.gtime ∧ noOneWaits s := by unfold noOneWaits; decide +kernel
/-- A lease that a decided commit holds whose team has started again. -/
theorem witness_detached_lease : let l : LeaseHeld := ⟨2 ^ 31, far, 6, 9⟩
    let s := { wd0 with fab := { wd0.fab with held := [l] }, arg := { team := 0, addr := far, ok := true, nums := [1] } }
    s.fab.held = [l] ∧ s.arg.team = l.team % 2 ^ 31 ∧ s.arg.addr = l.gran ∧ s.arg.ok = true ∧ s.arg.nums ≠ [] ∧ 2 ^ 31 ≤ l.team := by decide +kernel
/-- A commit of a team waits for peers; its task has remote granules. -/
def decision (n : Nat) (peers : List Nat) (decided : Bool) : Decision := ⟨n, 3, [far, far + 1], peers, decided, 3⟩
def deciding (d : Decision) (arg : EvArg) : State := { wd0 with fab := { wd0.fab with decisions := [d] }, arg := arg }
theorem witness_prepareAck (peers : List Nat) (h : peers = [far, far + 1] ∨ peers = [far]) : let d := decision 0 peers false
    let s := deciding d { team := 0, addr := far }
    s.fab.decisions = [d] ∧ d.team = s.arg.team ∧ d.decided = false ∧ ((d.peers.filter fun g => g != s.arg.addr) ≠ [] ∨ d.peers = [s.arg.addr]) := by
  rcases h with rfl | rfl <;> decide +kernel
theorem witness_prepareTimeout : let d := decision 0 [far] false
    let s := deciding d { team := 0, addr := far, len := 3 }
    s.fab.decisions = [d] ∧ d.team = s.arg.team ∧ d.decided = false ∧ d.since = s.arg.len ∧ woundableHere s 0 := by unfold woundableHere; decide +kernel
theorem witness_commitApply (peers : List Nat) (h : peers = [far] ∨ peers = [far, far + 1]) : let d := decision 0 peers true
    let s := deciding d { team := 0, addr := far, ok := true }
    s.arg.ok = true ∧ s.fab.decisions = [d] ∧ d.decided = true ∧ s.arg.addr ∈ d.peers ∧ d.team < 2 ^ 31 ∧ d.team < s.teams.length := by
  rcases h with rfl | rfl <;> decide +kernel
theorem witness_commitApply_detached : let d := decision (2 ^ 31) [far] true
    let s := deciding d { team := 0, addr := far, ok := true }
    s.fab.decisions = [d] ∧ d.decided = true ∧ d.peers = [s.arg.addr] ∧ d.team = 2 ^ 31 + s.arg.team ∧ s.arg.team < 2 ^ 31 ∧ s.arg.ok = true := by
  decide +kernel
theorem witness_applyQuery (decided : Bool) : let d := decision 0 [far + 1] decided
    let s := deciding d { team := 0, addr := far, ok := true, x := 3 }
    s.arg.ok = true ∧ s.fab.decisions = [d] ∧ d.grans.contains s.arg.addr = true ∧ d.age = s.arg.x := by
  cases decided <;> decide +kernel
/-- The query is for an earlier commit. -/
theorem witness_applyQuery_over : let s := deciding (decision 0 [far] true) { team := 0, addr := far, ok := true, x := 2 }
    s.arg.ok = true ∧ ∀ d ∈ s.fab.decisions, d.grans.contains s.arg.addr = true → d.age ≠ s.arg.x := by decide +kernel
/-- An extent of pool memory under lease. -/
def extent (lapsed : Bool) (arg : EvArg) (cycle : Nat) : State := { wd0 with fab := { wd0.fab with extents := [⟨4, 0x10000, 0x1000, 50, lapsed⟩] }, arg := arg, cycle := cycle }
theorem witness_extents (ok : Bool) (cycle : Nat) (h : cycle = 50 + 29999999999 ∨ cycle = 50 + 30000000000) : let s := extent false { id := 4, ok := ok } cycle
    s.fab.extents = [⟨4, 0x10000, 0x1000, 50, false⟩] ∧ s.arg.id = 4 ∧ s.poisoned (lineOf (2 ^ 48 + 0x10FFF)) = false ∧ (s.poolUp 0x10000) = true ∧
    (s.cores.map Prod.fst).Nodup ∧ s.home.l2 = [] ∧ (∀ e ∈ ({ s with arg := { id := 5, ok := true } } : State).fab.extents, e.id ≠ 5) := by
  rcases h with rfl | rfl <;> cases ok <;> decide +kernel

theorem witness_extent_zeroed : let s := { wd0 with mem := wd0.mem.put (2 ^ 48 + 0x10FFF) 5, arg := { id := 4, addr := 0x10000, len := 0x1000, ok := true, nums := [1] } }
    s.fab.extents = [] ∧ s.arg.nums ≠ [] ∧ s.mem.wf = true ∧ (State.zeroExtent s s.arg.addr s.arg.len).mem.get (2 ^ 48 + 0x10FFF) = 0 := by decide +kernel
/-- A dirty line of the extent, and what its shelf holds. -/
theorem witness_extent_dirty : let x : L2Line := ⟨m0.homeSlice (2 ^ 48 + 0x10F80), lineOf (2 ^ 48 + 0x10F80), none, 0, some 7, false, false⟩
    let s := { extent false { id := 4 } 30000000050 with home := { wd0.home with l2 := [x] } }
    s.home.l2 = [x] ∧ (keyTgt (x.line * 128) = 1 ∧ 0x10000 ≤ keyPa (x.line * 128) ∧ keyPa (x.line * 128) < 0x10000 + 0x1000) ∧ x.under = some 7 := by decide +kernel

/-! ### Witnesses: management, errors, resets -/

theorem witness_registers_not_ready : let s := { State.reset with mgmt := { State.reset.mgmt with boot := 5 }, arg := { addr := 0x70, x := 1300 } }
    s.mgmt.boot ≠ 6 ∧ s.bar0 0 = 5 ∧ s.bar0 0x70 = 0 ∧ exec .registerWrite s = .next s := by
  refine ⟨by decide +kernel, by decide +kernel, by decide +kernel, rfl⟩
theorem witness_registers : w0.mgmt.boot = 6 ∧ ({ State.reset with arg := { addr := 8, x := 5 } } : State).anyEnabled = false ∧ w0.anyEnabled = true ∧ w0.mgmt.cmds = [] ∧ w0.mgmt.tasks = [] ∧ w0.tableShares 0 = false := by decide +kernel
/-- Partitions 0 and 47 of a table at 0x90000 share island 47. -/
theorem witness_tableShares : (place (place State.reset (0x90000 + 5) (leBytes 6 (2 ^ 7 + 2 ^ 44))) (0x90000 + 16 * 47 + 5) (leBytes 6 (2 ^ 7 + 2 ^ 44))).tableShares 0x90000 = true := by decide +kernel
/-- A publication record at 0x80000, of an object of context 1 whose domain entry says where it lies; its directory entry stands
at pool address 0x6000. -/
def record (x : Nat) : State := place { w0 with arg := { x := 0x80000, ok := true } } 0x80000 (leBytes 128 x)
def pub0 (home : Nat) (expect : Nat) (bad : Bool) : State :=
  let s := record (0x9000 + 1 * 2 ^ 380 + expect * 2 ^ 392 + if bad then 2 ^ 64 else 0)
  let s := { s with mgmt := { s.mgmt with domTab := 0x90000 } }
  place (place s 0x90000 (leBytes 64 (1 + 2 ^ 5 + home * 2 ^ 17 + 0x6000 * 2 ^ 128 + 8 * 2 ^ 272))) (State.poolKey 0x6000) (leBytes 32 (0x7000 + 99 * 2 ^ 168 + 2 ^ 212 + 3 * 2 ^ 224))
theorem witness_publish (expect : Nat) (h : expect = 2 ∨ expect = 3) : let s := pub0 1 expect false
    let r := BitVec.ofNat 512 (s.dev 0x80000 64)
    s.arg.x.toNat = 0x80000 ∧ r.extractLsb' 464 48 = 0 ∧ r.extractLsb' 64 253 = 0 ∧ (r.extractLsb' 0 64).toNat = 0x9000 ∧ (r.extractLsb' 380 12).toNat = 1 ∧
    r.extractLsb' 317 63 = 0 ∧ (r.extractLsb' 392 32).toNat = expect ∧ s.domainKnown 1 0 = true ∧ (s.domainOf 0).home = 1 ∧ s.findEntry 1 0 = none ∧
    s.mgmt.far = [] ∧ s.home.runs = [] ∧ s.poolRange ((s.domainOf 0).dir) 32 = none ∧
    (s.poolDir (s.domainOf 0) 0).map (fun d => ((DirEntry.of d).ok, (DirEntry.of d).version, (DirEntry.of d).addr, (DirEntry.of d).sizem1)) = some (true, 3, 0x7000, 99) ∧
    s.poolRange 0x7000 100 = none ∧ s.poolLost (State.poolKey 0x9000) 100 = none ∧
    freeOfParts s 0x80000 64 ∧ freeOfParts s (2 ^ 48) (2 ^ 50) := by
  rcases h with rfl | rfl <;> and_intros <;> first | decide +kernel | exact free_above (by decide +kernel)
theorem witness_publish_unpopulated : State.populated (2 ^ 48) 64 = false ∧ State.populated 0x80000 64 = true ∧ State.populated 0x80000 128 = true := by decide +kernel
theorem witness_not_ready : ({ w0 with mgmt := { w0.mgmt with boot := 5 } } : State).mgmt.boot ≠ 6 ∧ w0.arg.ok = false := by decide +kernel
theorem witness_publish_refused : (BitVec.ofNat 512 ((pub0 1 3 true).dev 0x80000 64)).extractLsb' 64 253 ≠ 0 ∧ (record 0).domainKnown 0 0 = false ∧
    ((pub0 0 3 false).domainKnown 1 0 = true ∧ ((pub0 0 3 false).domainOf 0).home = 0) := by decide +kernel
theorem witness_publish_peer : let s := pub0 2 3 false
    s.domainKnown 1 0 = true ∧ (s.domainOf 0).home = 2 ∧ s.findEntry 1 0 = none ∧ ((s.domainOf 0).dir + 32 * 0) % 128 ≤ 96 ∧ s.mgmt.far = [] := by decide +kernel
theorem of_digest {r : Except Nat (List Byte)} (Q : Nat → Bool) (R : List Byte → Bool) (h : (match r with
      | .error n => Q n
      | .ok l => R l) = true) : (∃ n, r = .error n ∧ Q n = true) ∨ ∃ l, r = .ok l ∧ R l = true := by
  cases r with
  | error n => exact .inl ⟨n, rfl, h⟩
  | ok l => exact .inr ⟨l, rfl, h⟩
theorem witness_digest (va len : Nat) (h : va = 0x20000 ∧ len = 1 ∨ va = 0 ∧ len = 0) : let s := record (va + len * 2 ^ 64 + 2 ^ 500)
    let r := BitVec.ofNat 1024 (s.dev 0x80000 128)
    r.extractLsb' 520 120 = 0 ∧ r.extractLsb' 128 372 = 0 ∧ (r.extractLsb' 64 64).toNat = len ∧ (r.extractLsb' 500 12).toNat = 1 ∧
    freeOfParts s 0x80000 128 ∧ s.awaits 0 1 (State.lineParts va len len) = (s, false) ∧
    ((∃ n, s.digestBytes 1 va len = .error n ∧ (len == 1 && n == 0x11) = true) ∨ ∃ l, s.digestBytes 1 va len = .ok l ∧ (len == 0 && l.isEmpty) = true) := by
  rcases h with ⟨rfl, rfl⟩ | ⟨rfl, rfl⟩ <;>
  exact ⟨by decide +kernel, by decide +kernel, by decide +kernel, by decide +kernel, free_above (by decide +kernel),
    awaits_near (by decide +kernel), of_digest _ _ (by decide +kernel)⟩
theorem witness_digest_refused : (BitVec.ofNat 1024 ((record (2 ^ 128)).dev 0x80000 128)).extractLsb' 128 372 ≠ 0 := by decide +kernel
theorem witness_attest (n : Nat) (h : n = 0 ∨ n = 1) : let s := { record 0 with arg := { (record 0).arg with len := n } }
    s.arg.len = n ∧ s.arg.ok = true ∧ s.attestable 0x80000 = true := by rcases h with rfl | rfl <;> decide +kernel
theorem witness_attest_refused : (record 0).attestable 0x80100 = false ∧ State.populated (0x80100 + 192) 1 = true ∧ (record 0).attestable (2 ^ 48) = false ∧
    State.populated (2 ^ 48 + 192) 1 = false ∧ freeOfParts (record 0) 0x80000 512 :=
  ⟨by decide +kernel, by decide +kernel, by decide +kernel, by decide +kernel, free_above (by decide +kernel)⟩

/-- The error log lies at 0xA0000. -/
def logsAt (arg : EvArg) : State := { m0 with mgmt := { m0.mgmt with errLog := 0xA0000 }, arg := arg }
theorem witness_canLog (arg : EvArg) : canLog (logsAt arg) :=
  ⟨free_above (by show m0.mgmt.partTab.toNat + 768 ≤ 0xA0000; decide +kernel), by show m0.gtime < _; decide +kernel, by show m0.repair.errN < _; decide +kernel⟩
theorem witness_eccCorrection : let s := { logsAt { storage := .dram, addr := 77, id := 5 } with repair := { m0.repair with rows := [(77, 0), (77, 0)] }, cycle := 86399999999 }
    s.arg.storage = .dram ∧ 2 ≤ (s.repair.rows.filter fun x => x.1 = s.arg.addr && s.cycle < x.2 + 86400000 * msCycles).length := by decide +kernel
theorem witness_uncorrectable_storeBuffer : let s := (logsAt { storage := .storeBuffer, core := 0, addr := lineOf 0x20000 }).modCore 0 fun k => { k with sb := [sbEntry] }
    s.arg.storage = .storeBuffer ∧ (s.core 0).sb = [sbEntry] ∧ sbEntry.line = s.arg.addr ∧ keyTgt (s.arg.addr * 128) ≤ 1 := by decide +kernel
theorem witness_uncorrectable_hostEntry : let e : SbEntry := { sbEntry with line := lineOf (2 ^ 49 + 0x20000) }
    let s := (logsAt { storage := .storeBuffer, core := 0, addr := e.line }).modCore 0 fun k => { k with sb := [e] }
    s.arg.storage = .storeBuffer ∧ (s.core 0).sb = [e] ∧ keyTgt (s.arg.addr * 128) = 2 ∧ s.host.locks = [] := by decide +kernel
theorem witness_uncorrectable_writeCombining : let s := (logsAt { storage := .writeCombining, core := 0, addr := wcEntry.line }).modCore 0 fun k => { k with wc := [wcEntry] }
    s.arg.storage = .writeCombining ∧ (s.core 0).wc = [wcEntry] ∧ wcEntry.line = s.arg.addr := by decide +kernel
theorem witness_uncorrectable_coreSram : let s := logsAt { storage := .coreSram, core := 0 }
    s.residents 0 = [0] ∧ (s.cluster (s.team 0).cluster).teams = [0] := by decide +kernel
theorem witness_coreFailure (n : Nat) (h : n = 7 ∨ n = 8) : let s := { drain0 with repair := { drain0.repair with spares := [(0, n)] }, arg := { core := 0, ok := true } }
    Sp.get 0 s.repair.spares (dieOf s.arg.core) = n ∧ s.residents 0 = [0] ∧ (s.cluster (s.team 0).cluster).teams = [0] ∧ (s.team 0).request = none ∧
    ∀ s1, s1 = s.replaceCore 0 → s1.saveable 0 = true ∧ (s1.freeBlock? (s.team 0).ctx).isSome = true := by
  rcases h with rfl | rfl <;> exact ⟨by decide +kernel, by decide +kernel, by decide +kernel, by decide +kernel, fun s1 h1 => by subst h1; decide +kernel⟩
theorem witness_sliceFailure (c : Bool) : let s := { m0 with home := { m0.home with claims := [⟨granOf 0x20000, 7, c⟩] }, arg := { id := m0.homeSlice 0x20000, len := 1, nums := [lineOf 0x20000] } }
    (∀ p ∈ s.repair.slices, p.1 ≠ s.arg.id) ∧ (∀ l ∈ s.arg.nums, s.sliceOf l = s.arg.id) ∧ s.homeSlice (lineOf 0x20000 * 128) = s.arg.id ∧ s.homeSlice (granOf 0x20000 * 256) = s.arg.id := by
  cases c <;> decide +kernel
/-- Cluster 0, whose slice fails, has a dirty private copy. -/
theorem witness_sliceFailure_private : let s := { (m0.modCluster 0 fun k => { k with privs := [priv0] }) with arg := { id := (m0.cluster 0).slice, len := 1 } }
    (∀ p ∈ s.repair.slices, p.1 ≠ s.arg.id) ∧ (s.cluster 0).slice = s.arg.id ∧ (s.cluster 0).privs = [priv0] ∧ priv0.dirty = true := by
  decide +kernel
theorem witness_sliceFailure_peer : let s := { m0 with
      home := { m0.home with claims := [⟨granOf 0x20000, State.remoteTeam 9, false⟩] }
      fab := { m0.fab with given := [⟨granOf 0x20000, 9, 5, 50000, false, []⟩] }
      arg := { id := m0.homeSlice 0x20000, len := 1 } }
    s.homeSlice (granOf 0x20000 * 256) = s.arg.id ∧ State.remoteHolder (State.remoteTeam 9) = true := by decide +kernel
theorem witness_channelFailure : let s := logsAt { id := 8 * 23 + 7 }
    Sp.get 0 s.repair.channels (s.arg.id / 8) < 2 ∧ s.arg.nums = [] ∧ s.arg.id < 65536 := by decide +kernel
theorem witness_portDown (p : Nat) (h : p = 0 ∨ p = 31) : let s := logsAt { id := p }
    s.arg.id < 32 ∧ ∃ q, q < 32 ∧ q ≠ p ∧ (s.port q).up = true := by
  rcases h with rfl | rfl
  · exact ⟨by decide +kernel, 31, by decide, by decide, by decide +kernel⟩
  · exact ⟨by decide +kernel, 0, by decide, by decide, by decide +kernel⟩
theorem witness_shutdown : (w0.ctx (w0.team 0).ctx).en = true ∧ State.reset.anyEnabled = false := by decide +kernel
theorem witness_bringUp (k b : Nat) (ok : Bool) (h : (k = 2 ∧ b = 1) ∨ (k = 3 ∧ b = 2) ∨ (k = 6 ∧ b = 3)) :
    let s := { m0 with mgmt := { m0.mgmt with boot := b }, arg := { len := k, ok := ok } }
    s.arg.len = k ∧ s.mgmt.boot = b ∧ s.arg.ok = ok ∧ s.arg.nums = [] ∧ m0.arg.len = 0 := by
  rcases h with ⟨rfl, rfl⟩ | ⟨rfl, rfl⟩ | ⟨rfl, rfl⟩ <;> exact ⟨rfl, rfl, rfl, rfl, rfl⟩
/-- Core 1535 fails its test; seven, or eight, spares of its die are in use. -/
theorem witness_bringUp_core (n : Nat) (h : n = 7 ∨ n = 8) : let s := { m0 with mgmt := { m0.mgmt with boot := 2 }, repair := { m0.repair with spares := [(dieOf 1535, n)] }, arg := { len := 3, nums := [100 + 1535] } }
    s.arg.len = 3 ∧ s.mgmt.boot = 2 ∧ 1535 < 1536 ∧ s.arg.nums = [100 + 1535] ∧ Sp.get 0 s.repair.spares (dieOf 1535) = n := by
  rcases h with rfl | rfl <;> decide +kernel
theorem witness_islandReset : let s := { m0 with arg := { id := 0, ok := true } }
    (s.team 0).status = .resident ∧ islandOf (s.team 0).core = s.arg.id ∧ s.core (s.team 0).core ≠ Core.reset ∧ 0 ∈ (s.cluster (s.team 0).cluster).teams := by
  decide +kernel

/-! ### Witnesses: words, steps, the invariant -/

theorem witness_wellFormed : (Instr.add ⟨np, 20, 21, 22, false⟩).isWord = true ∧ (Instr.add ⟨np, 20, 21, 22, false⟩).WellFormed := by decide +kernel
/-- The program of `w0` with words at its counter. -/
def words (ws : List Word) : State := { w0 with mem := w0.mem.putAll (bytesAt 0x10000 (ws.flatMap fun w => leBytes 4 w.toNat)) }
/-- The module after the selection of thread 0, and after the fetch of words. -/
def sel0 (s : State) : State := (s.endYields 0 0).modCore 0 fun k => { k with issued := some (s.cycle, 0) }
def isWordB (s : State) (pc : DWord) (w : Word) : Bool := match (s.fetchWord 0 pc).2 with
  | .word x => x == w
  | _ => false
theorem word_of {s : State} {pc : DWord} {w : Word} (h : isWordB s pc w = true) : ∃ s1, s.fetchWord 0 pc = (s1, .word w) ∧ s1 = (s.fetchWord 0 pc).1 := by
  unfold isWordB at h
  split at h
  · next h1 => exact ⟨_, Prod.ext rfl (h1.trans (congrArg _ (by simpa using h))), rfl⟩
  · cases h
theorem witness_step (ws : List Word) (h : ws = [0x004A152C] ∨ ws = [0xFC000A00, 0x09440907] ∨ ws = [0xFC000A00, 0xFC000A00] ∨ ws = [0xFCA00158]) :
    undisturbed (words ws) ∧ selected (words ws) 0 [t0] (sel0 (words ws)) ∧ ((sel0 (words ws)).thread t0).pc = 0x10000 ∧
    unfinished ws.dropLast := by
  unfold undisturbed selected unfinished sel0
  rcases h with rfl | rfl | rfl | rfl <;>
  exact ⟨by decide +kernel, .inr ⟨0, by decide +kernel, by decide +kernel, by decide +kernel, rfl⟩, by decide +kernel, by decide +kernel⟩
theorem witness_fetched : (∃ s1, fetched (sel0 (words [0x004A152C])) 0 0x10000 [0x004A152C] s1) ∧
    (∃ s1, fetched (sel0 (words [0xFC000A00, 0x09440907])) 0 0x10000 [0xFC000A00, 0x09440907] s1) ∧
    ∃ s1, fetched (sel0 (words [0xFC000A00, 0xFC000A00])) 0 0x10000 [0xFC000A00, 0xFC000A00] s1 := by
  refine ⟨?_, ?_, ?_⟩
  · obtain ⟨s1, h, -⟩ := word_of (s := sel0 (words [0x004A152C])) (pc := 0x10000) (w := 0x004A152C) (by decide +kernel)
    exact ⟨_, _, h, rfl⟩
  · obtain ⟨s1, h, e⟩ := word_of (s := sel0 (words [0xFC000A00, 0x09440907])) (pc := 0x10000) (w := 0xFC000A00) (by decide +kernel)
    obtain ⟨s2, h2, -⟩ := word_of (s := s1) (pc := 0x10000 + 4) (w := 0x09440907) (by subst e; decide +kernel)
    exact ⟨_, _, h, _, h2, rfl⟩
  · obtain ⟨s1, h, e⟩ := word_of (s := sel0 (words [0xFC000A00, 0xFC000A00])) (pc := 0x10000) (w := 0xFC000A00) (by decide +kernel)
    obtain ⟨s2, h2, -⟩ := word_of (s := s1) (pc := 0x10000 + 4) (w := 0xFC000A00) (by subst e; decide +kernel)
    exact ⟨_, _, h, _, h2, rfl⟩
theorem witness_decodes : decodeWords [0x004A152C] = .ok (.add ⟨np, 20, 21, 22, false⟩) ∧ decodeWords [0xFC000A00, 0xFC000A00] = .bad (.malformed 1) ∧
    decodeWords [0xFCA00158] = .bad (.reserved 0) := by decide +kernel
/-- Thread 0 stands at an address that may not be executed. -/
def lost : State := (words []).modThread t0 fun x => { x with pc := 0x30000, region := 0x30000 }
def lostSel (e : Nat) : State := (lost.endYields 0 e).modCore 0 fun k => { k with issued := some (lost.cycle, e) }
def lostEntry : Nat := match lost.nextIssue with
  | some (_, e) => e
  | none => 0
def isFaultB (s : State) (pc : DWord) : Bool := match (s.fetchWord 0 pc).2 with
  | .fault _ => true
  | _ => false
theorem fault_of {s : State} {pc : DWord} (h : isFaultB s pc = true) : ∃ s1 r, s.fetchWord 0 pc = (s1, .fault r) := by
  unfold isFaultB at h
  split at h
  · next h1 => exact ⟨_, _, Prod.ext rfl h1⟩
  · cases h
theorem witness_step_fault : undisturbed lost ∧ (∃ e, selected lost 0 [t0] (lostSel e) ∧ ∃ s2 r, (lostSel e).fetchWord 0 0x30000 = (s2, .fault r)) ∧
    unfinished [] := by
  unfold undisturbed selected unfinished lostSel
  exact ⟨by decide +kernel, ⟨lostEntry, .inr ⟨lostEntry, by decide +kernel, by decide +kernel, by decide +kernel, rfl⟩, fault_of (by decide +kernel)⟩, by decide +kernel⟩
theorem witness_step_due : let d : Due := ⟨0, .nodeDispatch, {}⟩
    let s := { w0 with agenda := [⟨5, .scrub, {}⟩, d] }
    s.mgmt.boot ≠ 4 ∧ s.mgmt.boot ≠ 5 ∧ s.agenda = [⟨5, .scrub, {}⟩] ++ d :: [] ∧ (∀ x ∈ [(⟨5, .scrub, {}⟩ : Due)], s.cycle < x.at_) ∧ d.at_ ≤ s.cycle := by decide +kernel
theorem witness_step_stopped (b : Nat) (h : b = 4 ∨ b = 5) : let d : Due := ⟨9, .moduleReset, { ok := true }⟩
    let s := { w0 with mgmt := { w0.mgmt with boot := b }, agenda := [⟨5, .scrub, {}⟩, d] }
    (s.mgmt.boot = 4 ∨ s.mgmt.boot = 5) ∧ s.agenda = [⟨5, .scrub, {}⟩] ++ d :: [] ∧ (∀ x ∈ [(⟨5, .scrub, {}⟩ : Due)], x.ev ≠ .moduleReset) ∧
    d.ev = .moduleReset ∧ ∀ x ∈ [(⟨5, .scrub, {}⟩ : Due)], x.ev ≠ .moduleReset := by
  rcases h with rfl | rfl <;> decide +kernel
theorem witness_step_idle : undisturbed State.reset ∧ State.reset.nextPace = none ∧ State.reset.nextIssue = none ∧ (∀ x ∈ State.reset.home.l2, x.out = false) := by unfold undisturbed; decide +kernel
theorem witness_step_pace : let s := words [0xFC800158]
    s.nextPace = some t0 := by decide +kernel
theorem witness_issue : (words [0x004A152C]).selectEntry 0 = some 0 ∧ (State.reset.selectEntry 0 = none) ∧ (words [0x004A152C]).unitsAt 0 0 = [[t0]] ∧
    ([[t0]] : List (List Tid)) ≠ [] := by decide +kernel
theorem witness_overflow : (lost.unitsAt 0 lostEntry).length = 1 := by decide +kernel
theorem witness_steady : Steady State.reset ∧ step State.reset = .next State.reset.tick := by
  unfold Steady
  exact ⟨by decide +kernel, by rfl⟩
theorem witness_rounding : (let e : Int := -3
    let l : Int := -1
    e < l ∧ roundAt 1 false 6 e l = 2 ∧ roundAt 1 false 10 e l = 2 ∧ roundAt 5 false 10 e l = 3 ∧ roundAt 3 true 9 e l = 3 ∧ roundAt 4 true 9 e l = 2) ∧
    (0xBF800000 < 2 ^ (fmtOf 0).bits ∧ ∀ n, decodeRaw 0 0xBF800000 ≠ .nan n) := by
  refine ⟨by decide +kernel, by decide +kernel, fun n h => ?_⟩
  have : (match decodeRaw 0 0xBF800000 with
    | .nan _ => false
    | _ => true) = true := by decide +kernel
  rw [h] at this; cases this

/-- Twice the base point of brainpoolP384r1 (computed by hand from RFC 5639's constants), and a point and its opposite. -/
theorem test_curve : curveAdd (some curveG) (some curveG) =
      some (0x2282bc382a2f4dfcb95c3495d7b4fd590ad520b3eb6be4d6ec2f80c4e0f70df87c4ba74a09b553ebb427b58df9d59fca,
        0xedda83773ac68735768d14a24f37a57ce9bedbc170921ce4d89dd051728fc3eb4b4ea69ab64fc288f1b29502b6e1d30) ∧
    curveAdd (some curveG) (some (curveG.1, curveP - curveG.2)) = none := by decide +kernel

/-! ### Words written out in the spec (04 to 08, 14 to 16, 20, 22, 24) -/

/-- An X word with only the scope, or only the governing mask. -/
def sc (rm : BitVec 3) : Pfx := xp 0 false rm 0 false
def gov (k : BitVec 3) : Pfx := xp k false 0 0 false

theorem test_decode_integer : decodeWords [0x00CA14FF] = .ok (.addi ⟨np, 20, 20, 0xFF⟩) ∧ decodeWords [0x0A82FFFF] = .ok (.movl ⟨np, 5, 0x7FFF⟩) ∧
    decodeWords [0xFC400002, 0x0A8F2345] = .ok (.movl ⟨⟨none, some 2⟩, 30, 0x2345⟩) ∧
    decodeWords [0xFC000A00, 0x09440907] = .ok (.sel ⟨xp 0 false 0 10 false, 8, 9, 3, true⟩) ∧ decodeWords [0x0109920D] = .ok (.mul ⟨np, 19, 18, 6, true⟩) ∧
    decodeWords [0x06C58902] = .ok (.shli ⟨np, 11, 9, 2⟩) ∧ decodeWords [0x004A152C] = .ok (.add ⟨np, 20, 21, 22, false⟩) := by
  decide +kernel
theorem test_decode_uniform : decodeWords [0x10CA940C] = .ok (.smul ⟨np, 21, 20, 6, false⟩) ∧ decodeWords [0x12CA9501] = .ok (.sshli ⟨np, 21, 21, 1⟩) ∧
    decodeWords [0x100B022A] = .ok (.sadd ⟨np, 22, 2, 21, false⟩) ∧ decodeWords [0x13CB8300] = .ok (.smov ⟨np, 23, 3, 0, false⟩) ∧
    decodeWords [0xFC080000, 0x148A1100] = .ok (.rfl ⟨gov 1, 20, 17, 0, false⟩) := by
  decide +kernel
theorem test_decode_control : decodeWords [0x203FFFFD] = .ok (.bra ⟨np, 0x3FFFFD⟩) ∧ decodeWords [0x20848005] = .ok (.brz ⟨np, 9, 5⟩) ∧
    decodeWords [0xFC180000, 0x2057FFF0] = .ok (.brk ⟨gov 3, 2, true, 0x3FFF0⟩) ∧ decodeWords [0x210003C0] = .ok (.call ⟨np, 0x3C0⟩) ∧
    decodeWords [0x22C00004] = .ok (.wbase ⟨np, 0, 0, 4⟩) ∧ decodeWords [0x23400002] = .ok (.phint ⟨np, 0, 2⟩) ∧
    decodeWords [0x22800000] = .ok (.nop ⟨np, 0, 0, 0, false⟩) ∧ decodeWords [0x23000000] = .ok (.rgn ⟨np, 0, 0, 0⟩) ∧
    decodeWords [0x22000000] = .ok (.exit ⟨np, 0, 0, 0, false⟩) ∧ decodeWords [0xFC800158] = .ok (.pace ⟨0, 3, 5, 0, 0, 0, 0⟩) := by
  decide +kernel
theorem test_decode_masks : decodeWords [0x1811142A] = .ok (.cmp ⟨np, 2, 2, 20, 21, false⟩) ∧ decodeWords [0x184A85FE] = .ok (.cmpi ⟨np, 1, 5, 5, 0x7F, false⟩) ∧
    decodeWords [0x180B1003] = .ok (.cmp ⟨np, 1, 6, 16, 1, true⟩) ∧ decodeWords [0x180C8909] = .ok (.cmp ⟨np, 1, 9, 9, 4, true⟩) ∧
    decodeWords [0x18481000] = .ok (.cmpi ⟨np, 1, 0, 16, 0, false⟩) ∧ decodeWords [0x19180104] = .ok (.kand ⟨np, 3, 0, 1, 2, false⟩) ∧
    decodeWords [0x1B488100] = .ok (.ktov ⟨np, 17, 1, 0, false⟩) ∧ decodeWords [0x32850B00] = .ok (.fredadd ⟨np, 10, 11, 0, false⟩) := by
  decide +kernel
theorem test_decode_float : decodeWords [0x388B9428] = .ok (.fmul ⟨np, 23, 20, 20, false⟩) ∧ decodeWords [0x380C172A] = .ok (.fadd ⟨np, 24, 23, 21, false⟩) ∧
    decodeWords [0xFC000D00, 0x38C50B18] = .ok (.ffma ⟨xp 0 false 0 13 false, 10, 11, 12, false⟩) ∧ decodeWords [0x3AC40930] = .ok (.fcvt ⟨np, 8, 9, 0x30⟩) ∧
    decodeWords [0x3B0E1C1C] = .ok (.icvt ⟨np, 28, 28, 0x1C⟩) ∧ decodeWords [0x3DC29440] = .ok (.qenc ⟨np, 5, 20, 0x40⟩) ∧
    decodeWords [0x480A1500] = .ok (.sfrcp ⟨np, 20, 21, 0⟩) ∧ decodeWords [0x4AC00001] = .ok (.sfwait ⟨np, 0, 0, 1⟩) := by
  decide +kernel
theorem test_decode_memory : decodeWords [0x510A0300] = .ok (.ldB32 ⟨np, 20, 3, 0⟩) ∧ decodeWords [0x504A0500] = .ok (.ldB8 ⟨np, 20, 5, 0⟩) ∧
    decodeWords [0x50C48700] = .ok (.ldB16 ⟨np, 9, 7, 0⟩) ∧ decodeWords [0x52490720] = .ok (.stB32 ⟨np, 18, 7, 32⟩) ∧ decodeWords [0x52048118] = .ok (.stB16 ⟨np, 9, 1, 24⟩) ∧
    decodeWords [0x53048C02] = .ok (.ldsB32 ⟨np, 9, 12, 2⟩) ∧ decodeWords [0x544A1801] = .ok (.stsB128 ⟨np, 20, 24, 1⟩) ∧ decodeWords [0x55490222] = .ok (.stoB32 ⟨np, 18, 2, 17, false⟩) ∧
    decodeWords [0xFC080000, 0x548A1626] = .ok (.ldoB16 ⟨gov 1, 20, 22, 19, false⟩) ∧ decodeWords [0x5881040D] = .ok (.stdlB32 ⟨np, 2, 4, 6, true⟩) := by
  decide +kernel
theorem test_decode_pointers : decodeWords [0x55C20100] = .ok (.ldp ⟨np, 4, 1, 0⟩) ∧ decodeWords [0x56038102] = .ok (.stp ⟨np, 7, 1, 2⟩) ∧
    decodeWords [0x56820406] = .ok (.addai ⟨np, 4, 4, 6⟩) ∧ decodeWords [0xFC400003, 0x56848440] = .ok (.addai ⟨⟨none, some 3⟩, 9, 4, 0x40⟩) ∧
    decodeWords [0x56C40700] = .ok (.mova ⟨np, 8, 7, 0, false⟩) ∧ decodeWords [0x57050700] = .ok (.movav ⟨np, 10, 7, 0, false⟩) ∧
    decodeWords [0x5788040A] = .ok (.cmpa ⟨np, 1, 0, 4, 5, false⟩) ∧ decodeWords [0x57C70710] = .ok (.suba ⟨np, 14, 7, 8, false⟩) ∧
    decodeWords [0x5643040D] = .ok (.adda ⟨np, 6, 4, 6, true⟩) ∧ decodeWords [0x57420005] = .ok (.movva ⟨np, 4, 0, 2, true⟩) := by
  decide +kernel
theorem test_decode_atomics : decodeWords [0xFC018000, 0x6005030F] = .ok (.aadd ⟨sc 3, 10, 3, 7, true⟩) ∧ decodeWords [0x60054318] = .ok (.aaddB64 ⟨np, 10, 0x43, 12, false⟩) ∧
    decodeWords [0xFC020000, 0x62000828] = .ok (.axchg ⟨sc 4, 0, 8, 20, false⟩) ∧ decodeWords [0xFC120000, 0x63800000] = .ok (.rel ⟨xp 2 false 4 0 false, 0, 0, 0, false⟩) ∧
    decodeWords [0xFC020000, 0x63400000] = .ok (.acq ⟨sc 4, 0, 0, 0, false⟩) ∧ decodeWords [0x64000502] = .ok (.cctl ⟨np, 0, 5, 2⟩) := by
  decide +kernel
theorem test_decode_system : decodeWords [0x68000502] = .ok (.fold ⟨np, 0, 5, 2⟩) ∧ decodeWords [0x68400002] = .ok (.unfold ⟨np, 0, 0, 2⟩) ∧
    decodeWords [0x68800000] = .ok (.taskend ⟨np, 0, 0, 0, false⟩) ∧ decodeWords [0x68C40000] = .ok (.age ⟨np, 8, 0, 0, false⟩) ∧
    decodeWords [0x69400003] = .ok (.barw ⟨np, 0, 0, 3⟩) ∧ decodeWords [0x69800A03] = .ok (.bars ⟨np, 0, 10, 3⟩) ∧ decodeWords [0x78000123] = .ok (.trap ⟨np, 0, 0x123⟩) ∧
    decodeWords [0x78400000] = .ok (.ebrk ⟨np, 0, 0, 0, false⟩) ∧ decodeWords [0x78800000] = .ok (.rte ⟨np, 0, 0, 0, false⟩) ∧
    decodeWords [0x78C21000] = .ok (.getsr ⟨np, 4, 0x1000⟩) ∧ decodeWords [0x79032000] = .ok (.setsr ⟨np, 6, 0x2000⟩) ∧
    decodeWords [0x79400919] = .ok (.emit ⟨np, 0, 9, 12, true⟩) := by
  decide +kernel
theorem test_decode_engines : decodeWords [0x6A800C1A] = .ok (.gwait ⟨np, 0, 12, 13, false⟩) ∧ decodeWords [0x70000613] = .ok (.cpy ⟨np, 0, 6, 9, true⟩) ∧
    decodeWords [0xFC080000, 0x69C00005] = .ok (.ginit ⟨gov 1, 0, 0, 2, true⟩) ∧ decodeWords [0x71000704] = .ok (.tres ⟨np, 0, 7, 4⟩) ∧
    decodeWords [0x71808817] = .ok (.jdecl ⟨np, 1, 8, 11, true⟩) ∧ decodeWords [0x71C00001] = .ok (.sign ⟨np, 0, 0, 1⟩) ∧
    decodeWords [0x72000001] = .ok (.jwait ⟨np, 0, 0, 1⟩) ∧ decodeWords [0x724A1513] = .ok (.accrd ⟨np, 20, 21, 0x13⟩) := by
  decide +kernel

/-! ### Ill-formed instructions (04 R70, R73, R75 and the fields of single instructions) -/

/-- The instruction is refused. -/
def ill (i : Instr) : Bool := !i.wf
theorem test_ill_register_classes : ill (.sadd ⟨np, 64, 2, 3, false⟩) ∧ ill (.ldB32 ⟨np, 3, 16, 0⟩) ∧ ill (.ktov ⟨np, 3, 8, 0, false⟩) ∧
    ill (.add ⟨np, 3, 1, 64, true⟩) ∧ (Instr.add ⟨np, 3, 1, 64, false⟩).WellFormed := by decide +kernel
theorem test_ill_pairs_and_quads : ill (.addw ⟨np, 3, 2, 4, false⟩) ∧ ill (.ldB64 ⟨np, 3, 3, 0⟩) ∧ ill (.ldB128 ⟨np, 6, 3, 0⟩) ∧
    (Instr.ldB128 ⟨np, 8, 3, 0⟩).WellFormed := by decide +kernel
theorem test_ill_unused_fields : ill (.clz ⟨np, 3, 1, 2, false⟩) ∧ ill (.nop ⟨np, 0, 0, 0, true⟩) ∧ ill (.rgn ⟨np, 0, 0, 1⟩) ∧ ill (.exit ⟨np, 1, 0, 0, false⟩) := by
  decide +kernel
theorem test_ill_x_words : ill (.rte ⟨gov 1, 0, 0, 0, false⟩) ∧ ill (.add ⟨xp 0 true 0 0 false, 3, 1, 2, false⟩) ∧ ill (.add ⟨xp 0 false 1 0 false, 3, 1, 2, false⟩) ∧
    ill (.fadd ⟨xp 0 false 6 0 false, 3, 1, 2, false⟩) ∧ ill (.add ⟨xp 0 false 0 5 false, 3, 1, 2, false⟩) ∧ ill (.and ⟨xp 0 false 0 0 true, 3, 1, 2, false⟩) ∧
    ill (.add ⟨⟨some ⟨0, false, 0, 0, false, true, false, 0⟩, none⟩, 3, 1, 2, false⟩) ∧ ill (.add ⟨⟨some ⟨0, false, 0, 0, false, false, true, 0⟩, none⟩, 3, 1, 2, false⟩) ∧
    ill (.add ⟨⟨some ⟨0, false, 0, 0, false, false, false, 1⟩, none⟩, 3, 1, 2, false⟩) ∧ ill (.aadd ⟨sc 6, 3, 3, 2, false⟩) ∧
    (Instr.add ⟨xp 1 true 0 0 true, 3, 1, 2, false⟩).WellFormed := by decide +kernel
theorem test_ill_fourth_operand : ill (.acasB64 ⟨xp 0 false 0 5 false, 4, 0x43, 2, false⟩) ∧ (Instr.acasB64 ⟨xp 0 false 0 6 false, 4, 0x43, 2, false⟩).WellFormed := by
  decide +kernel
theorem test_ill_w_words : ill (.shli ⟨⟨none, some 0⟩, 3, 1, 2⟩) ∧ ill (.movl ⟨⟨none, some 0x10000⟩, 3, 0⟩) ∧ (Instr.movl ⟨⟨none, some 0x3F0000⟩, 3, 0⟩).WellFormed ∧
    (Instr.addi ⟨⟨none, some 0x10000⟩, 3, 1, 0⟩).WellFormed := by decide +kernel
theorem test_ill_conditions : ill (.cmp ⟨np, 1, 10, 1, 2, false⟩) ∧ ill (.cmp ⟨np, 0, 2, 1, 2, false⟩) ∧ ill (.cmpi ⟨np, 1, 0, 5, 0x7F, true⟩) ∧ ill (.kand ⟨np, 3, 1, 1, 2, false⟩) ∧
    ill (.cmpa ⟨np, 1, 4, 4, 5, false⟩) := by decide +kernel
theorem test_ill_conversions : ill (.fcvt ⟨np, 8, 9, 0x37⟩) ∧ ill (.icvt ⟨np, 8, 9, 0x01⟩) ∧ ill (.ficvt ⟨np, 8, 9, 0x06⟩) ∧ ill (.fpk ⟨np, 8, 9, 0x12⟩) ∧ ill (.fupk ⟨np, 8, 9, 0x58⟩) ∧
    ill (.qenc ⟨np, 5, 20, 0x10⟩) ∧ ill (.qdec ⟨np, 5, 20, 0x42⟩) := by decide +kernel
theorem test_ill_immediates : ill (.sfrcp ⟨np, 20, 21, 8⟩) ∧ ill (.fold ⟨np, 0, 5, 8⟩) ∧ ill (.barw ⟨np, 0, 0, 16⟩) ∧ ill (.cctl ⟨np, 0, 5, 4⟩) ∧ ill (.sign ⟨np, 0, 0, 8⟩) ∧
    ill (.jdecl ⟨np, 8, 8, 11, true⟩) ∧ ill (.phint ⟨np, 0, 256⟩) ∧ ill (.pref ⟨np, 2, 5, 0⟩) ∧ ill (.aadd ⟨np, 10, 0x43, 12, false⟩) ∧ ill (.aaddB64 ⟨np, 10, 3, 12, false⟩) := by
  decide +kernel
theorem test_ill_special_registers : ill (.getsr ⟨np, 4, 0x7FFF⟩) ∧ ill (.setsr ⟨np, 4, 0x1000⟩) ∧ (Instr.setsr ⟨np, 6, 0x2000⟩).WellFormed := by decide +kernel
/-- A word outside the map, a word of the decode table's space, a reserved bit, an X word and no more. -/
theorem test_decode_refusals : decodeWords [0x0B000000] = .ok (.illegalOpcodeWord np 0x0B000000) ∧ decodeWords [0xE0000000] = .ok (.mappedOpcode np 0xE0000000) ∧
    decodeWords [0x22800001] = .bad (.reserved 0) ∧ decodeWords [0xFC080000, 0x22800001] = .bad (.reserved 1) ∧ decodeWords [0xFC000000] = .more := by
  decide +kernel

/-! ### Single steps (expected values: the rules' own examples) -/

/-- What a step leaves, its results landed; nothing where it does not go on. -/
def ran (i : Instr) (s : State) : State := match exec i s with
  | .next s' => s'.landAll t0
  | _ => s
def vAfter (i : Instr) (s : State) (r : Nat) : Word := ((ran i s).thread t0).vreg r
def pcAfter (i : Instr) (s : State) : DWord := ((ran i s).thread t0).pc

/-- R98: MUL with sat clamps, ABS with sat of the least number. -/
theorem test_saturate : vAfter (.mul ⟨xp 0 false 0 0 true, 5, 1, 2, false⟩) (regs w0 0x10000 0x8000 0) 5 = 0x7FFFFFFF ∧
    vAfter (.abs ⟨xp 0 false 0 0 true, 5, 0, 2, false⟩) (regs w0 0 0x80000000 0) 5 = 0x7FFFFFFF ∧
    vAfter (.abs ⟨np, 5, 0, 2, false⟩) (regs w0 0 0x80000000 0) 5 = 0x80000000 := by decide +kernel
/-- R99's table. -/
theorem test_divide : vAfter (.divs ⟨np, 5, 1, 2, false⟩) (regs w0 0xFFFFFFF9 2 0) 5 = 0xFFFFFFFD ∧ vAfter (.rems ⟨np, 5, 1, 2, false⟩) (regs w0 0xFFFFFFF9 2 0) 5 = 0xFFFFFFFF ∧
    vAfter (.divn ⟨np, 5, 1, 2, false⟩) (regs w0 0xFFFFFFF9 2 0) 5 = 0x7FFFFFFC ∧ vAfter (.remn ⟨np, 5, 1, 2, false⟩) (regs w0 0xFFFFFFF9 2 0) 5 = 1 ∧
    vAfter (.divs ⟨np, 5, 1, 2, false⟩) (regs w0 5 0 0) 5 = 0xFFFFFFFF ∧ vAfter (.rems ⟨np, 5, 1, 2, false⟩) (regs w0 5 0 0) 5 = 5 ∧
    vAfter (.divs ⟨np, 5, 1, 2, false⟩) (regs w0 0x80000000 0xFFFFFFFF 0) 5 = 0x80000000 ∧ vAfter (.rems ⟨np, 5, 1, 2, false⟩) (regs w0 0x80000000 0xFFFFFFFF 0) 5 = 0 := by
  decide +kernel
/-- R100: amounts of 32 and more. -/
theorem test_shift : vAfter (.sra ⟨np, 5, 1, 2, false⟩) (regs w0 0x80000000 40 0) 5 = 0xFFFFFFFF ∧ vAfter (.shl ⟨np, 5, 1, 2, false⟩) (regs w0 1 32 0) 5 = 0 ∧
    vAfter (.rol ⟨np, 5, 1, 2, false⟩) (regs w0 0x80000001 33 0) 5 = 3 := by decide +kernel
/-- R101's examples. -/
theorem test_fields : vAfter (.bfx ⟨np, 5, 1, 2, false⟩) (regs w0 0xDEADBEEF 0x880C 0) 5 = 0xFFFFFFDB ∧
    vAfter (.bfi ⟨np, 3, 1, 2, false⟩) (regs w0 0xAB 0x0808 0x12345678) 3 = 0x1234AB78 ∧
    vAfter (.bfx ⟨np, 5, 1, 2, false⟩) (regs w0 0xDEADBEEF 0x881C 0) 5 = 0xD := by decide +kernel
/-- R102's examples. -/
theorem test_permute : vAfter (.prmb ⟨np, 3, 1, 2, false⟩) (regs w0 0x44332211 0x88776655 0x4567) 3 = 0x55667788 ∧
    vAfter (.prmb ⟨np, 3, 1, 2, false⟩) (regs w0 0x44332211 0x88776655 0xF) 3 = 0x111111FF := by decide +kernel
/-- R71's displacement, R115's CALL, a branch not taken. -/
theorem test_branch : pcAfter (.bra ⟨np, 0x3FFFFD⟩) w0 = 0xFFF4 ∧ pcAfter (.call ⟨np, 0x3C0⟩) w0 = 0x10F00 ∧ ((ran (.call ⟨np, 0x3C0⟩) w0).thread t0).areg 15 = ⟨0x10004, Tether.clear⟩ ∧
    pcAfter (.brz ⟨np, 1, 5⟩) (regs w0 1 0 0) = 0x10004 ∧ pcAfter (.brz ⟨np, 2, 5⟩) (regs w0 1 0 0) = 0x10014 := by decide +kernel
/-- R35, R142, R143: 0.3 in E4M3; R136: the exact zero sum under RDN. -/
theorem test_float : vAfter (.fcvt ⟨np, 5, 1, 0x30⟩) (regs w0 0x3E99999A 0 0) 5 = 0x2A ∧ vAfter (.fpk ⟨np, 3, 1, 0x32⟩) (regs w0 0x3E99999A 0 0x11223344) 3 = 0x112A3344 ∧
    vAfter (.fadd ⟨sc 3, 5, 1, 2, false⟩) (regs w0 0x3F800000 0xBF800000 0) 5 = 0x80000000 ∧ vAfter (.fmul ⟨np, 5, 1, 2, false⟩) (regs w0 0x7F800000 0 0) 5 = 0x7FC00000 := by
  decide +kernel
/-- R138: the order of the zeros, the operand beside a NaN. -/
theorem test_float_min_max : vAfter (.fmin ⟨np, 5, 1, 2, false⟩) (regs w0 0 0x80000000 0) 5 = 0x80000000 ∧ vAfter (.fmax ⟨np, 5, 1, 2, false⟩) (regs w0 0x7FC00001 0x40000000 0) 5 = 0x40000000 := by
  decide +kernel
/-- Eight threads whose v11 hold 2^24, 1, 1, 1 and 0 (R135). -/
def tree : State :=
  let s := (List.range 8).foldl (fun s i => s.modThread ⟨0, 0, i⟩ fun _ => { w0.thread t0 with v := [(11, if i = 0 then 0x4B800000 else if i < 4 then 0x3F800000 else 0)] }) w0
  { s with cur := ⟨0, (List.range 8).map fun i => ⟨0, 0, i⟩, 0x10000, 0x10000, 0x10004⟩ }
/-- R130's example: KAND.K1 with k1 = 0x0F, k2 = 0x5A, an old k3 of 0xFF. -/
theorem test_masks : ((ran (.kand ⟨gov 1, 3, 0, 2, 0, false⟩) (tree.modGroup 0 0 fun g => { g with k := [(1, 0x0F), (2, 0x5A), (3, 0xFF)] })).group 0 0).mask 3 = 0xFA ∧
    ((ran (.kfirst ⟨gov 1, 4, 0, 2, 0, false⟩) (tree.modGroup 0 0 fun g => { g with k := [(1, 0x0F), (2, 0x5A)] })).group 0 0).mask 4 = 0x2 := by decide +kernel
theorem test_tree_sum : vAfter (.fredadd ⟨np, 10, 11, 0, false⟩) tree 10 = 0x4B800001 ∧
    vAfter (.fredadd ⟨gov 1, 10, 11, 0, false⟩) (tree.modGroup 0 0 fun g => { g with k := [(1, 0xF7)] }) 10 = 0x4B800000 := by decide +kernel
/-- R146's example, of a group of 16. -/
def block : State :=
  let s := w0.modTeam 0 fun m => { m with width := 16, groups := m.groups.map fun g => { g with threads := g.threads ++ List.replicate 8 Thread.none } }
  let s := (List.range 16).foldl (fun s i => s.modThread ⟨0, 0, i⟩ fun _ => { w0.thread t0 with v := [(4, nthD 0 [0x3F7851EC, 0x3F400000, 0xBE99999A, 0x3DCCCCCD] i)] }) s
  { s with cur := ⟨0, (List.range 16).map fun i => ⟨0, 0, i⟩, 0x10000, 0x10000, 0x10004⟩ }
theorem test_block_encode : let s := ran (.qenc ⟨np, 5, 4, 0x40⟩) block
    (s.group 0 0).sreg 5 = 0x7F ∧ (List.range 5).map (fun i => ((s.landAll ⟨0, 0, i⟩).thread ⟨0, 0, i⟩).vreg 4) = [7, 6, 0xFFFFFFFE, 1, 0] := by decide +kernel
/-- R109's RFL takes the lowest present thread, not the masked-off ones. -/
theorem test_read_first : ((ran (.rfl ⟨np, 20, 4, 0, false⟩) block).group 0 0).sreg 20 = 0x3F7851EC ∧
    (((ran (.rfl ⟨gov 1, 20, 4, 0, false⟩) (block.modGroup 0 0 fun g => { g with k := [(1, 0xC)] })).landAll ⟨0, 0, 2⟩ ).group 0 0).sreg 20 = 0xBE99999A := by decide +kernel
/-- R221, R225: TRAP enters the handler. -/
theorem test_trap : let s := ran (.trap ⟨np, 0, 0x123⟩) (w0.modCtx 1 fun k => { k with hbase := 0x8000 })
    (s.thread t0).pc = 0x8000 ∧ (s.thread t0).trapPc = 0x10000 ∧ (s.thread t0).sys = true := by decide +kernel
/-- R114: EXIT ends the thread; R113: WBASE moves the window. -/
theorem test_exit_and_window : ((ran (.exit ⟨np, 0, 0, 0, false⟩) w0).thread t0).present = false ∧ ((ran (.wbase ⟨np, 0, 0, 4⟩) (w0.modTeam 0 fun m => { m with vregs := 176 })).thread t0).base = 64 := by decide +kernel
/-- A step fetches, decodes and runs ADD v5, v1, v2. -/
theorem test_step : (match step (({ regs State.reset.programLoaded 7 0xFFFFFFFF 0 with agenda := [] } : State).withFetchWord 32 0x00428104) with
    | .next s => decide ((((s.landAll t0).thread t0).vreg 5 = 6) ∧ (s.thread t0).pc = 0x10004)
    | _ => false) = true := by decide +kernel
/-- The exact values that R150's bounds are measured from, in units of 10^-10, from tables: sin 1, cos 1, tanh 1/2, the
sigmoid of 1, erf 1/2, log2 3, 1/√2 and e. -/
theorem test_elementary_values : [fixSin (fixAngle 1 0), fixCos (fixAngle 1 0), fixTanh (fixOf 1 (-1)), fixSigm false (fixOf 1 0),
    fixErf (fixOf 1 (-1)), fixLog2 3 0, fixRsq 2 0, fixExp fixOne].map (fun x => x * 10000000000 / fixOne) =
    [8414709848, 5403023058, 4621171572, 7310585786, 5204998778, 15849625007, 7071067811, 27182818284] := by decide +kernel
/-- The sine of 10^22, which needs the long constant: -0.8522008497. -/
theorem test_sine_of_large : fixSin (fixAngle 10000000000000000000000 0) * 10000000000 / fixOne = -8522008498 := by decide +kernel

end Sys2Proof.Tests
end

section
/-! SUPPORT. The terms of the statements (`frame`, `goesOn`, `completed`) as rules: frames compose, each operation on the
state has one, and a bundle that completes keeps what `Kept` says. -/

namespace Sys2Proof.Claims

open Sys2Proof.Machine Sys2Proof.Machine.State

/-! ### Frames -/

theorem frame_refl (s : State) (ts : List Tid) (st : State → State) (co : Core → Core) (te : Team → Team)
    (th : Thread → Thread) : frame s s ts st co te th :=
  ⟨rfl, fun _ => rfl, fun _ => rfl, fun _ _ => ⟨rfl, rfl⟩, fun _ _ _ => rfl, fun _ _ => rfl, fun _ => rfl⟩

theorem frame_trans {s s' s'' : State} {ts : List Tid} {st : State → State} {co : Core → Core} {te : Team → Team}
    {th : Thread → Thread} (h : frame s s' ts st co te th) (h' : frame s' s'' ts st co te th) :
    frame s s'' ts st co te th := by
  obtain ⟨mod, core, team, regs, pend, other, thread⟩ := h
  obtain ⟨mod', core', team', regs', pend', other', thread'⟩ := h'
  exact ⟨mod'.trans mod, fun c => (core' c).trans (core c), fun n => (team' n).trans (team n),
    fun n g => ⟨(regs' n g).1.trans (regs n g).1, (regs' n g).2.trans (regs n g).2⟩,
    fun n g hn => (pend' n g hn).trans (pend n g hn), fun u hu => (other' u hu).trans (other u hu),
    fun u => (thread' u).trans (thread u)⟩

/-- A frame in which no thread moved is one for any threads, whatever is cleared of them. -/
theorem frame_widen {s s' : State} {st : State → State} {co : Core → Core} {te : Team → Team}
    (h : frame s s' [] st co te id) (ts : List Tid) (th : Thread → Thread) : frame s s' ts st co te th := by
  obtain ⟨mod, core, team, regs, pend, other, -⟩ := h
  exact ⟨mod, core, team, regs, fun n g _ => pend n g (by simp), fun u _ => other u (by simp),
    fun u => by rw [other u (by simp)]⟩

theorem thread_of_frame {s s' : State} {ts : List Tid} {st : State → State} {co : Core → Core} {te : Team → Team}
    {th : Thread → Thread} (h : frame s s' ts st co te th) {u : Tid} (hu : u ∉ ts) : s'.thread u = s.thread u := by
  obtain ⟨-, -, -, -, -, hother, -⟩ := h
  exact hother u hu

theorem module_of_kept {s s' : State} {ts : List Tid} (h : Kept s s' ts) : module s' = module s := by
  have e := congrArg (fun x : State => { x with cores := [], teams := [], agenda := [], nextId := 0, fresh := 0 }) h.rest
  exact e

theorem frame_of_kept {s s' : State} {ts : List Tid} (h : Kept s s' ts) (st : State → State) (co : Core → Core)
    (te : Team → Team) (th : Thread → Thread) : frame s s' ts st co te th := by
  refine ⟨by rw [module_of_kept h], fun c => ?_, fun n => ?_, fun n g => ⟨h.sreg n g, h.mask n g⟩, h.pend, h.other,
    fun u => congrArg th (h.thread u)⟩
  · have e := congrArg (fun k : Core => co { k with entries := [] }) (h.core c)
    exact e
  · have e := congrArg (fun m : Team => te { m with groups := [] }) (h.team n)
    exact e

theorem onlyRegisters_of_kept {s s' : State} {ts : List Tid} (h : Kept s s' ts) : onlyRegisters s s' ts :=
  frame_of_kept h _ _ _ _

/-- The frame of a change of one team that `te` clears and that leaves its groups. -/
theorem frame_modTeam (s : State) (n : Nat) (f : Team → Team) (st : State → State) (co : Core → Core) (te : Team → Team)
    (hg : ∀ m, (f m).groups = m.groups) (hf : ∀ m, te { f m with groups := [] } = te { m with groups := [] }) :
    frame s (s.modTeam n f) [] st co te id := by
  have group : ∀ k g, (s.modTeam n f).group k g = s.group k g := fun k g =>
    group_modTeam_proj s n k f (fun l => nthD Group.none l g) fun m => by rw [hg]
  refine ⟨rfl, fun _ => rfl, fun k => ?_, fun k g => by rw [group]; exact ⟨rfl, rfl⟩, fun k g _ => by rw [group],
    fun u _ => by unfold State.thread; rw [group], fun u => by unfold State.thread; rw [group]⟩
  exact team_modTeam_proj s n k f (fun m => te { m with groups := [] }) hf

/-- The frame of a change of one core that `co` clears. -/
theorem frame_modCore (s : State) (c : Nat) (f : Core → Core) (st : State → State) (co : Core → Core) (te : Team → Team)
    (hf : ∀ k, co { f k with entries := [] } = co { k with entries := [] }) : frame s (s.modCore c f) [] st co te id := by
  refine ⟨rfl, fun d => ?_, fun _ => rfl, fun _ _ => ⟨rfl, rfl⟩, fun _ _ _ => rfl, fun _ _ => rfl, fun _ => rfl⟩
  rw [core_modCore]
  split
  · next h => rw [hf, h]
  · rfl

/-- The frame of a change of one of the threads that `th` clears. -/
theorem frame_modThread (s : State) (t : Tid) (f : Thread → Thread) (st : State → State) (co : Core → Core)
    (te : Team → Team) (th : Thread → Thread) (hf : ∀ x, th (bare (f x)) = th (bare x)) :
    frame s (s.modThread t f) [t] st co te th := by
  refine ⟨rfl, fun _ => rfl, fun n => ?_, fun n g => ⟨?_, ?_⟩, fun n g _ => ?_, fun u hu => ?_, fun u => ?_⟩
  · exact congrArg te (team_modThread_proj s t f n (fun m => { m with groups := [] }) fun _ _ => rfl)
  · exact group_modThread_proj s t f n g (fun x => x.s) fun _ _ => rfl
  · exact group_modThread_proj s t f n g (fun x => x.k) fun _ _ => rfl
  · exact group_modThread_proj s t f n g (fun x => x.pend) fun _ _ => rfl
  · exact thread_modThread_ne s f (by simpa [eq_comm] using hu)
  · exact thread_modThread_proj s t u f (fun x => th (bare x)) hf

end Sys2Proof.Claims

namespace Sys2Proof.Machine

open Sys2Proof.Claims

namespace State

/-! ### Threads that are present -/

theorem nthD_present {l : List Thread} {i : Nat} (h : (nthD Thread.none l i).present = true) : i < l.length := by
  refine Nat.lt_of_not_le fun hl => ?_
  rw [nthD_of_le _ _ _ hl] at h
  exact absurd h (by decide)

/-- A present thread has a place. -/
theorem here_of_present {s : State} {t : Tid} (h : (s.thread t).present = true) : s.Here t := by
  have hl := nthD_present h
  refine ⟨Classical.byContradiction fun hn => ?_, hl⟩
  rw [group_of_not_has s hn] at hl
  simp [Group.none] at hl

theorem governed_of_alone {s : State} {i : Instr} {t : Tid} (h : alone s i t) : s.governed t i = true := by
  obtain ⟨-, -, hgov, -⟩ := h
  exact hgov

theorem here_of_alone {s : State} {i : Instr} {t : Tid} (h : alone s i t) : s.Here t :=
  (here_of_governed s t i (governed_of_alone h)).1

theorem present_of_alone {s : State} {i : Instr} {t : Tid} (h : alone s i t) : (s.thread t).present = true := by
  obtain ⟨-, -, hp⟩ := here_of_governed s t i (governed_of_alone h)
  exact hp

/-- The bit of a present thread in mask k0. -/
theorem presentFrom_of_present (n : Nat) (l : List Thread) (i : Nat) (h : (nthD Thread.none l i).present = true)
    (hi : n + i < 64) : (presentFrom n l).getLsbD (n + i) = true := by
  induction l generalizing n i with
  | nil => simp [nthD, Thread.none] at h
  | cons x l ih =>
    rw [presentFrom, BitVec.getLsbD_or, Bool.or_eq_true]
    cases i with
    | zero =>
      have hx : x.present = true := h
      have hn : n < 64 := by simpa using hi
      left
      simp [hx, bit64, hn]
    | succ i =>
      right
      have := ih (n + 1) i h (by omega)
      rwa [show n + 1 + i = n + (i + 1) by omega] at this

/-! ### A bundle of one thread that takes part -/

theorem perThread_alone {s : State} {i : Instr} {t : Tid} (h : alone s i t) (body : State → Tid → Res) :
    s.perThread i body = settle t i false (body s t) := by
  obtain ⟨hcur, hdecode, hgov, hreg⟩ := h
  exact perThread_one s i body t hcur hdecode hgov hreg

/-- Alone, a thread has nobody to wait for a turn of (08 R181). -/
theorem perIndex_one {s : State} {t : Tid} (h : s.cur.threads = [t]) (i : Instr) (body : State → Tid → Res) :
    s.perIndex i body = share i false body s t := by
  unfold perIndex
  rw [h]
  rfl

theorem perIndex_alone {s : State} {i : Instr} {t : Tid} (h : alone s i t) (body : State → Tid → Res) :
    s.perIndex i body = settle t i false (body s t) := by
  obtain ⟨hcur, hdecode, hgov, hreg⟩ := h
  rw [perIndex_one hcur, share_takesPart s i false body t hdecode hgov hreg]

/-! ### Where a thread goes on -/

theorem goesOn_retire {s s' : State} {t : Tid} (h : s'.Here t) (hc : s'.cycle = s.cycle)
    (hp : (s'.thread t).pace = (s.thread t).pace) (pc : DWord) (ends : Bool) :
    goesOn s (s'.retire t pc ends) t pc ends := by
  obtain ⟨h1, h2, h3, h4⟩ := thread_retire s' t pc ends h
  exact ⟨h1, h2, by rw [h3, hc], by rw [h4, hp]⟩

/-- The results under way after a bundle has completed were so before. -/
theorem pend_retire_sub (s : State) (t : Tid) (pc : DWord) (ends : Bool) {n g : Nat} {e : Pend}
    (h : e ∈ ((s.retire t pc ends).group n g).pend) : e ∈ (s.group n g).pend := by
  obtain ⟨q, -, hq⟩ := pend_retire s t pc ends n g
  rw [hq] at h
  exact (List.mem_filter.mp h).1

theorem thread_beginRegion {s : State} {t : Tid} (h : s.Here t) (entry : DWord) :
    (s.beginRegion t entry).thread t = { s.thread t with region := entry, rgncnt := (s.thread t).rgncnt + 1 } :=
  thread_modThread_self s _ h

theorem pend_beginRegion (s : State) (t : Tid) (entry : DWord) (n g : Nat) :
    ((s.beginRegion t entry).group n g).pend = (s.group n g).pend :=
  group_modThread_proj s t _ _ _ (fun x => x.pend) fun _ _ => rfl

/-- A bundle completes in `s'`, which differs from `s` as `st`, `co` and `te` allow and in the thread's region. -/
theorem completed_retire {s s' : State} {t : Tid} {st : State → State} {co : Core → Core} {te : Team → Team} {region : Bool}
    (hf : frame s s' [t] st co te fun x => { x with region := 0, rgncnt := 0 }) (hh : s'.Here t) (hc : s'.cycle = s.cycle)
    (hn : s'.cur = s.cur) (hq : (s'.groupOf t).pend = (s.groupOf t).pend) (hp : (s'.thread t).pace = (s.thread t).pace)
    (hr : (s'.thread t).region = if region then s.cur.next else (s.thread t).region)
    (hi : (s'.thread t).rgncnt = if region then (s.thread t).rgncnt + 1 else (s.thread t).rgncnt) :
    completed region s (s'.retire t s'.cur.next false) t st co te := by
  have hk := Kept.retire s' t [t] (by simp) s'.cur.next false
  refine ⟨?_, fun e he => Or.inl ?_, ?_, ?_, frame_trans hf (frame_of_kept hk _ _ _ _)⟩
  · rw [hn]; exact goesOn_retire hh hc hp _ _
  · rw [← hq]; exact pend_retire_sub _ _ _ _ he
  · rw [hk.proj (fun x => x.region) (fun _ => rfl) t, hr]
  · rw [hk.proj (fun x => x.rgncnt) (fun _ => rfl) t, hi]

/-- What stands when a per-thread bundle has completed whose effect is a change of the state that moves no thread: the
thread goes on, and the rest is as the effect left it. -/
theorem completed_settle {s s' : State} {i : Instr} {t : Tid} {st : State → State} {co : Core → Core} {te : Team → Team}
    (hf : frame s s' [] st co te id) (hp : (s.thread t).present = true) (hc : s'.cycle = s.cycle) (hn : s'.cur = s.cur) :
    completed i.info.region s (settle t i false (.done s')) t st co te := by
  obtain ⟨-, -, -, -, hpend, -, -⟩ := id hf
  have ht : s'.thread t = s.thread t := thread_of_frame hf (by simp)
  have hpend : (s'.groupOf t).pend = (s.groupOf t).pend := hpend _ _ (by simp)
  have here : s'.Here t := here_of_present (by rw [ht]; exact hp)
  unfold settle
  dsimp only
  cases hr : i.info.region
  · rw [if_neg (by simp)]
    exact completed_retire (frame_widen hf _ _) here hc hn hpend (by rw [ht]) (by rw [ht]; rfl) (by rw [ht]; rfl)
  · rw [if_pos rfl]
    have hb := thread_beginRegion here s'.cur.next
    refine completed_retire (frame_trans (frame_widen hf _ _) (frame_modThread s' t _ _ _ _ _ fun _ => rfl))
      ((here_modThread s' t t _).mpr here) hc hn ((pend_beginRegion s' t _ _ _).trans hpend) ?_ ?_ ?_
    · rw [hb, ht]
    · rw [hb, hn]; rfl
    · rw [hb, ht]; rfl

end State

end Sys2Proof.Machine
end

section
/-! SUPPORT. What the operations around a completing bundle leave: a team, a core and the module beside issue tables;
acquires, waits, convergent bundles whose threads all take part. -/

namespace Sys2Proof.Machine

open Sys2Proof.Claims

namespace State

/-! ### Lists -/

theorem modAt_getElem? {α : Type} (f : α → α) (i : Nat) (l : List α) (j : Nat) :
    (modAt f i l)[j]? = if i = j then l[j]?.map f else l[j]? := by
  induction l generalizing i j with
  | nil => cases i <;> simp [modAt]
  | cons x l ih => cases i <;> cases j <;> simp [modAt, ih]

theorem nthD_of_getElem? {α : Type} (d : α) {l : List α} {i : Nat} {x : α} (h : l[i]? = some x) : nthD d l i = x := by
  induction l generalizing i with
  | nil => simp at h
  | cons y l ih =>
    cases i with
    | zero => simpa [nthD] using h
    | succ i => exact ih (by simpa using h)

theorem mem_of_mem_distinct {α : Type} [DecidableEq α] {l : List α} {x : α} (h : x ∈ distinct l) : x ∈ l := by
  induction l with
  | nil => simp [distinct] at h
  | cons y l ih =>
    rcases List.mem_cons.mp h with h | h
    · simp [h]
    · exact List.mem_cons_of_mem _ (ih (List.mem_filter.mp h).1)

/-- A list of one element over and over is that element, without repeats. -/
theorem distinct_eq_singleton {α : Type} [DecidableEq α] {l : List α} {x : α} (hne : l ≠ []) (h : ∀ y ∈ l, y = x) :
    distinct l = [x] := by
  cases l with
  | nil => exact absurd rfl hne
  | cons y l =>
    obtain rfl := h y (by simp)
    rw [distinct, List.cons.injEq, List.filter_eq_nil_iff]
    exact ⟨rfl, fun z hz => by simpa using h z (List.mem_cons_of_mem _ (mem_of_mem_distinct hz))⟩

/-! ### Teams, cores and the module after a bundle -/

theorem Kept.teamProj {s s' : State} {ts : List Tid} (h : Kept s s' ts) {β : Type} (p : Team → β)
    (hp : ∀ m l, p { m with groups := l } = p m) (n : Nat) : p (s'.team n) = p (s.team n) := by
  rw [← h.team n]; exact (hp _ _).symm

theorem Kept.coreProj {s s' : State} {ts : List Tid} (h : Kept s s' ts) {β : Type} (p : Core → β)
    (hp : ∀ k l, p { k with entries := l } = p k) (c : Nat) : p (s'.core c) = p (s.core c) := by
  rw [← h.core c]; exact (hp _ _).symm

theorem team_settle_done {β : Type} (p : Team → β) (hp : ∀ m l, p { m with groups := l } = p m) (s : State) (t : Tid)
    (i : Instr) (ends : Bool) (n : Nat) : p ((settle t i ends (.done s)).team n) = p (s.team n) := by
  unfold settle
  dsimp only
  rw [(Kept.retire _ t [t] (by simp) _ ends).teamProj p hp]
  split
  · exact team_modThread_proj s t _ n p hp
  · rfl

theorem core_settle_done {β : Type} (p : Core → β) (hp : ∀ k l, p { k with entries := l } = p k) (s : State) (t : Tid)
    (i : Instr) (ends : Bool) (c : Nat) : p ((settle t i ends (.done s)).core c) = p (s.core c) := by
  unfold settle
  dsimp only
  rw [(Kept.retire _ t [t] (by simp) _ ends).coreProj p hp]
  split <;> rfl

theorem mem_settle_done (s : State) (t : Tid) (i : Instr) (ends : Bool) : (settle t i ends (.done s)).mem = s.mem := by
  unfold settle
  dsimp only
  rw [(Kept.retire _ t [t] (by simp) _ ends).field (fun x => x.mem) fun _ _ _ _ _ _ => rfl]
  split <;> rfl

/-! ### Acquires (07 R177) -/

theorem dropNotices_eq (l : List L1Line) (s : State) (c : Nat) :
    ∃ a f, l.foldl (fun s x => if x.given then s.soon 2048 .dropNotice { core := c, addr := x.line } else s) s =
      { s with agenda := a, fresh := f } := by
  induction l generalizing s with
  | nil => exact ⟨s.agenda, s.fresh, rfl⟩
  | cons x l ih =>
    rw [List.foldl_cons]
    split
    · obtain ⟨a, f, e⟩ := ih (s.soon 2048 .dropNotice { core := c, addr := x.line })
      exact ⟨a, f, e.trans rfl⟩
    · exact ih s

/-- An acquire of up to cluster scope changes L1 lines, and makes drop notices due. -/
theorem acquire_eq (s : State) (t : Tid) {scope : Nat} (h : scope ≤ 3) :
    ∃ cs a f, s.acquire t scope = { s with cores := cs, agenda := a, fresh := f } := by
  unfold acquire dropL1
  dsimp only
  rw [if_pos h]
  split
  · exact ⟨s.cores, s.agenda, s.fresh, rfl⟩
  · split
    · exact ⟨s.cores, s.agenda, s.fresh, rfl⟩
    · obtain ⟨a, f, e⟩ := dropNotices_eq _ (s.modCore _ _) _
      exact ⟨_, a, f, e.trans rfl⟩

theorem acquire_thread (s : State) (t u : Tid) {scope : Nat} (h : scope ≤ 3) : (s.acquire t scope).thread u = s.thread u := by
  obtain ⟨cs, a, f, e⟩ := acquire_eq s t h
  rw [e]; rfl

theorem acquire_team (s : State) (t : Tid) {scope : Nat} (h : scope ≤ 3) (n : Nat) :
    (s.acquire t scope).team n = s.team n := by
  obtain ⟨cs, a, f, e⟩ := acquire_eq s t h
  rw [e]; rfl

theorem acquire_mem (s : State) (t : Tid) {scope : Nat} (h : scope ≤ 3) : (s.acquire t scope).mem = s.mem := by
  obtain ⟨cs, a, f, e⟩ := acquire_eq s t h
  rw [e]

theorem frame_acquire (s : State) (t : Tid) {scope : Nat} (h : scope ≤ 3) (te : Team → Team) :
    frame s (s.acquire t scope) [] id (fun _ => Core.reset) te id := by
  obtain ⟨cs, a, f, e⟩ := acquire_eq s t h
  rw [e]
  exact ⟨rfl, fun _ => rfl, fun _ => rfl, fun _ _ => ⟨rfl, rfl⟩, fun _ _ _ => rfl, fun _ _ => rfl, fun _ => rfl⟩

/-- The bundle of a present thread ends with an acquire and nothing else. -/
theorem completed_acquire {s : State} {i : Instr} {t : Tid} (h : (s.thread t).present = true) {scope : Nat} (hs : scope ≤ 3) :
    completed i.info.region (s.acquire t scope) (settle t i false (.done (s.acquire t scope))) t id id id :=
  completed_settle (frame_refl _ _ _ _ _ _) (by rw [acquire_thread s t t hs]; exact h) rfl rfl

/-! ### Releases and waits -/

theorem afterRelease_done {s s1 : State} {t : Tid} {scope : Nat} (h : s.release t scope = .done s1) (k : State → Res) :
    s.afterRelease t scope k = k s1 := by
  unfold afterRelease; rw [h]

/-- A thread begins to wait while its team is not to be saved (19 R329). -/
theorem setWait_eq {s : State} {t : Tid} (h : (s.team t.team).request = none) (w : Wait) :
    s.setWait t w = s.modThread t fun x => { x with wait := w, reply := .none, sent := w.noted x.sent } := by
  unfold setWait; rw [h]; rfl

theorem Kept.setWait {s : State} {t : Tid} (h : (s.team t.team).request = none) (w : Wait) : Kept s (s.setWait t w) [t] := by
  rw [setWait_eq h]
  exact Kept.moved s t [t] (by simp) _ fun _ => rfl

theorem thread_setWait {s : State} {t : Tid} (h : (s.team t.team).request = none) (hh : s.Here t) (w : Wait) :
    ((s.setWait t w).thread t).wait = w ∧ ((s.setWait t w).thread t).pc = (s.thread t).pc := by
  rw [setWait_eq h, thread_modThread_self s _ hh]
  exact ⟨rfl, rfl⟩

/-! ### Convergent bundles whose threads all take part (05 R105) -/

theorem groups_together {s : State} {i : Instr} {n g : Nat} {ts : List Tid} (h : together s i n g ts)
    (key : Nat × Nat → Nat) : sortBy key (distinct (ts.map fun t => (t.team, t.grp))) = [(n, g)] := by
  obtain ⟨-, hne, -, hall⟩ := h
  rw [distinct_eq_singleton (x := (n, g)) (by simpa using hne)]
  · rfl
  · simp only [List.mem_map]
    rintro _ ⟨t, ht, rfl⟩
    obtain ⟨hn, hg, -⟩ := hall t ht
    rw [hn, hg]

theorem participants_together {s : State} {i : Instr} {n g : Nat} {ts : List Tid} (h : together s i n g ts) :
    s.participants i n g = ts := by
  obtain ⟨hts, -, -, hall⟩ := h
  unfold participants
  rw [hts, List.filter_eq_self]
  intro t ht
  obtain ⟨hn, hg, hd, hk, -⟩ := hall t ht
  simp [hn, hg, hd, hk]

/-- Unless it is RDL, a convergent bundle reads the vector registers of threads that take part, none of which is bound to
a pending token. -/
theorem readers_together {s : State} {i : Instr} {n g : Nat} {ts : List Tid} (h : together s i n g ts)
    (hi : ∀ f, i ≠ .rdl f) : (s.readers i ts).findSome? (fun t => s.pendingReg t i) = none := by
  obtain ⟨-, -, -, hall⟩ := h
  rw [List.findSome?_eq_none_iff]
  intro t ht
  have hin : t ∈ ts := by
    unfold readers at ht
    split at ht
    · simp only [List.mem_singleton] at ht
      simp [ht]
    · exact absurd rfl (hi _)
    · exact ht
  obtain ⟨-, -, -, -, hp⟩ := hall t hin
  exact hp

/-- The threads of a group that all take part execute a convergent bundle once, and complete it one after another. -/
theorem convergeGroup_together {s s' : State} {i : Instr} {n g : Nat} {ts : List Tid} (h : together s i n g ts)
    (hi : ∀ f, i ≠ .rdl f) {body : State → Nat → Nat → List Tid → ConvRes} (hb : body s n g ts = .done s') :
    convergeGroup i body s n g = ts.foldl (fun s t => settle t i false (.done s)) s' := by
  have hne : ts.isEmpty = false := by simpa using h.2.1
  simp only [convergeGroup, participants_together h, hne, Bool.false_eq_true, if_false, readers_together h hi, hb]

/-- No thread of such a bundle passes it or traps at its decoding. -/
theorem apart_together {s : State} {i : Instr} {n g : Nat} {ts : List Tid} (h : together s i n g ts) :
    ts.filter (fun t => (s.decodeTrap t i).isSome || !s.governed t i) = [] := by
  rw [List.filter_eq_nil_iff]
  intro t ht
  obtain ⟨-, -, -, hall⟩ := h
  obtain ⟨-, -, hd, hk, -⟩ := hall t ht
  simp [hd, hk]

theorem converge_together {s s' : State} {i : Instr} {n g : Nat} {ts : List Tid} (h : together s i n g ts)
    (hi : ∀ f, i ≠ .rdl f) {body : State → Nat → Nat → List Tid → ConvRes} (hb : body s n g ts = .done s') :
    s.converge i body = ts.foldl (fun s t => settle t i false (.done s)) s' := by
  simp only [converge, h.1, groups_together h, apart_together h, List.foldl_cons, List.foldl_nil,
    convergeGroup_together h hi hb]

theorem settle_done {i : Instr} (hr : i.info.region = false) (s : State) (t : Tid) (ends : Bool) :
    settle t i ends (.done s) = s.retire t s.cur.next ends := by
  simp only [settle, hr, Bool.false_eq_true, if_false]

/-- Threads that complete a bundle without a region go on at the same word. -/
theorem foldl_settle_done {i : Instr} (hr : i.info.region = false) (ts : List Tid) (s : State) (pc : DWord)
    (hpc : s.cur.next = pc) :
    ts.foldl (fun s t => settle t i false (.done s)) s = ts.foldl (fun s t => s.retire t pc false) s := by
  induction ts generalizing s with
  | nil => rw [List.foldl_nil, List.foldl_nil]
  | cons t ts ih =>
    have hcur : (s.retire t pc false).cur.next = pc := by
      rw [(Kept.retire s t [t] (List.mem_singleton_self t) pc false).cur, hpc]
    show ts.foldl _ (settle t i false (.done s)) = ts.foldl _ (s.retire t pc false)
    rw [settle_done hr, hpc]
    exact ih (s.retire t pc false) hcur

theorem goesOn_retireAll {ts : List Tid} (hd : ts.Nodup) (s : State) (pc : DWord) (ends : Bool) {t : Tid} (ht : t ∈ ts)
    (hh : s.Here t) : goesOn s (ts.foldl (fun s t => s.retire t pc ends) s) t pc ends := by
  induction ts generalizing s with
  | nil => simp at ht
  | cons u us ih =>
    obtain ⟨hu, hus⟩ := List.nodup_cons.mp hd
    have hk := Kept.retire s u [u] (by simp) pc ends
    rw [List.foldl_cons]
    by_cases htu : t = u
    · subst htu
      unfold goesOn
      rw [(Kept.retireAll us us (fun _ h => h) (s.retire t pc ends) pc ends).other t hu]
      exact goesOn_retire hh rfl rfl pc ends
    · have hus' : t ∈ us := (List.mem_cons.mp ht).resolve_left htu
      have hother : (s.retire u pc ends).thread t = s.thread t := hk.other t (by simpa using htu)
      have := ih hus (s.retire u pc ends) hus' ((hk.here t).mpr hh)
      unfold goesOn at this ⊢
      rwa [hk.cycle, hother] at this

theorem nodup_together {s : State} {i : Instr} {n g : Nat} {ts : List Tid} (h : together s i n g ts) : ts.Nodup := by
  obtain ⟨-, -, hrising, -⟩ := h
  exact hrising.imp fun hlt he => absurd (congrArg Tid.thr he) (Nat.ne_of_lt hlt)

theorem present_of_together {s : State} {i : Instr} {n g : Nat} {ts : List Tid} (h : together s i n g ts) {t : Tid}
    (ht : t ∈ ts) : (s.thread t).present = true := by
  obtain ⟨-, -, -, hall⟩ := h
  obtain ⟨-, -, -, hgov, -⟩ := hall t ht
  obtain ⟨-, -, hp⟩ := here_of_governed s t i hgov
  exact hp

end State

end Sys2Proof.Machine
end

section
/-! Barriers (01 R13, 08 R190). -/

namespace Sys2Proof.Machine

open Sys2Proof.Claims

namespace State

theorem count_eq_afterArrival (x : Barrier) : count x = afterArrival x := by
  unfold count afterArrival; split <;> rfl

/-- Changing a barrier of a team changes that barrier of its list. -/
theorem barriers_modTeam (s : State) (n b : Nat) (f : Barrier → Barrier) :
    ((s.modTeam n fun m => { m with barriers := modAt f b m.barriers }).team n).barriers = modAt f b (s.team n).barriers := by
  rw [team_modTeam]
  split
  · rfl
  · next h => rw [team_of_le s n (by simpa using h)]; cases b <;> rfl

theorem frame_barriers (s : State) (n b : Nat) (f : Barrier → Barrier) (co : Core → Core) :
    frame s (s.modTeam n fun m => { m with barriers := modAt f b m.barriers }) [] id co (fun m => { m with barriers := [] }) id :=
  frame_modTeam s n _ id co _ (fun _ => rfl) fun _ => rfl

/-- An arrival counts at its barrier, and at no other. -/
theorem barriers_arrive {s : State} {n b : Nat} {x : Barrier} (h : (s.team n).barriers[b]? = some x) :
    ((s.arrive n b).team n).barriers[b]? = some (afterArrival x) ∧
    ∀ k, k ≠ b → ((s.arrive n b).team n).barriers[k]? = (s.team n).barriers[k]? := by
  unfold arrive
  rw [barriers_modTeam]
  refine ⟨?_, fun k hk => ?_⟩
  · rw [modAt_getElem?, if_pos rfl, h, Option.map_some, count_eq_afterArrival]
  · rw [modAt_getElem?, if_neg (Ne.symm hk)]

theorem barrier_of_getElem? {s : State} {n b : Nat} {x : Barrier} (h : (s.team n).barriers[b]? = some x) :
    s.barrier n b = x := nthD_of_getElem? _ h

theorem request_arrive (s : State) (n b k : Nat) : ((s.arrive n b).team k).request = (s.team k).request :=
  team_modTeam_proj s n k _ (fun m => m.request) fun _ => rfl

theorem thread_arrive (s : State) (n b : Nat) (t : Tid) : (s.arrive n b).thread t = s.thread t :=
  thread_of_frame (frame_barriers s n b count id) (by simp)

/-- A phase is complete after an arrival just where it was the last one expected. -/
theorem turns_afterArrival (x : Barrier) : (afterArrival x).turns = x.turns ↔ x.arrived + 1 ≠ x.expect := by
  unfold afterArrival
  split <;> simp_all

theorem bara_completes (f : IF) (s s1 : State) (t : Tid) (x : Barrier) (ha : alone s (.bara f) t)
    (hr : s.release t 2 = .done s1) (hp : (s1.thread t).present = true)
    (hx : (s1.team t.team).barriers[f.imm.toNat]? = some x) :
    ∃ s', exec (.bara f) s = .next s' ∧ completed true s1 s' t id id (fun m => { m with barriers := [] }) ∧
      (s'.team t.team).barriers[f.imm.toNat]? = some (afterArrival x) ∧
      ∀ k, k ≠ f.imm.toNat → (s'.team t.team).barriers[k]? = (s1.team t.team).barriers[k]? := by
  obtain ⟨hself, hother⟩ := barriers_arrive hx
  have hteam := team_settle_done (fun m => m.barriers) (fun _ _ => rfl) (s1.arrive t.team f.imm.toNat) t (.bara f) false t.team
  refine ⟨settle t (.bara f) false (.done (s1.arrive t.team f.imm.toNat)), ?_, ?_, ?_, ?_⟩
  · show Host.Outcome.next (s.perIndex _ _) = _
    rw [perIndex_alone ha, afterRelease_done hr]
  · exact completed_settle (frame_barriers s1 _ _ count id) hp rfl rfl
  · rw [hteam]; exact hself
  · intro k hk; rw [hteam]; exact hother k hk

/-- What BARW comes to once its release is done: an arrival, then the end of the phase or the wait for it. -/
theorem exec_barw_arrives {f : IF} {s s1 : State} {t : Tid} (ha : alone s (.barw f) t)
    (hw : ∀ n ph, (s.thread t).wait ≠ .barrier n ph) (hr : s.release t 2 = .done s1) {x : Barrier}
    (hx : (s1.team t.team).barriers[f.imm.toNat]? = some x) :
    exec (.barw f) s = .next (settle t (.barw f) false (if x.arrived + 1 = x.expect
      then .done ((s1.arrive t.team f.imm.toNat).acquire t 2)
      else .hold (s1.arrive t.team f.imm.toNat) (.barrier f.imm.toNat x.turns))) := by
  show Host.Outcome.next (s.perIndex _ _) = _
  rw [perIndex_alone ha]
  congr 2
  split
  · next n ph h => exact absurd h (hw n ph)
  · rw [afterRelease_done hr]
    dsimp only
    rw [barrier_of_getElem? hx, barrier_of_getElem? (barriers_arrive hx).1]
    have ht := turns_afterArrival x
    by_cases hl : x.arrived + 1 = x.expect
    · rw [if_pos hl, if_neg (fun h => ht.mp h hl)]
    · rw [if_neg hl, if_pos (ht.mpr hl)]

theorem barw_arrives (f : IF) (s s1 : State) (t : Tid) (x : Barrier) (ha : alone s (.barw f) t)
    (hw : ∀ n ph, (s.thread t).wait ≠ .barrier n ph) (hr : s.release t 2 = .done s1) (hp : (s1.thread t).present = true)
    (hx : (s1.team t.team).barriers[f.imm.toNat]? = some x) (hq : (s1.team t.team).request = none) :
    ∃ s', exec (.barw f) s = .next s' ∧ (s'.team t.team).barriers[f.imm.toNat]? = some (afterArrival x) ∧
      (∀ k, k ≠ f.imm.toNat → (s'.team t.team).barriers[k]? = (s1.team t.team).barriers[k]?) ∧ s'.mem = s1.mem ∧
      if x.arrived + 1 = x.expect then goesOn s1 s' t s1.cur.next false ∧ (s'.thread t).region = s1.cur.next
      else (s'.thread t).wait = .barrier f.imm.toNat x.turns ∧ (s'.thread t).pc = (s1.thread t).pc := by
  obtain ⟨hself, hother⟩ := barriers_arrive hx
  have hthread := thread_arrive s1 t.team f.imm.toNat t
  refine ⟨_, exec_barw_arrives ha hw hr hx, ?_⟩
  by_cases hl : x.arrived + 1 = x.expect
  · rw [if_pos hl, if_pos hl]
    have hb : ((settle t (.barw f) false (.done ((s1.arrive t.team f.imm.toNat).acquire t 2))).team t.team).barriers =
        ((s1.arrive t.team f.imm.toNat).team t.team).barriers := by
      rw [team_settle_done (fun m => m.barriers) (fun _ _ => rfl), acquire_team _ t (by decide)]
    obtain ⟨cs, a, fr, e⟩ := acquire_eq (s1.arrive t.team f.imm.toNat) t (scope := 2) (by decide)
    obtain ⟨hgo, -, hreg, -⟩ := completed_settle (i := .barw f) (frame_trans (frame_barriers s1 t.team f.imm.toNat count _)
      (frame_acquire (s1.arrive t.team f.imm.toNat) t (scope := 2) (by decide) _)) hp (by rw [e]; rfl) (by rw [e]; rfl)
    refine ⟨by rw [hb]; exact hself, fun k hk => by rw [hb]; exact hother k hk, ?_, hgo, hreg⟩
    rw [mem_settle_done, acquire_mem _ t (by decide)]; rfl
  · rw [if_neg hl, if_neg hl]
    have hq' : ((s1.arrive t.team f.imm.toNat).team t.team).request = none := by rw [request_arrive]; exact hq
    have hk := Kept.setWait hq' (.barrier f.imm.toNat x.turns)
    have hb := hk.teamProj (fun m => m.barriers) (fun _ _ => rfl) t.team
    obtain ⟨hwait, hpc⟩ := thread_setWait hq' (here_of_present (by rw [hthread]; exact hp)) (.barrier f.imm.toNat x.turns)
    exact ⟨by rw [← hself, ← hb]; rfl, fun k hk => by rw [← hother k hk, ← hb]; rfl,
      hk.field (fun x => x.mem) fun _ _ _ _ _ _ => rfl, hwait, by rw [← hthread]; exact hpc⟩

theorem barw_goesOn (f : IF) (s : State) (t : Tid) (n ph : Nat) (x : Barrier) (ha : alone s (.barw f) t)
    (hw : (s.thread t).wait = .barrier n ph) (hx : (s.team t.team).barriers[f.imm.toNat]? = some x) (hph : x.turns ≠ ph) :
    ∃ s', exec (.barw f) s = .next s' ∧ completed true (s.acquire t 2) s' t id id id := by
  refine ⟨settle t (.barw f) false (.done (s.acquire t 2)), ?_, completed_acquire (present_of_alone ha) (by decide)⟩
  show Host.Outcome.next (s.perIndex _ _) = _
  rw [perIndex_alone ha]
  simp only [hw, barrier_of_getElem? hx, if_neg hph]

theorem bars_completes (f : IF) (s : State) (n g : Nat) (ts : List Tid) (x : Barrier) (hts : together s (.bars f) n g ts)
    (hx : (s.team n).barriers[f.imm.toNat]? = some x) (h0 : x.arrived = 0)
    (h1 : 1 ≤ ((s.group n g).sreg f.a.toNat).toNat) (h2 : ((s.group n g).sreg f.a.toNat).toNat ≤ 2048) :
    ∃ s', exec (.bars f) s = .next s' ∧ frame s s' ts id id (fun m => { m with barriers := [] }) id ∧
      (∀ t ∈ ts, goesOn s s' t s.cur.next false) ∧
      (s'.team n).barriers[f.imm.toNat]? = some ⟨x.phase, x.turns, BitVec.ofNat 12 ((s.group n g).sreg f.a.toNat).toNat, 0⟩ ∧
      ∀ k, k ≠ f.imm.toNat → (s'.team n).barriers[k]? = (s.team n).barriers[k]? := by
  generalize hv : ((s.group n g).sreg f.a.toNat).toNat = v at h1 h2 ⊢
  let s1 : State := s.modTeam n fun m => { m with barriers := modAt (expecting v) f.imm.toNat m.barriers }
  have hf : frame s s1 [] id id (fun m => { m with barriers := [] }) id := frame_barriers s n _ _ id
  have hk := Kept.retireAll ts ts (fun _ h => h) s1 s1.cur.next false
  have hb := hk.teamProj (fun m => m.barriers) (fun _ _ => rfl) n
  refine ⟨ts.foldl (fun s t => s.retire t s1.cur.next false) s1, ?_, ?_, fun t ht => ?_, ?_, fun k hk => ?_⟩
  · show Host.Outcome.next (s.converge _ _) = _
    rw [converge_together (s' := s1) hts (fun f => by simp), foldl_settle_done rfl ts s1 s1.cur.next rfl]
    simp only [hv, barrier_of_getElem? hx, h0]
    rw [if_neg]
    simp only [bne_self_eq_false, Bool.or_false, Bool.or_eq_true, decide_eq_true_eq]
    omega
  · exact frame_trans (frame_widen hf _ _) (frame_of_kept hk _ _ _ _)
  · have ht1 : s1.thread t = s.thread t := thread_of_frame hf (by simp)
    have hh : s1.Here t := here_of_present (by rw [ht1]; exact present_of_together hts ht)
    have := goesOn_retireAll (nodup_together hts) s1 s1.cur.next false ht hh
    unfold goesOn at this ⊢
    rwa [ht1] at this
  · rw [hb, barriers_modTeam, modAt_getElem?, if_pos rfl, hx, Option.map_some, expecting, h0]
  · rw [hb, barriers_modTeam, modAt_getElem?, if_neg (Ne.symm hk)]

end State

end Sys2Proof.Machine

/-- Settles O25: each instruction's effect is an arrival, an acquire or a new number of arrivals, and completing the bundle
keeps the barriers. -/
theorem barriersCountArrivals : Obligations.BarriersCountArrivals :=
  ⟨Sys2Proof.Machine.State.bara_completes, Sys2Proof.Machine.State.barw_arrives, Sys2Proof.Machine.State.barw_goesOn,
    Sys2Proof.Machine.State.bars_completes⟩
end

section
/-! SUPPORT. Results that land once a bundle has completed, and the entry of a handler. -/

namespace Sys2Proof.Machine

open Sys2Proof.Claims

/-! ### Results put one after another -/

/-- A result for another register leaves a vector register. -/
theorem Group.put_v_ne (g : Group) {d : Dst} {i p : Nat} (h : ∀ y, d ≠ .v i p y) :
    Sp.get (0 : Word) (nthD Thread.none (g.put d).threads i).v p = Sp.get (0 : Word) (nthD Thread.none g.threads i).v p := by
  cases d with
  | v j q x =>
    simp only [Group.put]
    split
    · rfl
    · rw [nthD_modAt]
      split
      · next hj =>
        obtain ⟨rfl, -⟩ := hj
        rw [Sp.get_set, if_neg]
        rintro rfl
        exact h x rfl
      · rfl
  | a j n x =>
    simp only [Group.put]
    split
    · rfl
    · refine nthD_modAt_proj Thread.none _ (fun y : Thread => Sp.get (0 : Word) y.v p) ?_ _ _ _
      intro y; rfl
  | s n x => simp only [Group.put]; split <;> rfl
  | k n b x => simp only [Group.put]; split <;> rfl

theorem Group.putAll_v_ne (g : Group) (l : List Pend) {i p : Nat} (h : ∀ e ∈ l, ∀ y, e.dst ≠ .v i p y) :
    Sp.get (0 : Word) (nthD Thread.none (g.putAll l).threads i).v p = Sp.get (0 : Word) (nthD Thread.none g.threads i).v p := by
  unfold Group.putAll
  induction l generalizing g with
  | nil => rw [List.foldl_nil]
  | cons e l ih =>
    rw [List.foldl_cons, ih _ fun e' he' => h e' (List.mem_cons_of_mem _ he'), Group.put_v_ne g (h e (by simp))]

theorem Group.putAll_append (g : Group) (l l' : List Pend) : g.putAll (l ++ l') = (g.putAll l).putAll l' :=
  List.foldl_append

theorem Group.putAll_length (g : Group) (l : List Pend) : (g.putAll l).threads.length = g.threads.length :=
  Group.putAll_proj (fun g => g.threads.length) Group.put_length g l

namespace State

/-- What a thread keeps that is neither a vector nor an address register stands as it did once its results have landed. -/
theorem thread_landAll_proj {β : Type} (p : Thread → β) (hv : ∀ x v, p { x with v := v } = p x)
    (ha : ∀ x a, p { x with a := a } = p x) (s : State) (t u : Tid) : p ((s.landAll t).thread u) = p (s.thread u) := by
  unfold landAll State.thread
  rw [group_modGroup]
  split
  · exact Group.putAll_proj (fun g => p (nthD Thread.none g.threads u.thr)) (fun g d => Group.put_thread p hv ha g d u.thr) _
      ((s.group u.team u.grp).pend.filter fun e => e.own.contains t.thr && !e.landed)
  · rfl

/-- A vector result lands that no later one of the thread outdoes. -/
theorem vreg_landAll_mem {s : State} {t : Tid} (h : s.Here t) {l l' : List Pend} {e : Pend} {d : Nat} {x : Word}
    (hp : (s.groupOf t).pend = l ++ e :: l') (he : e.own.contains t.thr = true) (hl : e.landed = false)
    (hd : e.dst = .v t.thr (physOf (s.thread t).base d) x)
    (hne : ∀ e' ∈ l', ∀ y, e'.dst ≠ .v t.thr (physOf (s.thread t).base d) y) :
    ((s.landAll t).thread t).vreg d = if physOf (s.thread t).base d = 0 then (s.thread t).vreg d else x := by
  have hb : ((s.landAll t).thread t).base = (s.thread t).base :=
    thread_landAll_proj (fun x => x.base) (fun _ _ => rfl) (fun _ _ => rfl) s t t
  unfold Thread.vreg
  rw [hb, thread_landAll s t h.1]
  split
  · next h0 =>
    rw [h0]
    exact Group.putAll_proj (fun g => Sp.get (0 : Word) (nthD Thread.none g.threads t.thr).v 0)
      (fun g d => Group.put_v0 g d _) _ _
  · next h0 =>
    have hf : ((s.groupOf t).pend.filter fun e => e.own.contains t.thr && !e.landed) =
        (l.filter fun e => e.own.contains t.thr && !e.landed) ++ [e] ++ (l'.filter fun e => e.own.contains t.thr && !e.landed) := by
      rw [hp, List.filter_append, List.filter_cons, if_pos (by rw [he, hl]; rfl), List.append_assoc]; rfl
    rw [hf, Group.putAll_append, Group.putAll_v_ne _ _ fun e' he' => hne e' (List.mem_filter.mp he').1,
      Group.putAll_concat, hd]
    simp only [Group.put, if_neg h0]
    rw [nthD_modAt_self]
    · simp
    · rw [Group.putAll_length]; exact h.2

/-- The results under way that a completing bundle keeps, around one that is not yet due. -/
theorem pend_retire_split {s : State} {t : Tid} {l l' : List Pend} {e : Pend} (hp : (s.groupOf t).pend = l ++ e :: l')
    (hdue : ∀ w, e.due = some w → s.cycle < w) (pc : DWord) (ends : Bool) :
    ∃ q : Pend → Bool, ((s.retire t pc ends).groupOf t).pend = l.filter q ++ e :: l'.filter q := by
  obtain ⟨q, hq, heq⟩ := pend_retire s t pc ends t.team t.grp
  refine ⟨q, heq.trans ?_⟩
  rw [show (s.group t.team t.grp).pend = l ++ e :: l' from hp, List.filter_append, List.filter_cons, if_pos (hq e hdue)]

/-- The vector register that a bundle has put a result under way to, once the thread's results have landed. -/
theorem holdsV_retire {s s' : State} {t : Tid} (hk : Kept s s' [t]) (hh : s.Here t) {l l' : List Pend} {e : Pend} {d : Nat}
    {x : Word} (hp : (s'.groupOf t).pend = l ++ e :: l') (he : e.own.contains t.thr = true) (hl : e.landed = false)
    (hdue : ∀ w, e.due = some w → s.cycle < w) (hd : e.dst = .v t.thr (physOf (s.thread t).base d) x)
    (hne : ∀ e' ∈ l', ∀ y, e'.dst ≠ .v t.thr (physOf (s.thread t).base d) y) (pc : DWord) (ends : Bool) :
    holdsV s (s'.retire t pc ends) t d x := by
  have hr := hk.trans (Kept.retire s' t [t] (by simp) pc ends)
  obtain ⟨q, hq⟩ := pend_retire_split hp (by rw [hk.cycle]; exact hdue) pc ends
  unfold holdsV
  rw [vreg_landAll_mem ((hr.here t).mpr hh) hq he hl (by rw [hr.base]; exact hd)
    fun e' he' => by rw [hr.base]; exact hne e' (List.mem_filter.mp he').1, hr.base, hr.vreg]

/-- A result of variable latency joins those under way, last in order. -/
theorem pend_landLater {s : State} {t : Tid} (h : s.Has t.team t.grp) (own : List Nat) (ds : List Dst) :
    ((s.landLater t own ds).groupOf t).pend = (s.groupOf t).pend ++ ds.map fun d => ⟨d, none, s.nextId, own, false⟩ := by
  rw [landLater_eq, later_eq]
  unfold groupOf
  rw [after_group, group_modGroup_self]
  · rfl
  · exact h

/-! ### Handlers (10 R221, R225) -/

theorem foldl_proj {α β γ : Type} (p : β → γ) {f : β → α → β} (h : ∀ b a, p (f b a) = p b) (l : List α) (b : β) :
    p (l.foldl f b) = p b := by
  induction l generalizing b with
  | nil => rw [List.foldl_nil]
  | cons a l ih => rw [List.foldl_cons, ih, h]

/-- Once a thread's results have landed, threads differ in registers and tokens alone. -/
theorem thread_landed (s : State) (t u : Tid) :
    ∃ v a k, (landed s t).thread u = { s.thread u with v := v, a := a, tokens := k } := by
  let p : Thread → Thread := fun x => { x with v := [], a := [], tokens := [] }
  have hput : ∀ (s : State) (d : Dst), p ((s.modGroup t.team t.grp fun g => g.put d).thread u) = p (s.thread u) := by
    intro s d
    unfold State.thread
    rw [group_modGroup]
    split
    · exact Group.put_thread p (fun _ _ => rfl) (fun _ _ => rfl) _ d u.thr
    · rfl
  have hall := thread_landAll_proj p (fun _ _ => rfl) (fun _ _ => rfl) s t u
  have hsf : p ((landed s t).thread u) = p ((s.landAll t).thread u) := by
    unfold landed landSf
    dsimp only
    split
    · rfl
    · refine (thread_modThread_proj _ t u _ p ?_).trans ?_
      · intro x; rfl
      · exact foldl_proj (fun x : State => p (x.thread u)) (fun s e => hput s (.v t.thr e.phys e.val)) _ (s.landAll t)
  refine ⟨((landed s t).thread u).v, ((landed s t).thread u).a, ((landed s t).thread u).tokens, ?_⟩
  have e := congrArg (fun x : Thread => { x with
    v := ((landed s t).thread u).v, a := ((landed s t).thread u).a, tokens := ((landed s t).thread u).tokens }) (hsf.trans hall)
  exact e

/-- Once a thread's results have landed, teams differ in their groups alone. -/
theorem team_landed_proj {β : Type} (p : Team → β) (hp : ∀ m l, p { m with groups := l } = p m) (s : State) (t : Tid) (n : Nat) :
    p ((landed s t).team n) = p (s.team n) := by
  have hall : p ((s.landAll t).team n) = p (s.team n) := team_modGroup_proj s _ _ n _ p hp
  unfold landed landSf
  dsimp only
  split
  · exact hall
  · rw [team_modThread_proj _ t _ n p hp, ← hall]
    exact foldl_proj (fun x : State => p (x.team n)) (fun s e => team_modGroup_proj s _ _ n _ p hp) _ (s.landAll t)

theorem ctxs_landed (s : State) (t : Tid) : (landed s t).ctxs = s.ctxs := by
  unfold landed landSf
  dsimp only
  split
  · rfl
  · rw [modThread_ctxs, modCore_ctxs]
    exact foldl_proj (fun x : State => x.ctxs) (by intro s e; rfl) _ (s.landAll t)

/-- A thread stops at its bundle: its results have landed, its tokens are free, its PACE counts gone. -/
theorem quiesce_eq (s : State) (t : Tid) : s.quiesce t = (landed s t).modThread t fun x =>
    { x with tokens := [], pace := [], since := (landed s t).cycle, reply := .none, sent := none, got := [] } := rfl

theorem ctxOf_quiesce (s : State) (t : Tid) : (s.quiesce t).ctxOf t = s.ctxOf t := by
  have hteam : ((s.quiesce t).team t.team).ctx = (s.team t.team).ctx :=
    (team_modThread_proj (landed s t) t _ _ (fun m => m.ctx) fun _ _ => rfl).trans
      (team_landed_proj (fun m => m.ctx) (fun _ _ => rfl) s t _)
  have hctxs : (s.quiesce t).ctxs = s.ctxs := ctxs_landed s t
  unfold ctxOf ctx
  rw [hteam, hctxs]

/-- Where a thread stands once it has stopped at its bundle. -/
theorem thread_quiesce {s : State} {t : Tid} (hp : (s.thread t).present = true) :
    (s.quiesce t).Here t ∧ ∃ v a, (s.quiesce t).thread t = { s.thread t with
      v := v, a := a, tokens := [], pace := [], since := (landed s t).cycle, reply := .none, sent := none, got := [] } := by
  obtain ⟨v, a, k, hland⟩ := thread_landed s t t
  have hh : (landed s t).Here t := here_of_present (by rw [hland]; exact hp)
  refine ⟨(here_modThread _ t t _).mpr hh, v, a, ?_⟩
  rw [quiesce_eq, thread_modThread_self _ _ hh, hland]

/-- A thread in user mode under a handler base takes a trap into its handler. -/
theorem takeTrap_handled {s : State} {t : Tid} (hp : (s.thread t).present = true) (hd : handled s t) {c : Cause}
    (hpage : c.isPage = false) (hw : c ≠ .watchdog) (addr : DWord) :
    s.takeTrap t (Request.of c addr) = (s.quiesce t).enterHandler t c addr := by
  obtain ⟨hsys, hbase⟩ := hd
  obtain ⟨-, v, a, hq⟩ := thread_quiesce hp
  have hnot : ¬(c = .watchdog ∨ ((s.quiesce t).ctxOf t).hbase = 0 ∨ ((s.quiesce t).thread t).sys = true) := by
    rw [ctxOf_quiesce, hq, hsys]
    rintro (h | h | h)
    · exact hw h
    · exact hbase h
    · exact absurd h (by decide)
  unfold takeTrap deliver Request.of
  dsimp only
  rw [hpage, if_neg (by decide), if_neg hnot]

theorem entersHandler_takeTrap {s : State} {t : Tid} (hp : (s.thread t).present = true) (hd : handled s t) {c : Cause}
    (hpage : c.isPage = false) (hw : c ≠ .watchdog) (addr : DWord) :
    entersHandler s (s.takeTrap t (Request.of c addr)) t c addr := by
  rw [takeTrap_handled hp hd hpage hw]
  obtain ⟨hh, v, a, hq⟩ := thread_quiesce hp
  let f : Thread → Thread := fun x => { x with
    trapCause := BitVec.ofNat 32 c.code, trapPc := x.pc, trapRgn := x.region, trapAddr := addr, sys := true,
    pc := (s.ctxOf t).hbase, wait := .none }
  have he : (s.quiesce t).enterHandler t c addr = ((s.quiesce t).modThread t f).join t ((s.quiesce t).cycle + 1) := by
    unfold enterHandler; rw [ctxOf_quiesce]; rfl
  have hf := thread_modThread_self (s.quiesce t) f hh
  have join := fun {β : Type} (p : Thread → β) (h : ∀ (x : Thread) e, p { x with entry := e, stamp := (s.quiesce t).cycle + 1 } = p x) =>
    (thread_join_proj ((s.quiesce t).modThread t f) t t ((s.quiesce t).cycle + 1) p h).trans (congrArg p (hf.trans (congrArg f hq)))
  rw [he]
  refine ⟨join (fun x => x.trapCause) fun _ _ => rfl, join (fun x => x.trapPc) fun _ _ => rfl,
    join (fun x => x.trapRgn) fun _ _ => rfl, join (fun x => x.trapAddr) fun _ _ => rfl, join (fun x => x.sys) fun _ _ => rfl,
    join (fun x => x.pc) fun _ _ => rfl, join (fun x => x.wait) fun _ _ => rfl, join (fun x => x.tokens) fun _ _ => rfl,
    join (fun x => x.pace) fun _ _ => rfl, ?_⟩
  refine frame_trans ?_ (frame_trans (frame_modThread (s.quiesce t) t f _ _ _ _ ?_) (frame_of_kept (Kept.join _ t [t] (by simp) _) _ _ _ _))
  · rw [quiesce_eq]; exact frame_modThread (landed s t) t _ _ _ _ _ fun _ => rfl
  · intro x; rfl

end State

end Sys2Proof.Machine
end

section
/-! SUPPORT. Bytes written and read back (02 R25). -/

namespace Sys2Proof.Machine

theorem leBytes_length (n x : Nat) : (leBytes n x).length = n := by
  induction n generalizing x with
  | zero => rfl
  | succ n ih => rw [leBytes, List.length_cons, ih]

theorem leNat_leBytes (n x : Nat) : leNat (leBytes n x) = x % 256 ^ n := by
  induction n generalizing x with
  | zero => simp [leBytes, leNat, Nat.mod_one]
  | succ n ih =>
    have hx := Nat.mod_mul (x := x) (a := 256) (b := 256 ^ n)
    rw [leBytes, leNat, ih, BitVec.toNat_ofNat, Nat.pow_succ' (n := n) (m := 256), hx]

theorem bytesAt_ge (l : List Byte) (a : Nat) : ∀ e ∈ bytesAt a l, a ≤ e.1 ∧ e.1 < a + l.length := by
  induction l generalizing a with
  | nil => simp [bytesAt]
  | cons x l ih =>
    simp only [bytesAt, List.mem_cons, List.length_cons]
    rintro e (rfl | he)
    · exact ⟨Nat.le_refl _, by dsimp only; omega⟩
    · have := ih (a + 1) e he
      omega

/-- Bytes put at rising addresses read back as they were put. -/
theorem Memory.bytes_putAll (l : List Byte) (m : Memory) (a : Nat) : (m.putAll (bytesAt a l)).bytes a l.length = l := by
  induction l generalizing m a with
  | nil => rfl
  | cons x l ih =>
    have hx : (m.putAll (bytesAt a (x :: l))).get a = x := by
      rw [bytesAt, Memory.putAll, Memory.get_putAll_of_not_mem, Memory.get_put, if_pos rfl]
      intro e he
      have := bytesAt_ge l (a + 1) e he
      omega
    rw [List.length_cons, Memory.bytes, hx]
    exact congrArg _ (ih (m.put a x) (a + 1))

theorem Memory.get_putAll_bytesAt_of_outside (l : List Byte) (m : Memory) (a b : Nat) (h : b < a ∨ a + l.length ≤ b) :
    (m.putAll (bytesAt a l)).get b = m.get b :=
  Memory.get_putAll_of_not_mem _ _ _ fun e he => by
    have := bytesAt_ge l a e he
    omega

/-- A number written as bytes reads back. -/
theorem Memory.le_putAll (m : Memory) (a n x : Nat) : (m.putAll (bytesAt a (leBytes n x))).le a n = x % 256 ^ n := by
  have := Memory.bytes_putAll (leBytes n x) m a
  rw [leBytes_length] at this
  rw [Memory.le, this, leNat_leBytes]

/-- A range that has been cleared reads 0, and the rest as before. -/
theorem Memory.get_clear (m : Memory) (a n b : Nat) : (m.clear a n).get b = if a ≤ b ∧ b < a + n then 0 else m.get b := by
  unfold Memory.clear Memory.get
  induction m with
  | nil => simp
  | cons e m ih =>
    obtain ⟨k, x⟩ := e
    rw [List.filter_cons]
    by_cases hk : k < a ∨ a + n ≤ k
    · rw [if_pos (by simpa using hk)]
      simp only [Sp.get]
      by_cases hb : k = b
      · rw [if_pos hb, if_pos hb, if_neg (by omega)]
      · rw [if_neg hb, if_neg hb, ih]
    · rw [if_neg (by simpa using hk), ih]
      simp only [Sp.get]
      by_cases hb : k = b
      · rw [if_pos (by omega), if_pos (by omega)]
      · rw [if_neg hb]

end Sys2Proof.Machine
end

section
/-! Convergence registers, jobs and accumulators (01 R12, 08 R201 to R203). -/

namespace Sys2Proof.Machine

open Sys2Proof.Claims

namespace State

/-! ### Convergence registers -/

theorem frame_modJ (s : State) (n j : Nat) (f : JReg → JReg) (co : Core → Core) :
    frame s (s.modJ n j f) [] id co (fun m => { m with jregs := [] }) id :=
  frame_modTeam s n _ id co _ (fun _ => rfl) fun _ => rfl

theorem jregs_modJ (s : State) (n j : Nat) (f : JReg → JReg) :
    ((s.modJ n j f).team n).jregs = modAt f j (s.team n).jregs := by
  unfold modJ
  rw [team_modTeam]
  split
  · rfl
  · next h => rw [team_of_le s n (by simpa using h)]; cases j <;> rfl

/-- A convergence register that exists is changed, and no other. -/
theorem jreg_modJ {s : State} {n j : Nat} (f : JReg → JReg) (h : j < (s.team n).jregs.length) :
    (s.modJ n j f).jreg n j = f (s.jreg n j) ∧ ∀ k, k ≠ j → (s.modJ n j f).jreg n k = s.jreg n k := by
  unfold jreg
  rw [jregs_modJ]
  exact ⟨nthD_modAt_self _ _ _ h, fun k hk => nthD_modAt_ne _ _ _ (Ne.symm hk)⟩

theorem jreg_settle_done (s : State) (t : Tid) (i : Instr) (n j : Nat) :
    (settle t i false (.done s)).jreg n j = s.jreg n j := by
  unfold jreg
  rw [team_settle_done (fun m => m.jregs) (fun _ _ => rfl)]

theorem jdecl_binds (f : TF) (s : State) (t : Tid) (ha : alone s (.jdecl f) t)
    (hv : ((s.thread t).areg f.a.toNat).sh.v = false) (hal : ((s.thread t).areg f.a.toNat).val.extractLsb' 0 7 = 0)
    (h1 : 1 ≤ (B s t f).toNat) (h2 : (B s t f).toNat ≤ 2048) (hj : f.d.toNat < (s.team t.team).jregs.length)
    (hst : (s.jreg t.team f.d.toNat).st = .free ∨ (s.jreg t.team f.d.toNat).st = .done) :
    ∃ s', exec (.jdecl f) s = .next s' ∧ completed false s s' t id id (fun m => { m with jregs := [] }) ∧
      s'.jreg t.team f.d.toNat =
        ⟨((s.thread t).areg f.a.toNat).val.extractLsb' 0 56, BitVec.ofNat 12 (B s t f).toNat, 0, .bound⟩ ∧
      ∀ j, j ≠ f.d.toNat → s'.jreg t.team j = s.jreg t.team j := by
  let r : JReg := ⟨((s.thread t).areg f.a.toNat).val.extractLsb' 0 56, BitVec.ofNat 12 (B s t f).toNat, 0, .bound⟩
  obtain ⟨hself, hother⟩ := jreg_modJ (fun _ => r) hj
  refine ⟨settle t (.jdecl f) false (.done (s.modJ t.team f.d.toNat fun _ => r)), ?_,
    completed_settle (frame_modJ s _ _ _ id) (present_of_alone ha) rfl rfl, ?_, fun j hne => ?_⟩
  · show Host.Outcome.next (s.perIndex _ _) = _
    rw [perIndex_alone ha]
    have hn : ¬((s.opB t f).toNat = 0 || decide (2048 < (s.opB t f).toNat)) = true := by
      have : s.opB t f = B s t f := rfl
      simp only [this, Bool.or_eq_true, decide_eq_true_eq]
      omega
    have hnb : (s.jreg t.team f.d.toNat).st ≠ .bound := by rcases hst with h | h <;> rw [h] <;> decide
    have hni : (s.jreg t.team f.d.toNat).st ≠ .issued := by rcases hst with h | h <;> rw [h] <;> decide
    simp only [hal, cardAddress, hv, hn, hnb, hni, bne_self_eq_false, Bool.false_eq_true, if_false, Bool.not_false, if_true,
      decide_false, Bool.false_and, Bool.or_self]
    rfl
  · rw [jreg_settle_done, hself]
  · rw [jreg_settle_done, hother j hne]

theorem exec_sign_counts {f : IF} {s s1 : State} {t : Tid} (ha : alone s (.sign f) t)
    (hb : (s.jreg t.team f.imm.toNat).st = .bound) (hr : s.release t 2 = .done s1)
    (hl : (s.jreg t.team f.imm.toNat).signed + 1 ≠ (s.jreg t.team f.imm.toNat).signers) :
    exec (.sign f) s = .next (settle t (.sign f) false
      (.done (s1.modJ t.team f.imm.toNat fun r => { r with signed := r.signed + 1 }))) := by
  show Host.Outcome.next (s.perIndex _ _) = _
  rw [perIndex_alone ha]
  dsimp only
  rw [if_neg (by simp [hb]), if_neg (by simpa using fun h => absurd h hl), afterRelease_done hr, if_pos (by simpa using hl)]

/-- The job of the last signature is queued, with its register issued; its start is due in 8 cycles. -/
def withJob (s : State) (t : Tid) (j c : Nat) (x : Job) : State :=
  let s := s.modJ t.team j fun r => { r with signed := r.signed + 1, st := .issued }
  let s : State := { s with nextId := s.nextId + 1 }
  (s.modCore c fun k => { k with jobs := k.jobs ++ [x] }).after 8 .jobStart { core := c }

theorem frame_withJob (s : State) (t : Tid) (j c : Nat) (x : Job) :
    frame s (s.withJob t j c x) [] id (fun k => { k with jobs := [] }) (fun m => { m with jregs := [] }) id := by
  let s1 : State := s.modJ t.team j fun r => { r with signed := r.signed + 1, st := .issued }
  let s2 : State := { s1 with nextId := s1.nextId + 1 }
  exact frame_trans (frame_modJ s _ _ _ _) (frame_trans (frame_of_kept (Kept.newId s1 []) _ _ _ _)
    (frame_trans (frame_modCore s2 c (fun k => { k with jobs := k.jobs ++ [x] }) _ _ _ fun _ => rfl)
      (frame_of_kept (Kept.after _ [] _ _ _) _ _ _ _)))

theorem exec_sign_issues {f : IF} {s s1 s2 : State} {t : Tid} {b : List Byte} {x : Job} (ha : alone s (.sign f) t)
    (hb : (s.jreg t.team f.imm.toNat).st = .bound) (hr : s.release t 2 = .done s1)
    (hl : (s.jreg t.team f.imm.toNat).signed + 1 = (s.jreg t.team f.imm.toNat).signers)
    (hroom : (s.core (s.coreNum t)).jobs.length < 8)
    (hread : s1.readPlain t (s.jreg t.team f.imm.toNat).va 8 = .ok s2 b)
    (hx : s2.jobOf t.team f.imm.toNat (BitVec.ofNat 1024 (leNat b)) = some x) :
    exec (.sign f) s = .next (settle t (.sign f) false (.done (s2.withJob t f.imm.toNat (s.coreNum t) x))) := by
  show Host.Outcome.next (s.perIndex _ _) = _
  rw [perIndex_alone ha]
  dsimp only
  rw [if_neg (by simp [hb]), if_neg (by simpa using fun _ => hroom), afterRelease_done hr, if_neg (by simpa using hl), hread,
    whenRead, hx]
  rfl

theorem sign_counts (f : IF) (s s1 : State) (t : Tid) (ha : alone s (.sign f) t)
    (hj : f.imm.toNat < (s1.team t.team).jregs.length) (hb : (s.jreg t.team f.imm.toNat).st = .bound)
    (hr : s.release t 2 = .done s1) (hp : (s1.thread t).present = true)
    (he : s1.jreg t.team f.imm.toNat = s.jreg t.team f.imm.toNat)
    (hl : (s.jreg t.team f.imm.toNat).signed + 1 ≠ (s.jreg t.team f.imm.toNat).signers) :
    ∃ s', exec (.sign f) s = .next s' ∧ completed true s1 s' t id id (fun m => { m with jregs := [] }) ∧
      s'.jreg t.team f.imm.toNat =
        { s.jreg t.team f.imm.toNat with signed := (s.jreg t.team f.imm.toNat).signed + 1 } ∧
      ∀ j, j ≠ f.imm.toNat → s'.jreg t.team j = s1.jreg t.team j := by
  obtain ⟨hself, hother⟩ := jreg_modJ (fun r => { r with signed := r.signed + 1 }) hj
  refine ⟨_, exec_sign_counts ha hb hr hl, completed_settle (frame_modJ s1 _ _ _ id) hp rfl rfl, ?_, fun j hne => ?_⟩
  · rw [jreg_settle_done, hself, he]
  · rw [jreg_settle_done, hother j hne]

theorem sign_issues (f : IF) (s s1 : State) (t : Tid) (ha : alone s (.sign f) t)
    (hb : (s.jreg t.team f.imm.toNat).st = .bound) (hr : s.release t 2 = .done s1)
    (hl : (s.jreg t.team f.imm.toNat).signed + 1 = (s.jreg t.team f.imm.toNat).signers)
    (hroom : (s.core (s.coreNum t)).jobs.length < 8) (s2 : State) (b : List Byte) (x : Job)
    (hread : s1.readPlain t (s.jreg t.team f.imm.toNat).va 8 = .ok s2 b)
    (hx : s2.jobOf t.team f.imm.toNat (BitVec.ofNat 1024 (leNat b)) = some x) (hp : (s2.thread t).present = true)
    (hj : f.imm.toNat < (s2.team t.team).jregs.length) :
    ∃ s', exec (.sign f) s = .next s' ∧
      completed true s2 s' t id (fun k => { k with jobs := [] }) (fun m => { m with jregs := [] }) ∧
      (s'.core (s.coreNum t)).jobs = (s2.core (s.coreNum t)).jobs ++ [x] ∧
      s'.jreg t.team f.imm.toNat =
        { s2.jreg t.team f.imm.toNat with signed := (s2.jreg t.team f.imm.toNat).signed + 1, st := .issued } := by
  let s3 : State := s2.modJ t.team f.imm.toNat fun r => { r with signed := r.signed + 1, st := .issued }
  have hjobs : ((s2.withJob t f.imm.toNat (s.coreNum t) x).core (s.coreNum t)).jobs = (s2.core (s.coreNum t)).jobs ++ [x] :=
    congrArg Core.jobs (core_modCore_self { s3 with nextId := s3.nextId + 1 } (s.coreNum t)
      fun k => { k with jobs := k.jobs ++ [x] })
  refine ⟨_, exec_sign_issues ha hb hr hl hroom hread hx, completed_settle (frame_withJob s2 t _ _ x) hp rfl rfl, ?_, ?_⟩
  · rw [core_settle_done (fun k => k.jobs) fun _ _ => rfl]; exact hjobs
  · rw [jreg_settle_done]; exact (jreg_modJ _ hj).1

theorem jwait_goesOn (f : IF) (s : State) (t : Tid) (ha : alone s (.jwait f) t)
    (hst : (s.jreg t.team f.imm.toNat).st = .done ∨ (s.jreg t.team f.imm.toNat).st = .free) :
    ∃ s', exec (.jwait f) s = .next s' ∧ completed false (s.acquire t 2) s' t id id id := by
  refine ⟨settle t (.jwait f) false (.done (s.acquire t 2)), ?_, completed_acquire (present_of_alone ha) (by decide)⟩
  show Host.Outcome.next (s.perIndex _ _) = _
  rw [perIndex_alone ha]
  dsimp only
  rw [if_pos (by simpa using hst)]

theorem jwait_waits (f : IF) (s : State) (t : Tid) (ha : alone s (.jwait f) t)
    (hst : (s.jreg t.team f.imm.toNat).st = .bound ∨ (s.jreg t.team f.imm.toNat).st = .issued)
    (hq : (s.team t.team).request = none) :
    ∃ s', exec (.jwait f) s = .next s' ∧ onlyRegisters s s' [t] ∧ (s'.thread t).wait = .job f.imm.toNat ∧
      (s'.thread t).pc = (s.thread t).pc := by
  refine ⟨s.setWait t (.job f.imm.toNat), ?_, onlyRegisters_of_kept (Kept.setWait hq _),
    thread_setWait hq (here_of_alone ha) _⟩
  show Host.Outcome.next (s.perIndex _ _) = _
  rw [perIndex_alone ha]
  dsimp only
  rw [if_neg]
  · rfl
  · rcases hst with h | h <;> rw [h] <;> decide

/-! ### Accumulators -/

/-- No issued job of the thread's team names the slot as C. -/
def accIdle (s : State) (t : Tid) (slot : Nat) : Prop :=
  ∀ j ∈ (s.core (s.coreNum t)).jobs, j.team = t.team → cardC j.card ≠ slot

theorem cardSlot_eq {s : State} {n k role : Nat} {x : Slot} (hx : s.slot? n k = some x) (hr : recRole x.record = role) :
    s.cardSlot n k role = some x := by
  unfold cardSlot
  rw [hx, Option.filter_some, if_pos (by simpa using hr)]

/-- An accumulator of a role-C slot that no issued job names: one within the slot is where its index says, and one beyond
traps. -/
theorem atAcc_eq {s : State} {t : Tid} {slot : Nat} {x : Slot} (hx : s.slot? t.team slot = some x)
    (hr : recRole x.record = 2) (hi : accIdle s t slot) (k : Nat) (body : Nat → BitVec 256 → Res) :
    s.atAcc t slot k body = if k < recTlen x.record / 4 then body (recToff x.record + 4 * k) x.record
      else s.fail .troughRange (BitVec.ofNat 64 k) := by
  have hidle : ¬((s.core (s.coreNum t)).jobs.any fun j => j.team = t.team && cardC j.card = slot) = true := by
    simp only [List.any_eq_true, Bool.and_eq_true, decide_eq_true_eq, not_exists, not_and]
    exact hi
  unfold atAcc
  dsimp only
  rw [if_neg hidle, cardSlot_eq hx hr]
  dsimp only
  by_cases hk : k < recTlen x.record / 4
  · rw [if_pos hk, if_neg (by omega)]
  · rw [if_neg hk, if_pos (by omega)]

theorem frame_trough (s : State) (c : Nat) (f : Memory → Memory) (te : Team → Team) :
    frame s (s.modCore c fun k => { k with trough := f k.trough }) [] id (fun k => { k with trough := [] }) te id :=
  frame_modCore s c _ id _ te fun _ => rfl

theorem thread_landLater (s : State) (t u : Tid) (own : List Nat) (ds : List Dst) :
    (s.landLater t own ds).thread u = s.thread u := by
  rw [landLater_eq, later_eq, after_thread]
  exact thread_modGroup_proj s _ _ (fun g => { g with pend := g.pend ++ ds.map fun d => ⟨d, none, s.nextId, own, false⟩ })
    (fun _ => rfl) u

theorem accrd_lands (f : IF) (s : State) (t : Tid) (x : Slot) (hx : s.slot? t.team (f.imm.toNat % 16) = some x)
    (hr : recRole x.record = 2) (hi : accIdle s t (f.imm.toNat % 16))
    (hk : ((s.thread t).vreg f.a.toNat).toNat < recTlen x.record / 4) (ha : alone s (.accrd f) t) :
    ∃ s', exec (.accrd f) s = .next s' ∧ onlyRegisters s s' [t] ∧ goesOn s s' t s.cur.next false ∧
      holdsV s s' t f.d.toNat (BitVec.ofNat 32 (convert (M s t f.p) (saturates f.p) (f.imm.toNat / 16) 0
        ((s.core (s.coreNum t)).trough.le (recToff x.record + 4 * ((s.thread t).vreg f.a.toNat).toNat) 4))) := by
  generalize hy : (BitVec.ofNat 32 (convert (M s t f.p) (saturates f.p) (f.imm.toNat / 16) 0
    ((s.core (s.coreNum t)).trough.le (recToff x.record + 4 * ((s.thread t).vreg f.a.toNat).toNat) 4)) : Word) = y
  have hh := here_of_alone ha
  have hkept : Kept s (s.landLater t [t.thr] [s.vdst t f.d.toNat y]) [t] := Kept.landLater s t [t] (by simp) _ _
  refine ⟨(s.landLater t [t.thr] [s.vdst t f.d.toNat y]).retire t s.cur.next false, ?_,
    onlyRegisters_of_kept (hkept.trans (Kept.retire _ t [t] (by simp) _ _)),
    goesOn_retire ((hkept.here t).mpr hh) hkept.cycle (congrArg Thread.pace (thread_landLater s t t _ _)) _ _,
    holdsV_retire hkept hh (pend_landLater hh.1 _ _) (by simp) rfl (by simp) rfl (by simp) _ _⟩
  show Host.Outcome.next (s.perThread _ _) = _
  rw [perThread_alone ha]
  dsimp only
  rw [atAcc_eq hx hr hi, if_pos hk, settle_done rfl, ← hy]
  rfl

theorem accwr_writes (f : IF) (s : State) (t : Tid) (x : Slot) (hx : s.slot? t.team (f.imm.toNat % 16) = some x)
    (hr : recRole x.record = 2) (hi : accIdle s t (f.imm.toNat % 16))
    (hk : ((s.thread t).vreg f.a.toNat).toNat < recTlen x.record / 4) (ha : alone s (.accwr f) t) :
    ∃ s', exec (.accwr f) s = .next s' ∧ completed false s s' t id (fun k => { k with trough := [] }) id ∧
      (s'.core (s.coreNum t)).trough.le (recToff x.record + 4 * ((s.thread t).vreg f.a.toNat).toNat) 4 =
        ((s.thread t).vreg f.d.toNat).toNat ∧
      ∀ j, j < recToff x.record + 4 * ((s.thread t).vreg f.a.toNat).toNat ∨
          recToff x.record + 4 * ((s.thread t).vreg f.a.toNat).toNat + 4 ≤ j →
        (s'.core (s.coreNum t)).trough.get j = (s.core (s.coreNum t)).trough.get j := by
  generalize hoff : recToff x.record + 4 * ((s.thread t).vreg f.a.toNat).toNat = off
  let b : List Byte := leBytes 4 ((s.thread t).vreg f.d.toNat).toNat
  let s1 : State := s.troughWrite (s.coreNum t) off b
  have htrough : ((settle t (.accwr f) false (.done s1)).core (s.coreNum t)).trough =
      (s.core (s.coreNum t)).trough.putAll (bytesAt off b) := by
    rw [core_settle_done (fun k => k.trough) fun _ _ => rfl]
    exact congrArg Core.trough (core_modCore_self s (s.coreNum t) _)
  refine ⟨settle t (.accwr f) false (.done s1), ?_,
    completed_settle (frame_trough s _ (fun m => m.putAll (bytesAt off b)) _) (present_of_alone ha) rfl rfl, ?_, fun j hj => ?_⟩
  · show Host.Outcome.next (s.perIndex _ _) = _
    rw [perIndex_alone ha]
    dsimp only
    rw [atAcc_eq hx hr hi, if_pos hk, hoff]
  · rw [htrough, Memory.le_putAll]
    exact Nat.mod_eq_of_lt (BitVec.isLt _)
  · rw [htrough, Memory.get_putAll_bytesAt_of_outside]
    rw [leBytes_length]
    exact hj

theorem accz_clears (f : IF) (s : State) (t : Tid) (x : Slot) (hx : s.slot? t.team (f.imm.toNat % 16) = some x)
    (hr : recRole x.record = 2) (hi : accIdle s t (f.imm.toNat % 16)) (ha : alone s (.accz f) t) (hlen : 4 ≤ recTlen x.record) :
    ∃ s', exec (.accz f) s = .next s' ∧ completed false s s' t id (fun k => { k with trough := [] }) id ∧
      ∀ j, (s'.core (s.coreNum t)).trough.get j =
        if recToff x.record ≤ j ∧ j < recToff x.record + recTlen x.record then 0 else (s.core (s.coreNum t)).trough.get j := by
  let s1 : State := s.troughZero (s.coreNum t) (recToff x.record) (recTlen x.record)
  refine ⟨settle t (.accz f) false (.done s1), ?_,
    completed_settle (frame_trough s _ (fun m => m.clear (recToff x.record) (recTlen x.record)) _) (present_of_alone ha) rfl rfl,
    fun j => ?_⟩
  · show Host.Outcome.next (s.perIndex _ _) = _
    rw [perIndex_alone ha]
    dsimp only
    rw [cardSlot_eq hx hr, if_neg (by simp), atAcc_eq hx hr hi, if_pos (by omega)]
  · rw [core_settle_done (fun k => k.trough) fun _ _ => rfl]
    refine Eq.trans ?_ (Memory.get_clear _ _ _ j)
    exact congrArg (fun k : Core => k.trough.get j) (core_modCore_self s (s.coreNum t) _)

theorem acc_beyond_traps (f : IF) (s : State) (t : Tid) (x : Slot) (hx : s.slot? t.team (f.imm.toNat % 16) = some x)
    (hr : recRole x.record = 2) (hi : accIdle s t (f.imm.toNat % 16))
    (hk : recTlen x.record / 4 ≤ ((s.thread t).vreg f.a.toNat).toNat) (i : Instr) (hf : i = .accrd f ∨ i = .accwr f)
    (ha : alone s i t) (hd : handled s t) :
    ∃ s', exec i s = .next s' ∧
      entersHandler s s' t .troughRange (BitVec.ofNat 64 ((s.thread t).vreg f.a.toNat).toNat) := by
  refine ⟨s.takeTrap t (Request.of .troughRange (BitVec.ofNat 64 ((s.thread t).vreg f.a.toNat).toNat)), ?_,
    entersHandler_takeTrap (present_of_alone ha) hd rfl (by decide) _⟩
  rcases hf with rfl | rfl
  · show Host.Outcome.next (s.perThread _ _) = _
    rw [perThread_alone ha]
    dsimp only
    rw [atAcc_eq hx hr hi, if_neg (by omega)]
    rfl
  · show Host.Outcome.next (s.perIndex _ _) = _
    rw [perIndex_alone ha]
    dsimp only
    rw [atAcc_eq hx hr hi, if_neg (by omega)]
    rfl

end State

end Sys2Proof.Machine

open Sys2Proof.Machine.State in
/-- Settles O29: each instruction's effect is a change of one convergence register, of the job queue or of the trough, or
an acquire, a wait, a result under way or a trap. -/
theorem jobsAndAccumulators : Obligations.JobsAndAccumulators :=
  ⟨⟨jdecl_binds,
    fun f s s1 t ha hj hb hr hp he => ⟨sign_counts f s s1 t ha hj hb hr hp he,
      fun hl hroom s2 b x => sign_issues f s s1 t ha hb hr hl hroom s2 b x⟩,
    fun f s t ha => ⟨jwait_goesOn f s t ha, jwait_waits f s t ha⟩⟩,
  fun f s t x hx hr hi => ⟨fun hk => ⟨accrd_lands f s t x hx hr hi hk, accwr_writes f s t x hx hr hi hk⟩,
    accz_clears f s t x hx hr hi, acc_beyond_traps f s t x hx hr hi⟩⟩
end

section
/-! SUPPORT. Results of fixed latency: how several of one bundle stand among those under way (04 R82, R84). -/

namespace Sys2Proof.Machine

open Sys2Proof.Claims

/-! ### What an earlier-landing write leaves of the others -/

/-- A result that an earlier-landing write does not discard is as it was, or a mask result that keeps other positions. -/
theorem Pend.outrun_inv {new : Dst} {due : Nat} (hdue : due ≠ 0) {e e' : Pend} (h : Pend.outrun new due e = some e') :
    e' = e ∨ ∃ n bits x b y, e.dst = .k n bits x ∧ new = .k n b y ∧ e'.dst = .k n (bits &&& ~~~b) x := by
  unfold Pend.outrun at h
  split at h
  · exact .inl (Option.some.inj h).symm
  · split at h
    · exact .inl (Option.some.inj h).symm
    · next hs =>
      split at h
      · next n bits x m b y hd =>
        have hn : n = m := by
          simp only [hd, Dst.same, Bool.or_eq_true, not_or, Bool.not_eq_true', Bool.not_eq_false, decide_eq_true_eq] at hs
          exact hs.2
        subst hn
        dsimp only at h
        split at h
        · refine .inr ⟨_, _, _, _, _, hd, rfl, ?_⟩
          rw [← Option.some.inj h]
        · cases h
      · cases h

/-- A result that lands no later than a write stays as it is. -/
theorem Pend.outrun_of_le {new : Dst} {due w : Nat} {e : Pend} (he : e.due = some w) (hw : w ≤ due) :
    Pend.outrun new due e = some e := by
  unfold Pend.outrun
  rw [he]
  simp [hw]

theorem filterMap_eq_self {α : Type} {f : α → Option α} {l : List α} (h : ∀ e ∈ l, f e = some e) : l.filterMap f = l := by
  induction l with
  | nil => rfl
  | cons e l ih =>
    rw [List.filterMap_cons_some (h e (List.mem_cons_self ..)), ih fun e' he' => h e' (List.mem_cons_of_mem _ he')]

/-- A write of a register that is no mask leaves results as they are or discards them. -/
theorem mem_of_mem_outrun {new : Dst} {due : Nat} (hdue : due ≠ 0) (hk : ∀ n b y, new ≠ .k n b y) {l : List Pend} {e : Pend}
    (h : e ∈ l.filterMap (Pend.outrun new due)) : e ∈ l := by
  obtain ⟨e0, hmem, h0⟩ := List.mem_filterMap.mp h
  rcases Pend.outrun_inv hdue h0 with rfl | ⟨n, bits, x, b, y, -, hn, -⟩
  · exact hmem
  · exact absurd hn (hk _ _ _)

namespace State

/-! ### Several results of one bundle -/

/-- The results of a thread's bundle, one after another, as the pair and quad instructions of the model write them. -/
def fixedAll (s : State) (t : Tid) (ds : List Dst) (lat : Nat) : State := ds.foldl (fun s d => s.fixedOwn t d lat) s

/-- A result of a bundle that issues now. -/
def fixedPend (s : State) (t : Tid) (lat : Nat) (d : Dst) : Pend := ⟨d, some (s.cycle + lat), 0, [t.thr], false⟩

theorem Kept.fixedAll (s : State) (t : Tid) (ds : List Dst) (lat : Nat) : Kept s (s.fixedAll t ds lat) [t] := by
  unfold State.fixedAll
  induction ds generalizing s with
  | nil => exact Kept.refl s [t]
  | cons d ds ih => exact (Kept.fixedOwn s t [t] (List.mem_singleton_self t) d lat).trans (ih _)

theorem thread_fixed (s : State) (t u : Tid) (own : List Nat) (d : Dst) (lat : Nat) :
    (s.fixed t own d lat).thread u = s.thread u := by
  rw [fixed_eq, afterOnce_thread]
  exact thread_modGroup_proj s _ _ (fun g => { g with pend := g.pend.filterMap (Pend.outrun d (s.cycle + lat)) ++
    [⟨d, some (s.cycle + lat), 0, own, false⟩] }) (fun _ => rfl) u

theorem thread_fixedAll (s : State) (t u : Tid) (ds : List Dst) (lat : Nat) : (s.fixedAll t ds lat).thread u = s.thread u :=
  foldl_proj (fun s : State => s.thread u) (fun s d => thread_fixed s t u [t.thr] d lat) ds s

/-- The results of one bundle join those under way, last in order; none of them discards another. -/
theorem pend_fixedAll_append {s : State} {t : Tid} (h : s.Has t.team t.grp) {lat : Nat} (hlat : 0 < lat) (ds : List Dst)
    (hk : ∀ d ∈ ds, ∀ n b y, d ≠ .k n b y) (l0 news : List Pend) (hp : (s.groupOf t).pend = l0 ++ news)
    (hn : ∀ e ∈ news, e.due = some (s.cycle + lat)) :
    ∃ l, (∀ e ∈ l, e ∈ l0) ∧ ((s.fixedAll t ds lat).groupOf t).pend = l ++ news ++ ds.map (s.fixedPend t lat) := by
  induction ds generalizing s l0 news with
  | nil => exact ⟨l0, fun _ he => he, hp.trans (List.append_nil _).symm⟩
  | cons d ds ih =>
    have hkept : Kept s (s.fixedOwn t d lat) [t] := Kept.fixedOwn s t [t] (List.mem_singleton_self t) d lat
    have hnews : news.filterMap (Pend.outrun d (s.cycle + lat)) = news :=
      filterMap_eq_self fun e he => Pend.outrun_of_le (hn e he) (Nat.le_refl _)
    have hp' : ((s.fixedOwn t d lat).groupOf t).pend =
        l0.filterMap (Pend.outrun d (s.cycle + lat)) ++ (news ++ [s.fixedPend t lat d]) := by
      refine (pend_fixed s t [t.thr] d lat h).trans ?_
      rw [show (s.group t.team t.grp).pend = l0 ++ news from hp, List.filterMap_append, hnews, List.append_assoc]
      rfl
    obtain ⟨l, hl, he⟩ := ih ((hkept.has _ _).mpr h) (fun d' hd' => hk d' (List.mem_cons_of_mem _ hd')) _ _ hp' fun e he => by
      rcases List.mem_append.mp he with he | he
      · rw [hn e he, hkept.cycle]
      · rw [List.mem_singleton.mp he, hkept.cycle]; rfl
    refine ⟨l, fun e' he' => mem_of_mem_outrun (by omega) (hk d (List.mem_cons_self ..)) (hl e' he'), ?_⟩
    have hpend : (s.fixedOwn t d lat).fixedPend t lat = s.fixedPend t lat := by
      unfold fixedPend
      rw [hkept.cycle]
    refine he.trans ?_
    rw [hpend, List.map_cons]
    simp only [List.append_assoc, List.singleton_append]

theorem pend_fixedAll {s : State} {t : Tid} (h : s.Has t.team t.grp) {lat : Nat} (hlat : 0 < lat) (ds : List Dst)
    (hk : ∀ d ∈ ds, ∀ n b y, d ≠ .k n b y) :
    ∃ l, (∀ e ∈ l, e ∈ (s.groupOf t).pend) ∧
      ((s.fixedAll t ds lat).groupOf t).pend = l ++ ds.map (s.fixedPend t lat) := by
  obtain ⟨l, hl, he⟩ := pend_fixedAll_append h hlat ds hk (s.groupOf t).pend [] (List.append_nil _).symm (by simp)
  exact ⟨l, hl, by rw [he, List.append_nil]⟩

/-- A bundle whose effect is fixed-latency results changes nothing else, and goes on. -/
theorem retire_fixedAll {s : State} {t : Tid} (h : s.Here t) (ds : List Dst) (lat : Nat) :
    onlyRegisters s ((s.fixedAll t ds lat).retire t s.cur.next false) [t] ∧
    goesOn s ((s.fixedAll t ds lat).retire t s.cur.next false) t s.cur.next false := by
  have hk := Kept.fixedAll s t ds lat
  exact ⟨onlyRegisters_of_kept (hk.trans (Kept.retire _ t [t] (List.mem_singleton_self t) _ _)),
    goesOn_retire ((hk.here t).mpr h) hk.cycle (congrArg Thread.pace (thread_fixedAll s t t ds lat)) _ _⟩

/-- A result that is not yet due is under way still once a bundle has completed. -/
theorem mem_pend_retire {s : State} {t : Tid} {e : Pend} (h : e ∈ (s.groupOf t).pend)
    (hdue : ∀ w, e.due = some w → s.cycle < w) (pc : DWord) (ends : Bool) : e ∈ ((s.retire t pc ends).groupOf t).pend := by
  obtain ⟨q, hq, he⟩ := pend_retire s t pc ends t.team t.grp
  rw [show ((s.retire t pc ends).groupOf t).pend = _ from he]
  exact List.mem_filter.mpr ⟨h, hq e hdue⟩

/-- A result of a bundle is under way once the bundle has completed. -/
theorem underWay_retire_fixedAll {s : State} {t : Tid} {lat : Nat} (hlat : 0 < lat) {ds : List Dst} {d : Dst}
    (h : s.fixedPend t lat d ∈ ((s.fixedAll t ds lat).groupOf t).pend) (pc : DWord) (ends : Bool) :
    underWay s ((s.fixedAll t ds lat).retire t pc ends) t [t.thr] d (some lat) := by
  refine ⟨_, mem_pend_retire h (fun w hw => ?_) pc ends, rfl, rfl, rfl, rfl⟩
  rw [(Kept.fixedAll s t _ lat).cycle, ← Option.some.inj hw]
  omega

end State

end Sys2Proof.Machine
end

section
/-! Words, compare bits and pointers that land at a fixed latency (05 R97; 06 R125; 07 R166 to R168; 08 R206). -/

namespace Sys2Proof.Machine

open Sys2Proof.Claims

/-! ### Names of one aligned pair or quad -/

/-- Names on the same side of v16 are different physical registers (01 R5). -/
theorem physOf_inj {base a b : Nat} (hs : a < 16 ↔ b < 16) (h : physOf base a = physOf base b) : a = b := by
  unfold physOf at h
  split at h <;> split at h <;> omega

theorem placed_range {α : Type} (ws : List α) (n : Nat) : ∀ p ∈ placed n ws, n ≤ p.1 ∧ p.1 < n + ws.length := by
  induction ws generalizing n with
  | nil => simp [placed]
  | cons w ws ih =>
    intro p hp
    rw [List.length_cons]
    rcases List.mem_cons.mp hp with rfl | hp
    · exact ⟨Nat.le_refl _, by dsimp only; omega⟩
    · have := ih (n + 1) p hp
      omega

/-- The place of an element, and what stands before and after it. -/
theorem placed_split {α : Type} (ws : List α) (n j : Nat) (x : α) (h : ws[j]? = some x) :
    ∃ l l', placed n ws = l ++ (n + j, x) :: l' ∧ ∀ p ∈ l', n + j < p.1 ∧ p.1 < n + ws.length := by
  induction ws generalizing n j with
  | nil => simp at h
  | cons w ws ih =>
    cases j with
    | zero =>
      obtain rfl : w = x := by simpa using h
      exact ⟨[], placed (n + 1) ws, rfl, fun p hp => by
        have := placed_range ws (n + 1) p hp
        rw [List.length_cons]
        omega⟩
    | succ j =>
      obtain ⟨l, l', he, hl⟩ := ih (n + 1) j (by simpa using h)
      refine ⟨(n, w) :: l, l', ?_, fun p hp => ?_⟩
      · rw [placed, he, show n + 1 + j = n + (j + 1) by omega, List.cons_append]
      · have := hl p hp
        rw [List.length_cons]
        omega

theorem getElem?_of_mem_placed {α : Type} (ws : List α) (n : Nat) (p : Nat × α) (h : p ∈ placed n ws) :
    ∃ j, p.1 = n + j ∧ ws[j]? = some p.2 := by
  induction ws generalizing n with
  | nil => simp [placed] at h
  | cons w ws ih =>
    rcases List.mem_cons.mp h with rfl | h
    · exact ⟨0, rfl, rfl⟩
    · obtain ⟨j, hj, hw⟩ := ih (n + 1) h
      exact ⟨j + 1, by omega, hw⟩

/-! ### What well-formed fields are (04 R70) -/

theorem fieldsFit_of_wellFormed {i : Instr} (h : i.WellFormed) : i.info.fieldsFit i.fmt = true := by
  unfold Instr.WellFormed Instr.wf Instr.wordOk at h
  simp only [Bool.and_eq_true] at h
  obtain ⟨-, hf, -⟩ := h
  exact hf

theorem Info.fits_of_fieldsFit_t {i : Info} {f : TF} (h : i.fieldsFit (.t f) = true) : i.d.fits f.d = true := by
  unfold Info.fieldsFit at h
  simp only [Bool.and_eq_true] at h
  obtain ⟨⟨hd, -⟩, -⟩ := h
  exact hd

theorem Info.kd_of_fieldsFit {i : Info} {f : KF} (hk : i.kw = true) (h : i.fieldsFit (.k f) = true) : f.kd.toNat ≠ 0 := by
  unfold Info.fieldsFit at h
  simp only [hk, Bool.not_true, Bool.false_or, Bool.and_eq_true, bne_iff_ne] at h
  obtain ⟨-, hkd⟩ := h
  intro h0
  exact hkd (BitVec.eq_of_toNat_eq h0)

/-- A vector pair begins at an even name. -/
theorem pair_aligned {i : Instr} {f : TF} (hf : i.fmt = .t f) (hd : i.info.d = .v2) (h : i.WellFormed) :
    f.d.toNat < 16 → f.d.toNat + 2 ≤ 16 := by
  have hfit := fieldsFit_of_wellFormed h
  rw [hf] at hfit
  have hfits := Info.fits_of_fieldsFit_t hfit
  rw [hd, Role.fits, beq_iff_eq] at hfits
  omega

/-- A vector quad begins at a multiple of 4. -/
theorem quad_aligned {i : Instr} {f : TF} (hf : i.fmt = .t f) (hd : i.info.d = .v4) (h : i.WellFormed) :
    f.d.toNat < 16 → f.d.toNat + 4 ≤ 16 := by
  have hfit := fieldsFit_of_wellFormed h
  rw [hf] at hfit
  have hfits := Info.fits_of_fieldsFit_t hfit
  rw [hd, Role.fits, beq_iff_eq] at hfits
  omega

/-! ### Special registers (01 R17) -/

/-- The numbers of the table of 01 R17. -/
def srNumbers : List Nat := [0x0000, 0x0001, 0x0002, 0x0003, 0x0004, 0x0010, 0x0011, 0x0012, 0x0013, 0x0020, 0x0021, 0x0022,
  0x1000, 0x1001, 0x2000, 0x2001, 0x2002, 0x2003, 0x2004, 0x3000, 0x3001, 0x3002, 0x3003, 0x4000, 0x4001, 0x4002, 0x4003]

theorem mem_srNumbers_of_listed {n : BitVec 15} (h : Sr.listed n = true) : n.toNat ∈ srNumbers := by
  unfold Sr.listed Sr.readOnly Sr.writable Sr.system at h
  simp only [Bool.or_eq_true, Bool.and_eq_true, decide_eq_true_eq, beq_iff_eq, ← BitVec.toNat_inj,
    BitVec.reduceToNat] at h
  simp only [srNumbers, List.mem_cons, List.not_mem_nil, or_false]
  omega

namespace State

/-- The width and the value of a register of the table. -/
theorem registerValue_of_mem (s : State) (t : Tid) :
    ∀ n ∈ srNumbers, registerValue s t n = some (Sr.wide (BitVec.ofNat 15 n), s.special t n) := by
  simp only [srNumbers, List.forall_mem_cons, List.not_mem_nil, false_implies, implies_true, and_true]
  refine ⟨?_, ?_, ?_, ?_, ?_, ?_, ?_, ?_, ?_, ?_, ?_, ?_, ?_, ?_, ?_, ?_, ?_, ?_, ?_, ?_, ?_, ?_, ?_, ?_, ?_, ?_, ?_⟩ <;> rfl

theorem registerValue_of_listed (s : State) (t : Tid) {n : BitVec 15} (h : Sr.listed n = true) :
    registerValue s t n.toNat = some (Sr.wide n, s.special t n.toNat) := by
  rw [registerValue_of_mem s t _ (mem_srNumbers_of_listed h), BitVec.ofNat_toNat, BitVec.setWidth_eq]

/-! ### Pairs, quads and single words -/

/-- The destinations of the words from name `d` on. -/
def wordDsts (s : State) (t : Tid) (d : Nat) (ws : List Word) : List Dst := (placed d ws).map fun p => s.vdst t p.1 p.2

/-- The instruction's effect is to put the words to the vector registers from `d` on, which are one aligned block. -/
def putsWords (s : State) (i : Instr) (t : Tid) (d lat : Nat) (ws : List Word) : Prop :=
  exec i s = .next ((s.fixedAll t (s.wordDsts t d ws) lat).retire t s.cur.next false) ∧ 0 < lat ∧ ws ≠ [] ∧
  (d < 16 → d + ws.length ≤ 16)

/-- What completing such an instruction comes to. -/
theorem settle_fixedAll {i : Instr} (hr : i.info.region = false) (s : State) (t : Tid) (ds : List Dst) (lat : Nat) :
    settle t i false (.done (s.fixedAll t ds lat)) = (s.fixedAll t ds lat).retire t s.cur.next false := by
  rw [settle_done hr, (Kept.fixedAll s t ds lat).cur]

/-- The words land together in their registers. -/
theorem words_land {s : State} {i : Instr} {t : Tid} {d lat : Nat} {ws : List Word} (hh : s.Here t)
    (h : putsWords s i t d lat ws) :
    ∃ s', exec i s = .next s' ∧ onlyRegisters s s' [t] ∧ goesOn s s' t s.cur.next false ∧ ws ≠ [] ∧
      (∀ j x, ws[j]? = some x → holdsV s s' t (d + j) x ∧
        underWay s s' t [t.thr] (.v t.thr (physOf (s.thread t).base (d + j)) x) (some lat)) ∧
      ∀ e ∈ (s'.groupOf t).pend, e ∈ (s.groupOf t).pend ∨ ∃ j x, ws[j]? = some x ∧
        e.dst = .v t.thr (physOf (s.thread t).base (d + j)) x := by
  obtain ⟨hexec, hlat, hne, hal⟩ := h
  have hk := Kept.fixedAll s t (s.wordDsts t d ws) lat
  obtain ⟨l, hl, hp⟩ := pend_fixedAll hh.1 hlat (s.wordDsts t d ws) fun e he n b y => by
    obtain ⟨p, -, rfl⟩ := List.mem_map.mp he
    exact Dst.noConfusion
  obtain ⟨honly, hgoes⟩ := retire_fixedAll hh (s.wordDsts t d ws) lat
  refine ⟨_, hexec, honly, hgoes, hne, fun j x hx => ?_, fun e he => ?_⟩
  · obtain ⟨a, b, hab, hb⟩ := placed_split ws d j x hx
    have hds : s.wordDsts t d ws = a.map (fun p => s.vdst t p.1 p.2) ++ s.vdst t (d + j) x :: b.map fun p => s.vdst t p.1 p.2 := by
      unfold wordDsts
      rw [hab, List.map_append, List.map_cons]
    have hj : j < ws.length := (List.getElem?_eq_some_iff.mp hx).1
    refine ⟨?_, ?_⟩
    · have hsplit : ((s.fixedAll t (s.wordDsts t d ws) lat).groupOf t).pend =
          (l ++ (a.map fun p => s.vdst t p.1 p.2).map (s.fixedPend t lat)) ++ s.fixedPend t lat (s.vdst t (d + j) x) ::
            (b.map fun p => s.vdst t p.1 p.2).map (s.fixedPend t lat) := by
        rw [hp, hds, List.map_append, List.map_cons, List.append_assoc]
      refine holdsV_retire hk hh hsplit (by simp [fixedPend]) rfl (fun w hw => ?_) rfl (fun e' he' y hy => ?_) _ _
      · rw [← Option.some.inj hw]
        omega
      · rw [List.map_map] at he'
        obtain ⟨p, hpb, rfl⟩ := List.mem_map.mp he'
        obtain ⟨-, hphys, -⟩ := Dst.v.inj hy
        have := hb p hpb
        have := physOf_inj (by omega) hphys
        omega
    · refine underWay_retire_fixedAll hlat ?_ _ _
      rw [hp, hds]
      exact List.mem_append_right _ (List.mem_map_of_mem (List.mem_append_right _ (List.mem_cons_self ..)))
  · have he := pend_retire_sub _ _ _ _ he
    rw [show (s.fixedAll t (s.wordDsts t d ws) lat).group t.team t.grp = (s.fixedAll t (s.wordDsts t d ws) lat).groupOf t from rfl,
      hp, List.mem_append, List.mem_map] at he
    rcases he with he | ⟨_, hd, rfl⟩
    · exact .inl (hl e he)
    · obtain ⟨p, hpm, rfl⟩ := List.mem_map.mp hd
      obtain ⟨j, hj, hx⟩ := getElem?_of_mem_placed ws d p hpm
      exact .inr ⟨j, p.2, hx, by rw [← hj]; rfl⟩

theorem putsWords_of_exec {s : State} {i : Instr} {t : Tid} {d lat : Nat} {ws : List Word} (hr : i.info.region = false)
    (he : exec i s = .next (settle t i false (.done (s.fixedAll t (s.wordDsts t d ws) lat)))) (hlat : 0 < lat) (hne : ws ≠ [])
    (hal : d < 16 → d + ws.length ≤ 16) : putsWords s i t d lat ws :=
  ⟨by rw [he, settle_fixedAll hr], hlat, hne, hal⟩

/-- An instruction whose result is a pair. -/
theorem putsWords_vecOp2 {s : State} {i : Instr} {t : Tid} {f : TF} {val : State → Tid → DWord} {x : DWord}
    (he : exec i s = .next (s.vecOp2 i f.d val)) (hf : i.fmt = .t f) (hd : i.info.d = .v2) (hr : i.info.region = false)
    (hlat : i.info.lat = 4) (hw : i.WellFormed) (ha : alone s i t) (hx : val s t = x) :
    putsWords s i t f.d.toNat 4 (words2 x) := by
  refine putsWords_of_exec hr ?_ (by decide) (by simp [words2]) (pair_aligned hf hd hw)
  rw [he, vecOp2, perThread_alone ha]
  dsimp only
  rw [hx, hlat]
  rfl

theorem mulWide_signed (a b : Word) : mulWide true a b = a.signExtend 64 * b.signExtend 64 := by
  refine (if_pos rfl).trans (BitVec.eq_of_toInt_eq ?_)
  rw [BitVec.toInt_mul, BitVec.toInt_signExtend_of_le (by decide), BitVec.toInt_signExtend_of_le (by decide),
    BitVec.toInt_ofInt]

theorem mulWide_unsigned (a b : Word) : mulWide false a b = a.zeroExtend 64 * b.zeroExtend 64 := by
  refine (if_neg (by decide)).trans (BitVec.eq_of_toNat_eq ?_)
  have ha := a.isLt
  have hb := b.isLt
  rw [BitVec.toNat_mul, BitVec.toNat_ofNat, BitVec.toNat_setWidth_of_le (by decide), BitVec.toNat_setWidth_of_le (by decide)]

/-- GETSR of a register that the table lists. -/
theorem putsWords_getsr {s : State} {t : Tid} {f : LF} (hw : Instr.WellFormed (.getsr f)) (ha : alone s (.getsr f) t) :
    putsWords s (.getsr f) t f.d.toNat 4 (match registerValue s t f.imm.toNat with
      | some (true, x) => words2 x
      | some (false, x) => [low x]
      | none => []) := by
  have hlisted : Sr.listed f.imm = true := by
    unfold Instr.WellFormed Instr.wf Instr.wordOk at hw
    simp only [Bool.and_eq_true] at hw
    obtain ⟨-, -, hx⟩ := hw
    exact hx
  have hfit : (if Sr.wide f.imm then Role.v2 else Role.v).fits f.d = true := fieldsFit_of_wellFormed hw
  have hexec : exec (.getsr f) s = .next (settle t (.getsr f) false (if Sr.wide f.imm = true
      then .done (s.fixedAll t (s.vdst2 t f.d.toNat (s.special t f.imm.toNat)) 4)
      else .done (s.fixedAll t [s.vdst t f.d.toNat (low (s.special t f.imm.toNat))] 4))) := by
    show Host.Outcome.next (s.perThread _ _) = _
    rw [perThread_alone ha]
    rfl
  rw [registerValue_of_listed s t hlisted]
  cases hwide : Sr.wide f.imm
  · rw [if_neg (by simp [hwide])] at hexec
    exact putsWords_of_exec rfl hexec (by decide) (List.cons_ne_nil _ _) Nat.succ_le_of_lt
  · rw [if_pos hwide] at hexec
    refine putsWords_of_exec rfl hexec (by decide) (List.cons_ne_nil _ _) ?_
    rw [if_pos hwide, Role.fits, beq_iff_eq] at hfit
    simp only [words2, List.length_cons, List.length_nil]
    omega

theorem putsWords_of_wordsResult (i : Instr) (s : State) (t : Tid) (d : Field) (lat : Nat) (val : State → Tid → List Word)
    (h : wordsResult i = some (d, lat, val)) (hw : i.WellFormed) (ha : alone s i t) :
    putsWords s i t d.toNat lat (val s t) := by
  unfold wordsResult at h
  split at h <;> cases h
  · exact putsWords_vecOp2 rfl rfl rfl rfl rfl hw ha rfl
  · exact putsWords_vecOp2 rfl rfl rfl rfl rfl hw ha rfl
  · exact putsWords_vecOp2 rfl rfl rfl rfl rfl hw ha (mulWide_signed _ _)
  · exact putsWords_vecOp2 rfl rfl rfl rfl rfl hw ha (mulWide_unsigned _ _)
  · exact putsWords_vecOp2 rfl rfl rfl rfl rfl hw ha rfl
  · exact putsWords_vecOp2 rfl rfl rfl rfl rfl hw ha rfl
  · refine putsWords_of_exec rfl ?_ (by decide) (by simp [words4, words2]) (quad_aligned rfl rfl hw)
    show Host.Outcome.next (s.perThread _ _) = _
    rw [perThread_alone ha]
    rfl
  · exact putsWords_getsr hw ha

end State

end Sys2Proof.Machine
end

section
/-! A bit of a mask or an address register at a fixed latency (06 R125; 07 R166, R167). -/

namespace Sys2Proof.Machine

open Sys2Proof.Claims

namespace State

/-! ### One result of a bundle -/

/-- The instruction's effect is one result of fixed latency. -/
def putsOne (s : State) (i : Instr) (t : Tid) (d : Dst) (lat : Nat) : Prop :=
  exec i s = .next ((s.fixedAll t [d] lat).retire t s.cur.next false)

theorem putsOne_of_perThread {s : State} {i : Instr} {t : Tid} {d : Dst} {body : State → Tid → Res}
    (he : exec i s = .next (s.perThread i body)) (hr : i.info.region = false) (ha : alone s i t) {lat : Nat}
    (hb : body s t = .done (s.fixedAll t [d] lat)) : putsOne s i t d lat := by
  unfold putsOne
  rw [he, perThread_alone ha, hb, settle_fixedAll hr]

theorem pend_fixedAll_one {s : State} {t : Tid} (h : s.Has t.team t.grp) (d : Dst) (lat : Nat) :
    ((s.fixedAll t [d] lat).groupOf t).pend =
      (s.groupOf t).pend.filterMap (Pend.outrun d (s.cycle + lat)) ++ [s.fixedPend t lat d] := pend_fixed s t [t.thr] d lat h

/-- What one result comes to: it is under way last in order, and nothing else changes but what an earlier-landing write
leaves of the others. -/
theorem one_lands {s : State} {t : Tid} (hh : s.Here t) {lat : Nat} (hlat : 0 < lat) (d : Dst) :
    onlyRegisters s ((s.fixedAll t [d] lat).retire t s.cur.next false) [t] ∧
    goesOn s ((s.fixedAll t [d] lat).retire t s.cur.next false) t s.cur.next false ∧
    underWay s ((s.fixedAll t [d] lat).retire t s.cur.next false) t [t.thr] d (some lat) ∧
    (∃ l, (((s.fixedAll t [d] lat).retire t s.cur.next false).groupOf t).pend = l ++ [s.fixedPend t lat d]) ∧
    ∀ e ∈ (((s.fixedAll t [d] lat).retire t s.cur.next false).groupOf t).pend, e = s.fixedPend t lat d ∨
      ∃ e0 ∈ (s.groupOf t).pend, Pend.outrun d (s.cycle + lat) e0 = some e := by
  have hp := pend_fixedAll_one hh.1 d lat
  obtain ⟨honly, hgoes⟩ := retire_fixedAll hh [d] lat
  have hdue : ∀ w, (s.fixedPend t lat d).due = some w → (s.fixedAll t [d] lat).cycle < w := fun w hw => by
    rw [(Kept.fixedAll s t [d] lat).cycle, ← Option.some.inj hw]
    omega
  refine ⟨honly, hgoes, underWay_retire_fixedAll hlat (by rw [hp]; simp) _ _, ?_, fun e he => ?_⟩
  · obtain ⟨q, hq⟩ := pend_retire_split hp hdue s.cur.next false
    exact ⟨_, hq⟩
  · have hmem : e ∈ ((s.fixedAll t [d] lat).groupOf t).pend := pend_retire_sub _ _ _ _ he
    rw [hp, List.mem_append, List.mem_filterMap, List.mem_singleton] at hmem
    exact hmem.symm

/-! ### A thread's bit of a mask -/

/-- A mask result of a thread's own bit that is last in order lands: the bit reads as it says. -/
theorem mask_landAll_bit {s : State} {t : Tid} (h : s.Has t.team t.grp) (hp : (s.thread t).present = true) (ht : t.thr < 64)
    {l : List Pend} {e : Pend} (hl : (s.groupOf t).pend = l ++ [e]) (he : e.own.contains t.thr = true) (hf : e.landed = false)
    {n : Nat} (hn : n ≠ 0) {x : Bool} (hd : e.dst = .k n (bit64 t.thr) (if x then bit64 t.thr else 0)) :
    (((s.landAll t).groupOf t).mask n).getLsbD t.thr = x := by
  obtain ⟨-, -, hk⟩ := pend_last s t h l e hl he hf
  have hpresent : (((s.landAll t).groupOf t).present).getLsbD t.thr = true := by
    have := presentFrom_of_present 0 ((s.landAll t).groupOf t).threads t.thr
      ((thread_landAll_proj (fun x => x.present) (fun _ _ => rfl) (fun _ _ => rfl) s t t).trans hp) (by omega)
    rwa [Nat.zero_add] at this
  unfold Group.mask
  rw [if_neg hn, hk, hd, BitVec.getLsbD_and, hpresent, Bool.and_true]
  simp only [Group.put, if_neg hn, Sp.get_set, if_true]
  cases x <;> simp [bit64, ht]

theorem bit_lands {s : State} {i : Instr} {t : Tid} {n : Nat} {x : Bool} (ha : alone s i t) (hn : n ≠ 0)
    (h : putsOne s i t (.k n (bit64 t.thr) (if x then bit64 t.thr else 0)) 2) :
    ∃ s', exec i s = .next s' ∧ onlyRegisters s s' [t] ∧ goesOn s s' t s.cur.next false ∧
      (((s'.landAll t).groupOf t).mask n).getLsbD t.thr = x ∧
      underWay s s' t [t.thr] (.k n (1#64 <<< t.thr) (if x then 1#64 <<< t.thr else 0)) (some 2) ∧
      ∀ e ∈ (s'.groupOf t).pend, e ∈ (s.groupOf t).pend ∨ ∃ b y, e.dst = .k n b y ∧
        (b = 1#64 <<< t.thr ∨ ∃ e' ∈ (s.groupOf t).pend, ∃ b', e'.dst = .k n b' y ∧ b &&& ~~~b' = 0) := by
  obtain ⟨hh, ht, hpresent⟩ := here_of_governed s t i (governed_of_alone ha)
  obtain ⟨honly, hgoes, hunder, ⟨l, hl⟩, hmem⟩ := one_lands hh (lat := 2) (by decide)
    (.k n (bit64 t.thr) (if x then bit64 t.thr else 0))
  have hkept := (Kept.fixedAll s t [.k n (bit64 t.thr) (if x then bit64 t.thr else 0)] 2).trans
    (Kept.retire _ t [t] (List.mem_singleton_self t) s.cur.next false)
  refine ⟨_, h, honly, hgoes, ?_, hunder, fun e he => ?_⟩
  · refine mask_landAll_bit ((hkept.has _ _).mpr hh.1) ?_ ht hl (by simp [fixedPend]) rfl hn rfl
    rw [hkept.proj (fun x => x.present) (fun _ => rfl) t, hpresent]
  · rcases hmem e he with rfl | ⟨e0, he0, hout⟩
    · exact .inr ⟨_, _, rfl, .inl rfl⟩
    · rcases Pend.outrun_inv (by omega) hout with rfl | ⟨m, bits, y, b, z, hd0, hnew, hd⟩
      · exact .inl he0
      · cases hnew
        refine .inr ⟨_, y, hd, .inr ⟨e0, he0, bits, hd0, ?_⟩⟩
        rw [BitVec.and_comm bits, BitVec.and_assoc]
        simp

/-- A compare's bit is one result of two cycles. -/
theorem putsOne_bitOp {s : State} {i : Instr} {t : Tid} {n : Nat} {val : State → Tid → Bool} {x : Bool} (ha : alone s i t)
    (he : exec i s = .next (s.bitOp i n val)) (hr : i.info.region = false) (hlat : i.info.lat = 2) (hx : val s t = x) :
    putsOne s i t (.k n (bit64 t.thr) (if x then bit64 t.thr else 0)) 2 :=
  putsOne_of_perThread he hr ha (by rw [hx, hlat]; rfl)

theorem kd_of_wellFormed {i : Instr} {f : KF} (hf : i.fmt = .k f) (hk : i.info.kw = true) (h : i.WellFormed) :
    f.kd.toNat ≠ 0 :=
  Info.kd_of_fieldsFit hk (hf ▸ fieldsFit_of_wellFormed h)

theorem putsOne_of_bitResult (i : Instr) (s : State) (t : Tid) (kd : BitVec 3) (val : State → Tid → Bool)
    (h : bitResult i = some (kd, val)) (hw : i.WellFormed) (ha : alone s i t) :
    kd.toNat ≠ 0 ∧ putsOne s i t (.k kd.toNat (bit64 t.thr) (if val s t then bit64 t.thr else 0)) 2 := by
  unfold bitResult at h
  split at h <;> cases h
  · exact ⟨kd_of_wellFormed rfl rfl hw, putsOne_bitOp ha rfl rfl rfl rfl⟩
  · exact ⟨kd_of_wellFormed rfl rfl hw, putsOne_bitOp ha rfl rfl rfl rfl⟩
  · exact ⟨kd_of_wellFormed rfl rfl hw, putsOne_bitOp ha rfl rfl rfl rfl⟩
  · refine ⟨kd_of_wellFormed rfl rfl hw, putsOne_bitOp ha rfl rfl rfl ?_⟩
    exact (decide_not ..).symm
  · next f =>
    refine ⟨kd_of_wellFormed rfl rfl hw, putsOne_bitOp ha rfl rfl rfl ?_⟩
    refine Bool.eq_iff_iff.mpr ?_
    dsimp only
    generalize f.cond.toNat = n
    match n with
    | 0 => exact decide_eq_true_iff.trans decide_eq_true_iff.symm
    | 1 => exact bne_iff_ne.trans decide_eq_true_iff.symm
    | 2 => exact Iff.rfl
    | _ + 3 =>
      exact Bool.or_eq_true_iff.trans
        ((or_congr Iff.rfl (decide_eq_true_iff.trans decide_eq_true_iff.symm)).trans Bool.or_eq_true_iff.symm)

/-! ### An address register -/

theorem pointer_lands {s : State} {i : Instr} {t : Tid} {d : Nat} {x : AReg} (ha : alone s i t)
    (h : putsOne s i t (.a t.thr d x) 4) :
    ∃ s', exec i s = .next s' ∧ onlyRegisters s s' [t] ∧ goesOn s s' t s.cur.next false ∧ holdsA s s' t d x ∧
      underWay s s' t [t.thr] (.a t.thr d x) (some 4) ∧ noOtherResult s s' t [.a t.thr d x] := by
  have hh := here_of_alone ha
  obtain ⟨honly, hgoes, hunder, ⟨l, hl⟩, hmem⟩ := one_lands hh (lat := 4) (by decide) (.a t.thr d x)
  have hkept := (Kept.fixedAll s t [.a t.thr d x] 4).trans (Kept.retire _ t [t] (List.mem_singleton_self t) s.cur.next false)
  refine ⟨_, h, honly, hgoes, ?_, hunder, fun e he => ?_⟩
  · unfold holdsA
    rw [areg_landAll _ t ((hkept.here t).mpr hh) l _ d x hl (by simp [fixedPend]) rfl rfl, hkept.areg]
  · rcases hmem e he with rfl | ⟨e0, he0, hout⟩
    · exact .inr (List.mem_singleton_self _)
    · rcases Pend.outrun_inv (by omega) hout with rfl | ⟨m, bits, y, b, z, -, hnew, -⟩
      · exact .inl he0
      · cases hnew

theorem putsOne_of_pointerResult (i : Instr) (s : State) (t : Tid) (d : Field) (val : State → Tid → AReg)
    (h : pointerResult i = some (d, val)) (ha : alone s i t) : putsOne s i t (.a t.thr d.toNat (val s t)) 4 := by
  unfold pointerResult at h
  split at h <;> cases h
  · exact putsOne_of_perThread rfl rfl ha rfl
  · exact putsOne_of_perThread rfl rfl ha rfl
  · exact putsOne_of_perThread rfl rfl ha rfl
  · exact putsOne_of_perThread rfl rfl ha rfl

end State

end Sys2Proof.Machine

open Sys2Proof.Machine.State in
/-- Settles O2: each instruction's effect is results of one fixed latency, which land last of those under way for their
registers; names of one aligned block are different registers, so that no word of a pair or quad overwrites another. -/
theorem wideComparedAndPointerResultsLand : Obligations.WideComparedAndPointerResultsLand :=
  ⟨fun i s t d lat val h hw ha => words_land (here_of_alone ha) (putsWords_of_wordsResult i s t d lat val h hw ha),
    fun i s t kd val h hw ha =>
      have ⟨hkd, hput⟩ := putsOne_of_bitResult i s t kd val h hw ha
      bit_lands ha hkd hput,
    fun i s t d val h ha => pointer_lands ha (putsOne_of_pointerResult i s t d val h ha)⟩
end

section
/-! Two statements that do not hold: SETSR of DLVREF in a cycle with refusals (01 R19), and a misaligned load whose request
has been answered (23 R368). -/

namespace Sys2Proof.Machine

open Sys2Proof.Claims

/-- The thread of the examples. -/
def firstThread : Tid := ⟨0, 0, 0⟩

/-- A loaded program whose first thread issues. -/
def issuingFirst : State := { State.reset.programLoaded with cur := ⟨0, [firstThread], 0x10000, 0x10000, 0x10004⟩ }

/-! ### DLVREF -/

/-- SETSR of DLVREF (0x2004) from v1. -/
def setDlvref : Instr := .setsr ⟨⟨none, none⟩, 1, 0x2004⟩

/-- One delivery of the team was refused in this cycle; v1 is 5. -/
def refusedThisCycle : State :=
  (issuingFirst.modThread firstThread fun x => { x with v := [(1, 5)] }).modTeam 0 fun m =>
    { m with dlvNow := (issuingFirst.cycle, 1) }

theorem alone_setDlvref : alone refusedThisCycle setDlvref firstThread := by
  unfold alone takesPart
  decide +kernel

/-- The team's DLVREF after a step. -/
def dlvrefAfter : Host.Outcome State Fault Refusal → Option Word
  | .next s => some (s.team 0).dlvref
  | _ => none

/-- The refusal of the same cycle is counted after the write. -/
theorem dlvrefAfter_setDlvref : dlvrefAfter (exec setDlvref refusedThisCycle) = some 6 := by decide +kernel

theorem vreg_refusedThisCycle : (refusedThisCycle.thread firstThread).vreg 1 = 5 := by decide +kernel

/-! ### A load whose answer has come -/

/-- LD.B32 of v4 through a1. -/
def loadThroughA1 : Instr := .ldB32 ⟨⟨none, none⟩, 4, 1, 0⟩

/-- The context has a handler; the address in a1 is odd, and the request that the thread sent has been answered. -/
def answeredAtOddAddress : State :=
  (issuingFirst.modCtx 1 fun k => { k with hbase := 0x8000 }).modThread firstThread fun x =>
    { x with a := [(1, ⟨1, Tether.clear⟩)], reply := .data 0, sent := some ⟨2, 0, 0, false, 0, []⟩ }

theorem alone_loadThroughA1 : alone answeredAtOddAddress loadThroughA1 firstThread := by
  unfold alone takesPart
  decide +kernel

theorem handled_answeredAtOddAddress : handled answeredAtOddAddress firstThread := by
  unfold handled
  decide +kernel

theorem operandTrap_loadThroughA1 : operandTrap answeredAtOddAddress firstThread loadThroughA1 = some (.misaligned, 1) := by
  decide +kernel

/-- The first thread's TRAPCAUSE after a step. -/
def trapCauseAfter : Host.Outcome State Fault Refusal → Option Word
  | .next s => some (s.thread firstThread).trapCause
  | _ => none

/-- The load takes its answer and traps nothing. -/
theorem trapCauseAfter_loadThroughA1 : trapCauseAfter (exec loadThroughA1 answeredAtOddAddress) = some 0 := by decide +kernel

end Sys2Proof.Machine

open Sys2Proof.Machine in
/-- Refutes O11: a refusal of the cycle in which SETSR writes DLVREF is counted after the write (01 R19), so that the
register does not hold the source; here it holds 6 where v1 is 5. -/
theorem not_instructionsThatActAtOnce : ¬ Obligations.InstructionsThatActAtOnce := by
  unfold Obligations.InstructionsThatActAtOnce
  rintro ⟨h, -⟩
  obtain ⟨s', hexec, -, -, hteam, -, -⟩ := h setDlvref refusedThisCycle firstThread _ _ rfl alone_setDlvref
  have h5 : (s'.team 0).dlvref = 5 := (congrArg Team.dlvref (hteam 0)).trans vreg_refusedThisCycle
  have h6 := dlvrefAfter_setDlvref
  rw [hexec, dlvrefAfter, h5] at h6
  exact absurd h6 (by decide)

open Sys2Proof.Machine in
/-- Refutes O13: a load whose request has been answered takes the answer and no longer looks at its address (23 R368); here
the address is odd, and the thread goes on with TRAPCAUSE 0. -/
theorem not_decodeAndOperandTraps : ¬ Obligations.DecodeAndOperandTraps := by
  unfold Obligations.DecodeAndOperandTraps
  rintro ⟨-, h, -⟩
  obtain ⟨s', hexec, hcause, -⟩ := h loadThroughA1 answeredAtOddAddress firstThread _ _ operandTrap_loadThroughA1
    alone_loadThroughA1 handled_answeredAtOddAddress
  have h0 := trapCauseAfter_loadThroughA1
  rw [hexec, trapCauseAfter, hcause] at h0
  exact absurd h0 (by decide)
end

section
/-! Loads and stores: what an access that has been made comes to (07 R154, R156, R160, R161, R165, R169). -/

namespace Sys2Proof.Machine

open Sys2Proof.Claims

theorem Memory.bytes_length (m : Memory) (a n : Nat) : (m.bytes a n).length = n := by
  induction n generalizing a with
  | zero => rfl
  | succ n ih => rw [Memory.bytes, List.length_cons, ih]

theorem Memory.nthD_bytes (m : Memory) (a n j : Nat) (h : j < n) : nthD 0 (m.bytes a n) j = m.get (a + j) := by
  induction n generalizing a j with
  | zero => omega
  | succ n ih =>
    cases j with
    | zero => rfl
    | succ j =>
      rw [Memory.bytes, nthD, ih (a + 1) j (by omega)]
      congr 1
      omega

theorem bytesAt_length (l : List Byte) (a : Nat) : (bytesAt a l).length = l.length := by
  induction l generalizing a with
  | nil => rfl
  | cons x l ih => rw [bytesAt, List.length_cons, List.length_cons, ih]

/-- Bytes put at rising addresses read back one by one. -/
theorem Memory.get_putAll_bytesAt (l : List Byte) (m : Memory) (a j : Nat) (h : j < l.length) :
    (m.putAll (bytesAt a l)).get (a + j) = nthD 0 l j := by
  rw [← Memory.nthD_bytes _ a l.length j h, Memory.bytes_putAll]

/-! ### The words of loaded bytes (02 R25, 07 R160) -/

/-- The class of a load's destination: a register, a pair, a quad. -/
def loadRole (n : Nat) : Role := if n = 8 then .v2 else if n = 16 then .v4 else .v

theorem loadedWords_length (sg : Bool) (b : List Byte) :
    (loadedWords sg b).length = if b.length = 8 then 2 else if b.length = 16 then 4 else 1 := by
  unfold loadedWords
  split
  · rfl
  · split
    · rfl
    · split <;> rfl

/-- The words of a load are names on one side of v16. -/
theorem loadedWords_aligned {d : Field} (sg : Bool) {b : List Byte} (h : (loadRole b.length).fits d = true) :
    d.toNat < 16 → d.toNat + (loadedWords sg b).length ≤ 16 := by
  rw [loadedWords_length]
  unfold loadRole at h
  split
  · next h8 =>
    rw [if_pos h8, Role.fits, beq_iff_eq] at h
    omega
  · next h8 =>
    rw [if_neg h8] at h
    split
    · next h16 =>
      rw [if_pos h16, Role.fits, beq_iff_eq] at h
      omega
    · omega

theorem Info.fits_of_fieldsFit_i {i : Info} {f : IF} (h : i.fieldsFit (.i f) = true) : i.d.fits f.d = true := by
  unfold Info.fieldsFit at h
  simp only [Bool.and_eq_true] at h
  obtain ⟨⟨hd, -⟩, -⟩ := h
  exact hd

theorem fits_of_wellFormed_i {i : Instr} {f : IF} {r : Role} (hf : i.fmt = .i f) (hd : i.info.d = r) (h : i.WellFormed) :
    r.fits f.d = true :=
  hd ▸ Info.fits_of_fieldsFit_i (hf ▸ fieldsFit_of_wellFormed h)

namespace State

theorem loadDst_eq (s : State) (t : Tid) (d : Nat) (sg : Bool) (b : List Byte) :
    s.loadDst t d sg b = s.wordDsts t d (loadedWords sg b) := by
  unfold loadDst loadedWords
  split
  · next h => rw [if_pos h]; rfl
  · next h => rw [if_neg (by omega), if_pos h]; rfl
  · next h8 h16 =>
    rw [if_neg h8, if_neg h16]
    unfold extend
    simp only [Bool.and_eq_true, decide_eq_true_eq]
    split <;> rfl

/-- A load that makes its access has as many bytes as it asks for. -/
theorem load_length {s s1 : State} {t : Tid} {own : List Tid} {reg n : Nat} {a : DWord} {ro nt : Bool} {b : List Byte}
    (h : s.load t own reg a n ro nt = .ok s1 b) : b.length = n := by
  unfold load at h
  split at h
  · unfold farAnswer at h
    dsimp only at h
    split at h
    · cases h
      rw [List.length_map, bytesAt_length, replyBytes, leBytes_length]
    · cases h
    · cases h
  · split at h
    · cases h
    · cases h
    · cases h
      exact Memory.bytes_length _ _ _
    · split at h
      · cases h
      · cases h
      · dsimp only at h
        split at h
        · unfold loadFar at h
          dsimp only at h
          split at h
          · split at h
            · cases h
            · split at h <;> cases h
          · split at h <;> cases h
        · split at h
          · cases h
          · cases h
            unfold loadBytes
            dsimp only
            split <;> simp

/-! ### Results of variable latency (04 R85) -/

/-- A bundle whose effect is the words of a load goes on, and they land together in their registers. -/
theorem words_land_later {s : State} {t : Tid} (hh : s.Here t) {d : Nat} {ws : List Word} (hal : d < 16 → d + ws.length ≤ 16) :
    let s' := (s.landLater t [t.thr] (s.wordDsts t d ws)).retire t s.cur.next false
    onlyRegisters s s' [t] ∧ goesOn s s' t s.cur.next false ∧
      ∀ j x, ws[j]? = some x → holdsV s s' t (d + j) x ∧
        underWay s s' t [t.thr] (.v t.thr (physOf (s.thread t).base (d + j)) x) none := by
  have hk : Kept s (s.landLater t [t.thr] (s.wordDsts t d ws)) [t] := Kept.landLater s t [t] (List.mem_singleton_self t) _ _
  have hp := pend_landLater hh.1 [t.thr] (s.wordDsts t d ws)
  refine ⟨onlyRegisters_of_kept (hk.trans (Kept.retire _ t [t] (List.mem_singleton_self t) _ _)),
    goesOn_retire ((hk.here t).mpr hh) hk.cycle (congrArg Thread.pace (thread_landLater s t t _ _)) _ _, fun j x hx => ?_⟩
  obtain ⟨l, l', hl, hl'⟩ := placed_split ws d j x hx
  have hj : j < ws.length := (List.getElem?_eq_some_iff.mp hx).1
  let pend : Nat × Word → Pend := fun p => ⟨s.vdst t p.1 p.2, none, s.nextId, [t.thr], false⟩
  have hsplit : ((s.landLater t [t.thr] (s.wordDsts t d ws)).groupOf t).pend =
      ((s.groupOf t).pend ++ l.map pend) ++ pend (d + j, x) :: l'.map pend := by
    rw [hp, wordDsts, hl, List.map_map, List.map_append, List.map_cons, List.append_assoc]
    rfl
  refine ⟨holdsV_retire hk hh hsplit (by simp [pend]) rfl (fun w hw => by cases hw) rfl (fun e he y hy => ?_) _ _,
    pend (d + j, x), mem_pend_retire ?_ (fun w hw => by cases hw) _ _, rfl, rfl, rfl, rfl⟩
  · obtain ⟨p, hpl, rfl⟩ := List.mem_map.mp he
    obtain ⟨-, hphys, -⟩ := Dst.v.inj hy
    have := hl' p hpl
    have := physOf_inj (by omega) hphys
    omega
  · rw [hsplit]
    exact List.mem_append_right _ (List.mem_cons_self ..)

/-- What a load comes to, once its bytes are there, for an instruction without a region. -/
theorem settle_loaded {s : State} {t : Tid} {i : Instr} (hr : i.info.region = false) (hh : s.Here t) {d : Field} (sg : Bool)
    {b : List Byte} (hf : (loadRole b.length).fits d = true) :
    let s' := settle t i false (.done (s.landLater t [t.thr] (s.loadDst t d.toNat sg b)))
    onlyRegisters s s' [t] ∧ goesOn s s' t s.cur.next false ∧
      ∀ j x, (loadedWords sg b)[j]? = some x → holdsV s s' t (d.toNat + j) x ∧
        underWay s s' t [t.thr] (.v t.thr (physOf (s.thread t).base (d.toNat + j)) x) none := by
  dsimp only
  rw [settle_done hr, loadDst_eq, (Kept.landLater s t [t] (List.mem_singleton_self t) _ _).cur]
  exact words_land_later hh (loadedWords_aligned sg hf)

/-! ### Effects without a result -/

/-- A bundle without a region completes whose effect moves no thread: the thread goes on, and the rest is as the effect left
it. -/
theorem settle_effect {s s' : State} {i : Instr} {t : Tid} {st : State → State} {co : Core → Core} {te : Team → Team}
    (hr : i.info.region = false) (hf : frame s s' [] st co te id) (hp : (s.thread t).present = true)
    (hc : s'.cycle = s.cycle) (hn : s'.cur = s.cur) :
    let s'' := settle t i false (.done s')
    frame s s'' [t] st co te id ∧ goesOn s s'' t s.cur.next false ∧ noOtherResult s s'' t [] := by
  obtain ⟨hgoes, hno, -, -, -⟩ := completed_settle (i := i) hf hp hc hn
  refine ⟨?_, hgoes, hno⟩
  rw [settle_done hr]
  exact frame_trans (frame_widen hf _ _) (frame_of_kept (Kept.retire s' t [t] (List.mem_singleton_self t) _ _) _ _ _ _)

/-! ### What each form does -/

/-- A load makes one access and lands its bytes. -/
theorem exec_loads {i : Instr} {d : Field} {sg : Bool} {p : Pfx} (h : loads i = some (d, sg, p)) :
    ∃ n reg a, accesses i = some (n, reg, a) ∧ i.info.region = false ∧ (i.WellFormed → (loadRole n).fits d = true) ∧
      ∀ s, exec i s = .next (s.perThread i fun s t => loaded t (fun s b => s.loadDst t d.toNat sg b)
        (s.load t [t] reg (a s t) n (readOnly p) (nonTemporal p))) := by
  unfold loads at h
  split at h <;> cases h
  case h_1 | h_2 | h_3 | h_4 | h_5 => exact ⟨_, _, _, rfl, rfl, fun _ => rfl, fun _ => rfl⟩
  case h_6 => exact ⟨_, _, _, rfl, rfl, fits_of_wellFormed_i rfl rfl, fun _ => rfl⟩
  case h_7 => exact ⟨_, _, _, rfl, rfl, fits_of_wellFormed_i rfl rfl, fun _ => rfl⟩
  case h_8 | h_9 => exact ⟨_, _, _, rfl, rfl, fun _ => rfl, fun _ => rfl⟩

/-- A store through an address register, or from a uniform base, makes one access. -/
theorem exec_stores {i : Instr} {b : State → Tid → List Byte} (h : storedBytes i = some b) (ha : (accesses i).isSome) :
    ∃ n reg a, accesses i = some (n, reg, a) ∧ loads i = none ∧ i.info.region = false ∧
      ∀ s, exec i s = .next (s.perThread i fun s t => stored (s.store t reg (a s t) (b s t) (nonTemporal i.pfx))) := by
  unfold storedBytes at h
  split at h <;> cases h
  case h_8 | h_9 | h_10 => exact absurd ha Bool.false_ne_true
  all_goals exact ⟨_, _, _, rfl, rfl, rfl, fun _ => rfl⟩

/-- A delivering store makes one access and begins a region after itself. -/
theorem exec_deliveries {i : Instr} {f : TF} {n : Nat} (h : deliveries i = some (f, n)) :
    accesses i = none ∧ atomics i = none ∧ i.info.region = true ∧
      ∀ s, exec i s = .next (s.perThread i fun s t =>
        stored (s.deliverStore t i f.a.toNat ((s.groupOf t).sreg f.b.toNat) (s.storeSrc t f.d.toNat n))) := by
  unfold deliveries at h
  split at h <;> cases h
  all_goals exact ⟨rfl, rfl, rfl, fun _ => rfl⟩

/-- The state in which a store's access has been made. -/
theorem access_store {s s1 : State} {t : Tid} {i : Instr} {n reg : Nat} {a : State → Tid → DWord} {b : State → Tid → List Byte}
    {e : List Byte} (hacc : accesses i = some (n, reg, a)) (hl : loads i = none) (hb : storedBytes i = some b)
    (h : access s t i = some (.ok s1 e)) : s.store t reg (a s t) (b s t) (nonTemporal i.pfx) = .ok s1 := by
  unfold access at h
  rw [hacc, hl, hb] at h
  dsimp only at h
  split at h
  · next hs => cases h; exact hs
  · cases h
  · cases h

/-- The state in which a delivering store's access has been made. -/
theorem access_delivery {s s1 : State} {t : Tid} {i : Instr} {f : TF} {n : Nat} {e : List Byte} (hacc : accesses i = none)
    (hat : atomics i = none) (hd : deliveries i = some (f, n)) (h : access s t i = some (.ok s1 e)) :
    s.deliverStore t i f.a.toNat ((s.groupOf t).sreg f.b.toNat) (s.storeSrc t f.d.toNat n) = .ok s1 := by
  unfold access at h
  rw [hacc, hat, hd] at h
  dsimp only at h
  split at h
  · next hs => cases h; exact hs
  · cases h
  · cases h

theorem load_completes (i : Instr) (s s1 : State) (t : Tid) (d : Field) (sg : Bool) (p : Pfx) (b : List Byte)
    (hl : loads i = some (d, sg, p)) (hw : i.WellFormed) (ha : alone s i t) (hok : access s t i = some (.ok s1 b))
    (hp : (s1.thread t).present = true) :
    ∃ s', exec i s = .next s' ∧ onlyRegisters s1 s' [t] ∧ goesOn s1 s' t s1.cur.next false ∧
      ∀ j x, (loadedWords sg b)[j]? = some x → holdsV s1 s' t (d.toNat + j) x ∧
        underWay s1 s' t [t.thr] (.v t.thr (physOf (s1.thread t).base (d.toNat + j)) x) none := by
  obtain ⟨n, reg, a, hacc, hr, hfit, hexec⟩ := exec_loads hl
  have hload : s.load t [t] reg (a s t) n (readOnly p) (nonTemporal p) = .ok s1 b := by
    unfold access at hok
    rw [hacc, hl] at hok
    exact Option.some.inj hok
  refine ⟨_, ?_, settle_loaded hr (here_of_present hp) sg (load_length hload ▸ hfit hw)⟩
  rw [hexec, perThread_alone ha, hload]
  rfl

theorem store_completes (i : Instr) (s s1 : State) (t : Tid) (b : State → Tid → List Byte) (e : List Byte)
    (hb : storedBytes i = some b) (hi : (accesses i).isSome) (ha : alone s i t) (hok : access s t i = some (.ok s1 e))
    (hp : (s1.thread t).present = true) :
    ∃ s', exec i s = .next s' ∧ onlyRegisters s1 s' [t] ∧ goesOn s1 s' t s1.cur.next false ∧ noOtherResult s1 s' t [] := by
  obtain ⟨n, reg, a, hacc, hl, hr, hexec⟩ := exec_stores hb hi
  refine ⟨settle t i false (.done s1), ?_, settle_effect hr (frame_refl _ _ _ _ _ _) hp rfl rfl⟩
  rw [hexec, perThread_alone ha, access_store hacc hl hb hok]
  rfl

theorem delivery_completes (i : Instr) (f : TF) (n : Nat) (s s1 : State) (t : Tid) (e : List Byte)
    (hd : deliveries i = some (f, n)) (ha : alone s i t) (hok : access s t i = some (.ok s1 e))
    (hp : (s1.thread t).present = true) :
    ∃ s', exec i s = .next s' ∧ goesOn s1 s' t s1.cur.next false ∧ noOtherResult s1 s' t [] ∧
      (s'.thread t).region = s1.cur.next ∧ (s'.thread t).rgncnt = (s1.thread t).rgncnt + 1 ∧
      frame s1 s' [t] id id id fun x => { x with region := 0, rgncnt := 0 } := by
  obtain ⟨hacc, hat, hr, hexec⟩ := exec_deliveries hd
  have hdone := completed_settle (i := i) (frame_refl s1 [] id id id id) hp rfl rfl
  rw [hr] at hdone
  refine ⟨settle t i false (.done s1), ?_, hdone⟩
  rw [hexec, perThread_alone ha, access_delivery hacc hat hd hok]
  rfl

end State

end Sys2Proof.Machine

open Sys2Proof.Machine.State in
/-- Settles O19: a load's bytes are as many as it asks for, so that they are one aligned block of words, which land together
after those under way; completing a store's bundle changes nothing that the access left. -/
theorem loadsAndStoresComplete : Obligations.LoadsAndStoresComplete :=
  ⟨load_completes, store_completes, delivery_completes⟩
end

section
/-! Accesses in the scratchpad (07 R156, R160, R161, 08 R199). -/

namespace Sys2Proof.Machine

open Sys2Proof.Claims

namespace State

/-! ### Where an address in the window leads -/

theorem placeOf_window {va : Nat} (hlo : windowBase ≤ va) (hhi : va ≤ windowBase + 0x200000) : placeOf va = .scratch := by
  unfold windowBase at hlo hhi
  unfold placeOf
  rw [if_neg (by omega), if_neg (by omega), if_neg (by omega), if_pos (by omega)]

theorem locate_inScratchpad {s : State} {t : Tid} {a : DWord} {n : Nat} (h : inScratchpad s t a n) (reg : Nat) (need : Need) :
    s.locate t reg a n need = (s, .scratch (a.toNat - windowBase)) := by
  obtain ⟨hal, hlo, hwin, hsize⟩ := h
  unfold locate
  rw [if_neg (by simp [hal]), placeOf_window hlo (by omega)]
  dsimp only
  rw [locateScratch, if_pos ⟨hwin, hsize⟩]

theorem load_inScratchpad {s : State} {t : Tid} {a : DWord} {n : Nat} (h : inScratchpad s t a n) (hans : s.answered t = none)
    (own : List Tid) (reg : Nat) (ro nt : Bool) :
    s.load t own reg a n ro nt = .ok s ((s.team t.team).scratch.bytes (a.toNat - windowBase) n) := by
  unfold load
  rw [hans]
  dsimp only
  rw [locate_inScratchpad h]

theorem store_inScratchpad {s : State} {t : Tid} {a : DWord} {b : List Byte} (h : inScratchpad s t a b.length) (reg : Nat)
    (nt : Bool) : s.store t reg a b nt =
      if s.isLent t.team (a.toNat - windowBase) b.length then
        .hold s (.lent (a.toNat - windowBase) (a.toNat - windowBase + b.length))
      else .ok (s.scratchWrite t.team (a.toNat - windowBase) b) := by
  unfold store
  dsimp only
  rw [locate_inScratchpad h]

/-! ### Writes of a scratchpad -/

theorem frame_scratchWrite (s : State) (n off : Nat) (b : List Byte) :
    frame s (s.scratchWrite n off b) [] id id (fun m => { m with scratch := [] }) id :=
  frame_modTeam s n _ id id _ (fun _ => rfl) fun _ => rfl

/-- The team's bytes are as written, and its others as before. -/
theorem scratchpadWith_scratchWrite {s : State} {n : Nat} (h : n < s.teams.length) (off : Nat) (b : List Byte) :
    scratchpadWith (s.team n) ((s.scratchWrite n off b).team n) off b := by
  unfold scratchWrite
  rw [team_modTeam_self s _ h]
  exact ⟨Memory.get_putAll_bytesAt b _ off, fun k => Memory.get_putAll_bytesAt_of_outside b _ off k⟩

theorem scratch_scratchWrite_ne (s : State) {n m : Nat} (h : m ≠ n) (off : Nat) (b : List Byte) :
    ((s.scratchWrite n off b).team m).scratch = (s.team m).scratch :=
  congrArg Team.scratch (team_modTeam_ne s _ h.symm)

theorem scratchpad_load_ok (s : State) (t : Tid) (own : List Tid) (reg n : Nat) (a : DWord) (ro nt : Bool)
    (h : inScratchpad s t a n) (hans : s.answered t = none) :
    ∃ b, s.load t own reg a n ro nt = .ok s b ∧ b.length = n ∧
      ∀ j, j < n → nthD 0 b j = (s.team t.team).scratch.get (a.toNat - windowBase + j) :=
  ⟨_, load_inScratchpad h hans own reg ro nt, Memory.bytes_length _ _ _, Memory.nthD_bytes _ _ _⟩

theorem scratchpad_store_ok (s : State) (t : Tid) (reg n : Nat) (a : DWord) (nt : Bool) (h : inScratchpad s t a n) (b : List Byte)
    (hb : b.length = n) :
    let off := a.toNat - windowBase
    if s.isLent t.team off n then ∃ w, s.store t reg a b nt = .hold s w
    else ∃ s1, s.store t reg a b nt = .ok s1 ∧ frame s s1 [] id id (fun m => { m with scratch := [] }) id ∧
      (t.team < s.teams.length → scratchpadWith (s.team t.team) (s1.team t.team) off b) ∧
      ∀ m, m ≠ t.team → (s1.team m).scratch = (s.team m).scratch := by
  dsimp only
  subst hb
  rw [store_inScratchpad h]
  split
  · exact ⟨_, rfl⟩
  · exact ⟨_, rfl, frame_scratchWrite s _ _ b, fun ht => scratchpadWith_scratchWrite ht _ b,
      fun m hm => scratch_scratchWrite_ne s hm _ b⟩

/-! ### Scratchpad-offset forms -/

/-- An aligned offset within the scratchpad passes the checks. -/
theorem scratchCheck_eq_none {s : State} {t : Tid} {off : Int} {n : Nat} (hn : n ∣ 16) (h0 : 0 ≤ off) (hal : off.toNat % n = 0)
    (hoff : off + n ≤ ((s.team t.team).scratchSize : Int)) (hsize : (s.team t.team).scratchSize ≤ 0x200000) :
    s.scratchCheck t off n = none := by
  have ha : (BitVec.ofInt 64 (windowBase + off)).toNat = windowBase + off.toNat := by
    unfold windowBase
    rw [BitVec.toNat_ofInt]
    omega
  have hbase : n ∣ windowBase := Nat.dvd_trans hn (by decide)
  have hmod : (BitVec.ofInt 64 (windowBase + off)).toNat % n = 0 := by
    rw [ha]
    exact Nat.mod_eq_zero_of_dvd (Nat.dvd_add hbase (Nat.dvd_of_mod_eq_zero hal))
  unfold scratchCheck
  dsimp only
  rw [if_neg (by rw [hmod]; decide), if_neg]
  simp only [Bool.or_eq_true, decide_eq_true_eq]
  omega

/-- A thread begins a wait at which no thread stops for a save (19 R329). -/
theorem waits_setWait {s : State} {t : Tid} (hh : s.Here t) {w : Wait} (hw : w.stops = false) :
    ((s.setWait t w).thread t).wait = w ∧ ((s.setWait t w).thread t).pc = (s.thread t).pc ∧ (s.setWait t w).mem = s.mem := by
  have he : s.setWait t w = s.modThread t fun x => { x with wait := w, reply := .none, sent := w.noted x.sent } := by
    unfold setWait
    rw [hw, Bool.and_false]
    rfl
  rw [he, thread_modThread_self s _ hh]
  exact ⟨rfl, rfl, rfl⟩

/-- What a scratchpad-offset store does: the bytes it stores, and its wait while one of their places is lent. -/
theorem exec_scratchStores {i : Instr} {n : Nat} {off : State → Tid → Int} {b : State → Tid → List Byte}
    (h : scratchAccesses i = some (n, off)) (hb : storedBytes i = some b) :
    n ∣ 16 ∧ i.info.region = false ∧
      ∀ s, exec i s = .next (s.perThread i fun s t => match s.scratchCheck t (off s t) n with
        | some r => .trap s r
        | none => if s.isLent t.team (off s t).toNat n then .hold s (.lent (off s t).toNat ((off s t).toNat + n))
            else .done (s.scratchWrite t.team (off s t).toNat (b s t))) := by
  unfold scratchAccesses at h
  split at h <;> cases h <;> cases hb
  all_goals exact ⟨by decide, rfl, fun _ => rfl⟩

/-- What a scratchpad-offset load does. -/
theorem exec_scratchLoads {i : Instr} {n : Nat} {off : State → Tid → Int} (h : scratchAccesses i = some (n, off))
    (hb : storedBytes i = none) :
    ∃ f, (i = .ldsB32 f ∨ i = .ldsB64 f ∨ i = .ldsB128 f) ∧ n ∣ 16 ∧ i.info.region = false ∧
      (i.WellFormed → (loadRole n).fits f.d = true) ∧
      ∀ s, exec i s = .next (s.perThread i fun s t => match s.scratchCheck t (off s t) n with
        | some r => .trap s r
        | none => .done (s.landLater t [t.thr]
            (s.loadDst t f.d.toNat false ((s.team t.team).scratch.bytes (off s t).toNat n)))) := by
  unfold scratchAccesses at h
  split at h <;> cases h <;> cases hb
  case h_1 => exact ⟨_, .inl rfl, by decide, rfl, fun _ => rfl, fun _ => rfl⟩
  case h_3 => exact ⟨_, .inr (.inl rfl), by decide, rfl, fits_of_wellFormed_i rfl rfl, fun _ => rfl⟩
  case h_5 => exact ⟨_, .inr (.inr rfl), by decide, rfl, fits_of_wellFormed_i rfl rfl, fun _ => rfl⟩

theorem scratchStore_completes {i : Instr} {s : State} {t : Tid} {n : Nat} {off : State → Tid → Int}
    {b : State → Tid → List Byte} (h : scratchAccesses i = some (n, off)) (hb : storedBytes i = some b) (ha : alone s i t)
    (h0 : 0 ≤ off s t) (hal : (off s t).toNat % n = 0) (hoff : off s t + n ≤ ((s.team t.team).scratchSize : Int))
    (hsize : (s.team t.team).scratchSize ≤ 0x200000) :
    if s.isLent t.team (off s t).toNat n then
      ∃ s' w, exec i s = .next s' ∧ (s'.thread t).wait = w ∧ w ≠ .none ∧ (s'.thread t).pc = (s.thread t).pc ∧ s'.mem = s.mem
    else ∃ s', exec i s = .next s' ∧ frame s s' [t] id id (fun m => { m with scratch := [] }) id ∧
      goesOn s s' t s.cur.next false ∧ noOtherResult s s' t [] ∧
      scratchpadWith (s.team t.team) (s'.team t.team) (off s t).toNat (b s t) ∧
      ∀ m, m ≠ t.team → (s'.team m).scratch = (s.team m).scratch := by
  obtain ⟨hn, hr, hexec⟩ := exec_scratchStores h hb
  have hh := here_of_alone ha
  have hbody := hexec s
  rw [perThread_alone ha, scratchCheck_eq_none hn h0 hal hoff hsize] at hbody
  dsimp only at hbody
  split
  · next hlent =>
    rw [if_pos hlent] at hbody
    obtain ⟨hwait, hpc, hmem⟩ := waits_setWait hh (w := .lent (off s t).toNat ((off s t).toNat + n)) rfl
    exact ⟨_, _, hbody, hwait, Wait.noConfusion, hpc, hmem⟩
  · next hlent =>
    rw [if_neg hlent] at hbody
    obtain ⟨hframe, hgoes, hno⟩ := settle_effect hr (frame_scratchWrite s t.team (off s t).toNat (b s t)) (present_of_alone ha)
      rfl rfl
    have hteam := team_settle_done (fun m => m.scratch) (fun _ _ => rfl) (s.scratchWrite t.team (off s t).toNat (b s t)) t i false
    obtain ⟨hin, hout⟩ := scratchpadWith_scratchWrite hh.1.1 (off s t).toNat (b s t)
    refine ⟨_, hbody, hframe, hgoes, hno, ⟨?_, ?_⟩, fun m hm => ?_⟩
    · rw [hteam]; exact hin
    · rw [hteam]; exact hout
    · rw [hteam]; exact scratch_scratchWrite_ne s hm _ _

theorem scratchLoad_completes {i : Instr} {s : State} {t : Tid} {n : Nat} {off : State → Tid → Int}
    (h : scratchAccesses i = some (n, off)) (hb : storedBytes i = none) (hw : i.WellFormed) (ha : alone s i t)
    (h0 : 0 ≤ off s t) (hal : (off s t).toNat % n = 0) (hoff : off s t + n ≤ ((s.team t.team).scratchSize : Int))
    (hsize : (s.team t.team).scratchSize ≤ 0x200000) :
    ∃ s' d b, exec i s = .next s' ∧ onlyRegisters s s' [t] ∧ goesOn s s' t s.cur.next false ∧
      (∃ f, (i = .ldsB32 f ∨ i = .ldsB64 f ∨ i = .ldsB128 f) ∧ d = f.d) ∧ b.length = n ∧
      (∀ j, j < n → nthD 0 b j = (s.team t.team).scratch.get ((off s t).toNat + j)) ∧
      ∀ j x, (loadedWords false b)[j]? = some x → holdsV s s' t (d.toNat + j) x ∧
        underWay s s' t [t.thr] (.v t.thr (physOf (s.thread t).base (d.toNat + j)) x) none := by
  obtain ⟨f, hform, hn, hr, hfit, hexec⟩ := exec_scratchLoads h hb
  have hlen := Memory.bytes_length (s.team t.team).scratch (off s t).toNat n
  obtain ⟨honly, hgoes, hland⟩ := settle_loaded (i := i) hr (here_of_alone ha) (d := f.d) false (hlen.symm ▸ hfit hw)
  refine ⟨_, f.d, _, ?_, honly, hgoes, ⟨f, hform, rfl⟩, hlen, Memory.nthD_bytes _ _ _, hland⟩
  rw [hexec, perThread_alone ha, scratchCheck_eq_none hn h0 hal hoff hsize]

end State

end Sys2Proof.Machine

open Sys2Proof.Machine.State in
/-- Settles O17: an address in the window leads to its offset, and an offset within the scratchpad passes the checks; a write
changes the team's scratchpad alone, and a load reads it. -/
theorem scratchpadAccessesComplete : Obligations.ScratchpadAccessesComplete := by
  refine ⟨fun s t own reg n a ro nt _ h hans => ⟨scratchpad_load_ok s t own reg n a ro nt h hans,
    scratchpad_store_ok s t reg n a nt h⟩, fun i s t n off h hw ha h0 hal hoff hsize => ?_⟩
  split
  · next b hb => exact scratchStore_completes h hb ha h0 hal hoff hsize
  · next hb => exact scratchLoad_completes h hb hw ha h0 hal hoff hsize
end

section
/-! K-steps of matrix jobs (13 R280, R284): what one writes, and from which trough it reads its B tile. -/

namespace Sys2Proof.Machine

open Sys2Proof.Claims

theorem Memory.take_bytes (m : Memory) (a : Nat) {k n : Nat} (h : k ≤ n) : (m.bytes a n).take k = m.bytes a k := by
  induction k generalizing a n with
  | zero => rfl
  | succ k ih =>
    cases n with
    | zero => omega
    | succ n => rw [Memory.bytes, Memory.bytes, List.take_succ_cons, ih (a + 1) (by omega)]

theorem placed_length {α : Type} (l : List α) (n : Nat) : (placed n l).length = l.length := by
  induction l generalizing n with
  | nil => rfl
  | cons x l ih => rw [placed, List.length_cons, List.length_cons, ih]

/-- Lists of one length joined. -/
theorem length_flatMap_const {α β : Type} (l : List α) (f : α → List β) (k : Nat) (h : ∀ y, (f y).length = k) :
    (l.flatMap f).length = l.length * k := by
  induction l with
  | nil => rw [List.flatMap_nil, List.length_nil, List.length_nil, Nat.zero_mul]
  | cons y l ih => rw [List.flatMap_cons, List.length_append, h, ih, List.length_cons, Nat.succ_mul, Nat.add_comm]

/-- The number that the first bytes of those written make. -/
theorem Memory.le_putAll_take (m : Memory) (a : Nat) (l : List Byte) {k : Nat} (h : k ≤ l.length) :
    (m.putAll (bytesAt a l)).le a k = leNat (l.take k) := by
  rw [Memory.le, ← Memory.take_bytes _ a h, Memory.bytes_putAll]

namespace State

/-! ### The job queue and the trough -/

theorem trough_modJob (s : State) (c id d : Nat) (f : Job → Job) : ((s.modJob c id f).core d).trough = (s.core d).trough := by
  unfold modJob
  rw [core_modCore]
  split
  · next h => rw [h]
  · rfl

theorem trough_troughWrite (s : State) (c off : Nat) (b : List Byte) :
    ((s.troughWrite c off b).core c).trough = (s.core c).trough.putAll (bytesAt off b) := by
  unfold troughWrite
  rw [core_modCore_self]

theorem jobs_troughWrite (s : State) (c off : Nat) (b : List Byte) :
    ((s.troughWrite c off b).core c).jobs = (s.core c).jobs := by
  unfold troughWrite
  rw [core_modCore_self]

theorem core_lookSave (s : State) (n c : Nat) : (s.lookSave n).core c = s.core c := by
  unfold lookSave
  split
  · exact afterOnce_core ..
  · rfl

/-- What follows for a job outside a broadcast set is a step that becomes due: no trough changes. -/
theorem trough_tryStep {s : State} {c : Nat} {x : Job} (hx : s.headJob c = some x) (hb : cardBcast x.card = false) (d : Nat) :
    ((s.tryStep c).core d).trough = (s.core d).trough := by
  have halone : s.broadcast x = false := by unfold broadcast; rw [hb, Bool.false_and]
  unfold tryStep
  simp only [hx, halone, Bool.false_eq_true, if_false]
  split
  · rfl
  · split
    · exact trough_modJob ..
    · split
      · exact trough_modJob ..
      · rfl

/-! ### A K-step -/

/-- The C tile that a job's next K-step adds to begins here in the trough. -/
def kstepBase (x : Job) : Nat := recToff x.slotC.record + tileAt x cardCstr * 16384

/-- What that C tile then holds, its A tile and its old bytes read in trough `own` and its B tile in trough `mb`. -/
def kstepBytes (own mb : Memory) (x : Job) : List Byte :=
  kstepTile own mb own x x.slotB.record (tileAt x cardAstr) (tileAt x cardBstr) (tileAt x cardCstr)
    (tileAt x cardAstr % cardKt x.card)

theorem kstepBytes_length (own mb : Memory) (x : Job) : (kstepBytes own mb x).length = 16384 := by
  unfold kstepBytes kstepTile
  rw [length_flatMap_const _ _ 256 fun _ => ?_, List.length_range]
  rw [length_flatMap_const _ _ 4 fun _ => leBytes_length _ _, placed_length, List.length_map, List.length_range]

/-- A K-step of a job outside a broadcast set reads its B tile on the core on which the job's team stands. -/
theorem trough_kstep {s : State} {c : Nat} {x : Job} (hc : s.arg.core = c) (hid : s.arg.id = x.id) (hjobs : (s.core c).jobs = [x])
    (hbusy : x.busy = true) (hset : x.set_ = []) (hb : cardBcast x.card = false) :
    ∃ s', exec .kstep s = .next s' ∧ (s'.core c).trough = (s.core c).trough.putAll
      (bytesAt (kstepBase x) (kstepBytes (s.core c).trough (s.core (s.team x.team).core).trough x)) := by
  let s1 := s.troughWrite c (kstepBase x) (kstepBytes (s.core c).trough (s.core (s.team x.team).core).trough x)
  let s2 := s1.modJob c x.id fun j => { j with pos := j.pos + 1, busy := false }
  have hexec : exec .kstep s = .next ((s2.lookSave x.team).tryStep c) := by
    show execKstep s = _
    unfold execKstep
    simp only [hc, hid, hjobs, List.find?_cons, decide_true, hbusy, hset, List.isEmpty_nil, Bool.not_true, Bool.false_eq_true,
      if_false, if_true]
    rfl
  have hjobs2 : (s2.core c).jobs = [{ x with pos := x.pos + 1, busy := false }] := by
    have h : (s2.core c).jobs = (s1.core c).jobs.map fun j => if j.id = x.id then { j with pos := j.pos + 1, busy := false } else j :=
      congrArg Core.jobs (core_modCore_self s1 c _)
    rw [h, jobs_troughWrite, hjobs, List.map_singleton, if_pos rfl]
  have hhead : (s2.lookSave x.team).headJob c = some { x with pos := x.pos + 1, busy := false } := by
    unfold headJob
    rw [core_lookSave, hjobs2]
    rfl
  refine ⟨_, hexec, ?_⟩
  rw [trough_tryStep hhead hb, core_lookSave, trough_modJob, trough_troughWrite]

/-- The first accumulator of the C tile after such a K-step. -/
theorem accumulator_kstep {s : State} {c : Nat} {x : Job} (hc : s.arg.core = c) (hid : s.arg.id = x.id)
    (hjobs : (s.core c).jobs = [x]) (hbusy : x.busy = true) (hset : x.set_ = []) (hb : cardBcast x.card = false) :
    ∃ s', exec .kstep s = .next s' ∧ (s'.core c).trough.le (kstepBase x) 4 =
      leNat ((kstepBytes (s.core c).trough (s.core (s.team x.team).core).trough x).take 4) := by
  obtain ⟨s', hexec, htrough⟩ := trough_kstep hc hid hjobs hbusy hset hb
  refine ⟨s', hexec, ?_⟩
  rw [htrough, Memory.le_putAll_take _ _ _ (by rw [kstepBytes_length]; decide)]

/-! ### A job whose team stands on another core -/

end State

open State

/-- A reservation slot of a record that no job has used. -/
def newSlot (r : Nat) : Slot := ⟨BitVec.ofNat 256 r, 0, false, false, []⟩

/-- A job of M = N = K = 1 whose one K-step is under way: A at trough offset 0, B at 4,352, C at 16,384. -/
def oneStepJob : Job :=
  { id := 0, team := 0, j := 0, card := BitVec.ofNat 1024 (fields [(0, 1), (32, 1), (64, 1), (108, 1), (160, 0xFFFFFFFF), (192, 1)])
    slotA := newSlot (fields [(128, 4352), (150, 3), (155, 8), (176, 1)])
    slotB := newSlot (fields [(96, 4352), (128, 4352), (148, 1), (150, 3), (155, 8), (176, 1), (179, 1)])
    slotC := newSlot (fields [(96, 16384), (128, 16384), (148, 2), (155, 8), (176, 1), (179, 2)])
    pos := 0, started := true, live := true, busy := true, tilesA := 1, tilesB := 1, again := false, stopped := false, set_ := [] }

/-- The job runs on core 1, whose trough holds a NaN block as the first of the B tile; its team stands on core 0, whose trough
holds zeros. -/
def teamOnOtherCore : State :=
  { State.reset.programLoaded.modCore 1 fun k => { k with jobs := [oneStepJob], trough := [(4352 + 16, 0xFF)] } with
    arg := { core := 1, id := 0 } }

theorem kstepBytes_teamOnOtherCore : leNat ((kstepBytes (teamOnOtherCore.core 1).trough
    (teamOnOtherCore.core (teamOnOtherCore.team oneStepJob.team).core).trough oneStepJob).take 4) = 0 := by decide +kernel

end Sys2Proof.Machine

open Sys2Proof.Machine Sys2Proof.Machine.State in
/-- Refutes O36: nothing ties the job's core to the core on which its team stands, and a K-step reads its B tile on the latter
(13 R284); here B of core 1 has a NaN block, so that the accumulator would be NaN, and it stays 0, as core 0 holds zeros. -/
theorem not_jobsRunStepByStep : ¬ Obligations.JobsRunStepByStep := by
  unfold Obligations.JobsRunStepByStep
  rintro ⟨-, -, -, -, h, -⟩
  obtain ⟨s', b, hexec, -, -, hacc, -⟩ := h teamOnOtherCore 1 oneStepJob rfl rfl (by decide +kernel) rfl rfl (by decide +kernel)
  obtain ⟨s'', hexec', hzero⟩ := accumulator_kstep (s := teamOnOtherCore) (c := 1) (x := oneStepJob) rfl rfl (by decide +kernel) rfl rfl
    (by decide +kernel)
  obtain rfl : s' = s'' := Host.Outcome.next.inj (hexec.symm.trans hexec')
  rw [kstepBytes_teamOnOtherCore] at hzero
  unfold kstepBase tileAt at hzero
  have hnan := hacc 0 0 (by decide) (by decide)
  simp only [Nat.zero_mul, Nat.add_zero, hzero] at hnan
  exact absurd hnan (by decide +kernel)
end
